-- ==== Sys2Proof/Word.lean ====
section
/-!
DEFINITION. Word types and the plainest list and lane arithmetic. Nothing here depends on the instruction set.
-/
namespace Sys2Proof

abbrev Byte := BitVec 8
abbrev W16 := BitVec 16
abbrev W32 := BitVec 32
abbrev W64 := BitVec 64
abbrev W128 := BitVec 128

/-- The 32 lanes of a vector, an index vector or a queue slot, lane 0 first. A missing lane reads zero. -/
abbrev Lanes := List W32

/-- Replace element `n` of a list, extending it with `d` where it is too short; with `List.getD · · d` this is a total
array whose unlisted elements are `d`. -/
def setAt {α : Type} (d : α) : List α → Nat → α → List α
  | [], 0, v => [v]
  | [], n + 1, v => d :: setAt d [] n v
  | _ :: xs, 0, v => v :: xs
  | x :: xs, n + 1, v => x :: setAt d xs n v

/-- Lane `l` of a vector. -/
def lane (v : Lanes) (l : Nat) : W32 := v.getD l 0

/-- The vector whose lane `l` is `f l`. -/
def mkLanes (f : Nat → W32) : Lanes := (List.range 32).map f

/-- The 32-bit mask whose bit `l` is `f l`. -/
def mkMask (f : Nat → Bool) : W32 :=
  (List.range 32).foldl (fun m l => if f l then m ||| (1#32 <<< l) else m) 0

/-- The lanes of a mask in ascending order. -/
def maskLanes (m : W32) : List Nat := (List.range 32).filter (fun l => m.getLsbD l)

/-- The vector with every lane equal to `w`. -/
def splat (w : W32) : Lanes := List.replicate 32 w

/-- Bits `[lo + n - 1 : lo]` of a number. -/
def bitsOf (x lo n : Nat) : Nat := (x >>> lo) % 2 ^ n

/-- The number with byte list `bs`, least significant first. -/
def natOfBytes : List Byte → Nat
  | [] => 0
  | b :: bs => b.toNat + 256 * natOfBytes bs

/-- The first `n` bytes of a number, least significant first. -/
def bytesOfNat : Nat → Nat → List Byte
  | 0, _ => []
  | n + 1, x => BitVec.ofNat 8 x :: bytesOfNat n (x / 256)

/-- Ceiling of a quotient; 0 for a zero divisor. -/
def ceilDiv (a b : Nat) : Nat := (a + (b - 1)) / b

/-- An integer clamped to a range. -/
def clampInt (x lo hi : Int) : Int := if x < lo then lo else if hi < x then hi else x

end Sys2Proof
end

