-- ==== Sys2Proof/Syntax.lean ====
section
/-!
DEFINITION. The instruction set as syntax: one constructor of `Instr` per row of spec/opcode_table.json. Direct words
(D-space, R116) carry their register and immediate fields; template rows (T-space) carry the amended template entry
(R122, R130) and the chain's predicate (R132); matrix rows carry the fields of R133; the remaining rows are events of
engines, of Bandstand, of Belvedere and of the outside world, whose operands `State.ev` holds.
-/
namespace Sys2Proof

/-- The four stream kinds (05 R111). -/
inductive Stream where
  | c | a | x | m
  deriving DecidableEq, Repr

/-- A stream context: the team's C or M stream, or the A or X stream of one of its groups (05 R111). -/
inductive Ctx where
  | c (team : Nat)
  | a (team group : Nat)
  | x (team group : Nat)
  | m (team : Nat)
  deriving DecidableEq, Repr, Inhabited

/-- The kinds of access a translation is made for (13 R326, R331). -/
inductive AccessKind where
  | read | write | atomic | fetch
  deriving DecidableEq, Repr

/-- The fields of an amended template entry other than its opcode (05 R122). -/
structure Tpl where
  dstIdx : BitVec 6 := 0
  dstKind : BitVec 2 := 0
  srcA : Byte := 0
  srcB : Byte := 0
  srcC : Byte := 0
  fmt : BitVec 5 := 0
  ind : Bool := false
  rnd : BitVec 3 := 0
  sat : Bool := false
  wait : BitVec 4 := 0
  free : BitVec 4 := 0
  adv : BitVec 4 := 0
  zero : BitVec 2 := 0
  imm : W32 := 0
  aux : W32 := 0
  deriving DecidableEq, Repr

/-- The fields of a matrix word other than its opcode (05 R133). -/
structure MFields where
  ringA : BitVec 3 := 0
  ringB : BitVec 3 := 0
  acc : BitVec 3 := 0
  fmtA : BitVec 5 := 0
  fmtB : BitVec 5 := 0
  ind : Bool := false
  lc : BitVec 3 := 0
  accf : BitVec 2 := 0
  zero : BitVec 1 := 0
  waitB : BitVec 7 := 0
  waitEn : Bool := false
  postB : BitVec 7 := 0
  postEn : Bool := false
  op : W16 := 0
  deriving DecidableEq, Repr

/-- A camera or Ethernet frame as it reaches a port (14 R357). -/
structure Frame where
  port : BitVec 6 := 0
  dataType : BitVec 6 := 0
  channel : BitVec 4 := 0
  priority : Nat := 0
  payload : List Byte := []
  ptpStamp : W64 := 0
  crcError : Bool := false
  deriving DecidableEq, Repr

/-- What the boot flash, the fuses and the built-in self-tests supply to a device reset (21 R478, 22 R494). -/
structure BootInputs where
  digest0 : BitVec 384 := 0
  digest1 : BitVec 384 := 0
  verified0 : Bool := false
  verified1 : Bool := false
  failing : BitVec 28 := 0
  pkg : BitVec 2 := 0
  hostMode : Bool := false
  deriving DecidableEq, Repr

/-- The units that send heartbeats to Belvedere (21 R479), and the two others that keep a local time unit (02 R46, R48). -/
inductive UnitId where
  | cluster (k : Nat)
  | copyUnit (core : Nat)
  | builder (die n : Nat)
  | recon (die : Nat)
  | ingress (n : Nat)
  | memCtl (n : Nat)
  | ltu (n : Nat)
  | bandstand
  | belvedere
  deriving DecidableEq, Repr

/-- Who makes a request that reaches a home L2 (03 R77, 15 R360): a team, with its engines, vision units, builder commands and walkers; the
reconstruction unit of a die; an ingress channel; the application cores; the host; Belvedere; another package, whose request carries
its regulator. -/
inductive Requester where
  | team (t : Nat)
  | recon (die : Nat)
  | ingress (n : Nat)
  | app
  | host
  | belvedere
  | peer (pkg reg : Nat)
  deriving DecidableEq, Repr

/-- How an outbound PCI Express request ends (22 R490). -/
inductive BusStatus where
  | success | unsupported | abort | poisoned
  deriving DecidableEq, Repr

/-- The operands of an event: which page, job, instance, team, queue, core, channel, address, unit or frame the event row
is about. An event reads only the operands its meaning names; the others keep their defaults. -/
structure EvArgs where
  page : BitVec 4 := 0
  job : Nat := 0
  inst : Nat := 0
  cluster : Nat := 0
  team : Nat := 0
  group : Nat := 0
  q : Nat := 0
  n : Nat := 0
  core : Nat := 0
  ch : Nat := 0
  part : Nat := 0
  cmd : Nat := 0
  chan : Nat := 0
  bank : Nat := 0
  who : Requester := .app
  ctx : Ctx := .c 0
  va : Nat := 0
  pa : Nat := 0
  write : Bool := false
  data : W64 := 0
  off : Nat := 0
  wide : Bool := false
  frame : Frame := {}
  boot : BootInputs := {}
  unit : UnitId := .cluster 0
  seq : Nat := 0
  busy : Bool := false
  ok : Bool := false
  offset : Nat := 0
  correction : Int := 0
  marginPs : W16 := 0
  fmaxMhz : BitVec 12 := 0
  watts : Nat := 0
  celsius : Nat := 0
  link : Nat := 0
  peer : Nat := 0
  bus : Nat := 0
  status : BusStatus := .success
  deriving DecidableEq, Repr, Inhabited

/-- One constructor per row of spec/opcode_table.json. The event rows take their operands from `State.ev`. -/
inductive Instr where
  | nop
  | add (d : BitVec 6) (a : BitVec 6) (b : BitVec 6)
  | sub (d : BitVec 6) (a : BitVec 6) (b : BitVec 6)
  | mul (d : BitVec 6) (a : BitVec 6) (b : BitVec 6)
  | mulh (d : BitVec 6) (a : BitVec 6) (b : BitVec 6)
  | mulhu (d : BitVec 6) (a : BitVec 6) (b : BitVec 6)
  | div (d : BitVec 6) (a : BitVec 6) (b : BitVec 6)
  | divu (d : BitVec 6) (a : BitVec 6) (b : BitVec 6)
  | rem (d : BitVec 6) (a : BitVec 6) (b : BitVec 6)
  | remu (d : BitVec 6) (a : BitVec 6) (b : BitVec 6)
  | and (d : BitVec 6) (a : BitVec 6) (b : BitVec 6)
  | or (d : BitVec 6) (a : BitVec 6) (b : BitVec 6)
  | xor (d : BitVec 6) (a : BitVec 6) (b : BitVec 6)
  | shl (d : BitVec 6) (a : BitVec 6) (b : BitVec 6)
  | shr (d : BitVec 6) (a : BitVec 6) (b : BitVec 6)
  | sar (d : BitVec 6) (a : BitVec 6) (b : BitVec 6)
  | min (d : BitVec 6) (a : BitVec 6) (b : BitVec 6)
  | max (d : BitVec 6) (a : BitVec 6) (b : BitVec 6)
  | minu (d : BitVec 6) (a : BitVec 6) (b : BitVec 6)
  | maxu (d : BitVec 6) (a : BitVec 6) (b : BitVec 6)
  | slt (d : BitVec 6) (a : BitVec 6) (b : BitVec 6)
  | sltu (d : BitVec 6) (a : BitVec 6) (b : BitVec 6)
  | seq (d : BitVec 6) (a : BitVec 6) (b : BitVec 6)
  | sne (d : BitVec 6) (a : BitVec 6) (b : BitVec 6)
  | addi (d : BitVec 6) (a : BitVec 6) (imm : BitVec 12)
  | andi (d : BitVec 6) (a : BitVec 6) (imm : BitVec 12)
  | ori (d : BitVec 6) (a : BitVec 6) (imm : BitVec 12)
  | xori (d : BitVec 6) (a : BitVec 6) (imm : BitVec 12)
  | shli (d : BitVec 6) (a : BitVec 6) (sh : BitVec 6)
  | shri (d : BitVec 6) (a : BitVec 6) (sh : BitVec 6)
  | sari (d : BitVec 6) (a : BitVec 6) (sh : BitVec 6)
  | slti (d : BitVec 6) (a : BitVec 6) (imm : BitVec 12)
  | limm (d : BitVec 6) (imm : BitVec 18)
  | limmh (d : BitVec 6) (imm : BitVec 18)
  | limmx (d : BitVec 6) (imm : BitVec 18)
  | limmt (d : BitVec 6) (imm : BitVec 10)
  | fadd (d : BitVec 6) (a : BitVec 6) (b : BitVec 6) (sat : Bool) (mode : BitVec 3)
  | fsub (d : BitVec 6) (a : BitVec 6) (b : BitVec 6) (sat : Bool) (mode : BitVec 3)
  | fmul (d : BitVec 6) (a : BitVec 6) (b : BitVec 6) (sat : Bool) (mode : BitVec 3)
  | ffma (d : BitVec 6) (a : BitVec 6) (b : BitVec 6) (sat : Bool) (mode : BitVec 3)
  | fmin (d : BitVec 6) (a : BitVec 6) (b : BitVec 6)
  | fmax (d : BitVec 6) (a : BitVec 6) (b : BitVec 6)
  | fcmp (d : BitVec 6) (a : BitVec 6) (b : BitVec 6) (rel : BitVec 3)
  | fcvt (d : BitVec 6) (a : BitVec 6) (src : BitVec 3) (dst : BitVec 3) (sat : Bool) (mode : BitVec 3)
  | gxlat (d : BitVec 6) (a : BitVec 6) (b : BitVec 6)
  | glim (d : BitVec 6) (a : BitVec 6) (imm : BitVec 12)
  | qcfg (q : BitVec 6) (a : BitVec 6) (imm : BitVec 12)
  | qadv (q : BitVec 6) (k : BitVec 4)
  | qadvTail (q : BitVec 6) (k : BitVec 4)
  | b (off : BitVec 24)
  | beq (a : BitVec 6) (b : BitVec 6) (off : BitVec 12)
  | bne (a : BitVec 6) (b : BitVec 6) (off : BitVec 12)
  | blt (a : BitVec 6) (b : BitVec 6) (off : BitVec 12)
  | bge (a : BitVec 6) (b : BitVec 6) (off : BitVec 12)
  | bltu (a : BitVec 6) (b : BitVec 6) (off : BitVec 12)
  | bgeu (a : BitVec 6) (b : BitVec 6) (off : BitVec 12)
  | call (off : BitVec 24)
  | callr (a : BitVec 6)
  | ret
  | jr (a : BitVec 6)
  | brx (a : BitVec 6) (n : BitVec 6)
  | loop (a : BitVec 6) (off : BitVec 12)
  | lset (n : BitVec 6) (a : BitVec 6) (imm : BitVec 12)
  | runa (a : BitVec 6) (b : BitVec 6)
  | runx (a : BitVec 6) (b : BitVec 6)
  | runm (a : BitVec 6)
  | tpload (a : BitVec 6) (imm : BitVec 12)
  | fmtset (n : BitVec 6) (a : BitVec 6) (imm : BitVec 12)
  | mbset (n : BitVec 6) (k : BitVec 12)
  | cpy (a : BitVec 6) (b : BitVec 6)
  | chkick (a : BitVec 6)
  | rast (a : BitVec 6)
  | bvhBuild (a : BitVec 6)
  | bvhRefit (a : BitVec 6)
  | bvhRebalance (a : BitVec 6)
  | bvhPublish (d : BitVec 6) (a : BitVec 6)
  | bvhQuality (d : BitVec 6) (a : BitVec 6)
  | gpin (d : BitVec 6) (a : BitVec 6)
  | gunpin (a : BitVec 6)
  | defdrain (q : BitVec 6) (a : BitVec 6) (n : BitVec 6)
  | itemq (a : BitVec 6) (b : BitVec 6)
  | covrd (d : BitVec 6) (sel : BitVec 6)
  | cld (d : BitVec 6) (a : BitVec 6) (imm : BitVec 12)
  | cst (d : BitVec 6) (a : BitVec 6) (imm : BitVec 12)
  | camoTeam (d : BitVec 6) (a : BitVec 6) (b : BitVec 6) (op : BitVec 3) (ord : BitVec 2) (prm : Bool)
  | camoClu (d : BitVec 6) (a : BitVec 6) (b : BitVec 6) (op : BitVec 3) (ord : BitVec 2)
  | camoDev (d : BitVec 6) (a : BitVec 6) (b : BitVec 6) (op : BitVec 3) (ord : BitVec 2)
  | camoSys (d : BitVec 6) (a : BitVec 6) (b : BitVec 6) (op : BitVec 3) (ord : BitVec 2)
  | fence (samp : Bool) (ord : BitVec 2) (scope : BitVec 3) (prm : Bool)
  | barInit (a : BitVec 6) (b : BitVec 6)
  | barArrive (n : BitVec 7)
  | barWait (n : BitVec 7)
  | barInval (n : BitVec 7)
  | ctrwait (a : BitVec 6) (b : BitVec 6) (scope : BitVec 3)
  | ctrpost (a : BitVec 6) (b : BitVec 6) (scope : BitVec 3)
  | fork (d : BitVec 6) (a : BitVec 6) (b : BitVec 6)
  | join (d : BitVec 6) (a : BitVec 6)
  | post (a : BitVec 6) (b : BitVec 6)
  | take (d : BitVec 6) (f : BitVec 6) (a : BitVec 6)
  | trap (n : BitVec 6)
  | eret
  | sysr (d : BitVec 6) (sel : BitVec 12)
  | sysw (a : BitVec 6) (sel : BitVec 12)
  | ckpt
  | region (open_ : Bool)
  | seg
  | kexit
  | yield
  | time (d : BitVec 6)
  | revst (d : BitVec 6) (a : BitVec 6) (sel : BitVec 6)
  | vadd (t : Tpl) (p : BitVec 4)
  | vsub (t : Tpl) (p : BitVec 4)
  | vmul (t : Tpl) (p : BitVec 4)
  | vmulh (t : Tpl) (p : BitVec 4)
  | vmad (t : Tpl) (p : BitVec 4)
  | vand (t : Tpl) (p : BitVec 4)
  | vor (t : Tpl) (p : BitVec 4)
  | vxor (t : Tpl) (p : BitVec 4)
  | vshl (t : Tpl) (p : BitVec 4)
  | vshr (t : Tpl) (p : BitVec 4)
  | vsar (t : Tpl) (p : BitVec 4)
  | vmin (t : Tpl) (p : BitVec 4)
  | vmax (t : Tpl) (p : BitVec 4)
  | vabs (t : Tpl) (p : BitVec 4)
  | vneg (t : Tpl) (p : BitVec 4)
  | vcmp (t : Tpl) (p : BitVec 4)
  | vsel (t : Tpl) (p : BitVec 4)
  | vclz (t : Tpl) (p : BitVec 4)
  | vpopc (t : Tpl) (p : BitVec 4)
  | vdot4 (t : Tpl) (p : BitVec 4)
  | vdot8 (t : Tpl) (p : BitVec 4)
  | vavg (t : Tpl) (p : BitVec 4)
  | vmov (t : Tpl) (p : BitVec 4)
  | viota (t : Tpl) (p : BitVec 4)
  | vbfx (t : Tpl) (p : BitVec 4)
  | vbfi (t : Tpl) (p : BitVec 4)
  | vfadd (t : Tpl) (p : BitVec 4)
  | vfsub (t : Tpl) (p : BitVec 4)
  | vfmul (t : Tpl) (p : BitVec 4)
  | vfma (t : Tpl) (p : BitVec 4)
  | vfmin (t : Tpl) (p : BitVec 4)
  | vfmax (t : Tpl) (p : BitVec 4)
  | vfcmp (t : Tpl) (p : BitVec 4)
  | vrcp (t : Tpl) (p : BitVec 4)
  | vrsq (t : Tpl) (p : BitVec 4)
  | vsqrt (t : Tpl) (p : BitVec 4)
  | vdiv (t : Tpl) (p : BitVec 4)
  | vexp2 (t : Tpl) (p : BitVec 4)
  | vlog2 (t : Tpl) (p : BitVec 4)
  | vsin (t : Tpl) (p : BitVec 4)
  | vcos (t : Tpl) (p : BitVec 4)
  | vrnd (t : Tpl) (p : BitVec 4)
  | vdot2 (t : Tpl) (p : BitVec 4)
  | vcvt (t : Tpl) (p : BitVec 4)
  | vpack (t : Tpl) (p : BitVec 4)
  | vunpack (t : Tpl) (p : BitVec 4)
  | vfclass (t : Tpl) (p : BitVec 4)
  | vlerp (t : Tpl) (p : BitVec 4)
  | vshuf (t : Tpl) (p : BitVec 4)
  | vbcast (t : Tpl) (p : BitVec 4)
  | vred (t : Tpl) (p : BitVec 4)
  | vscan (t : Tpl) (p : BitVec 4)
  | vballot (t : Tpl) (p : BitVec 4)
  | pop (t : Tpl) (p : BitVec 4)
  | qpush (t : Tpl) (p : BitVec 4)
  | defer (t : Tpl) (p : BitVec 4)
  | mread (t : Tpl) (p : BitVec 4)
  | mwrite (t : Tpl) (p : BitVec 4)
  | itemnext (t : Tpl) (p : BitVec 4)
  | vdisc (t : Tpl) (p : BitVec 4)
  | vzout (t : Tpl) (p : BitVec 4)
  | cacc (t : Tpl) (p : BitVec 4)
  | crej (t : Tpl) (p : BitVec 4)
  | vtos (t : Tpl) (p : BitVec 4)
  | ld (t : Tpl) (p : BitVec 4)
  | ldl (t : Tpl) (p : BitVec 4)
  | ldf (t : Tpl) (p : BitVec 4)
  | ldc (t : Tpl) (p : BitVec 4)
  | st (t : Tpl) (p : BitVec 4)
  | stl (t : Tpl) (p : BitVec 4)
  | stf (t : Tpl) (p : BitVec 4)
  | pf (t : Tpl) (p : BitVec 4)
  | smp (t : Tpl) (p : BitVec 4)
  | aadd (t : Tpl) (p : BitVec 4)
  | amin (t : Tpl) (p : BitVec 4)
  | amax (t : Tpl) (p : BitVec 4)
  | aand (t : Tpl) (p : BitVec 4)
  | aor (t : Tpl) (p : BitVec 4)
  | axor (t : Tpl) (p : BitVec 4)
  | axch (t : Tpl) (p : BitVec 4)
  | acas (t : Tpl) (p : BitVec 4)
  | afadd (t : Tpl) (p : BitVec 4)
  | trace (t : Tpl) (p : BitVec 4)
  | mbput (t : Tpl) (p : BitVec 4)
  | attr (t : Tpl) (p : BitVec 4)
  | ldp (t : Tpl) (p : BitVec 4)
  | stp (t : Tpl) (p : BitVec 4)
  | iadd (t : Tpl) (p : BitVec 4)
  | ishl (t : Tpl) (p : BitVec 4)
  | imov (t : Tpl) (p : BitVec 4)
  | iand (t : Tpl) (p : BitVec 4)
  | mzero (w : MFields)
  | mma (w : MFields)
  | mmas (w : MFields)
  | mreq (w : MFields)
  | mst (w : MFields)
  | mld (w : MFields)
  | mbar (w : MFields)
  | mfmt (w : MFields)
  | mloop (w : MFields)
  | mend (w : MFields)
  | mrel (w : MFields)
  /-- R134: A word or chain that describes no legal operation raises its decoding cause at issue: a reserved D, T or M opcode, an unloaded template entry, a patch word in the C stream, or a fetch past the end of section 0. -/
  | reservedEncoding (cause : BitVec 10) (atWord : Nat)
  /-- R44: A SUBMIT write with OP 0 is handled in page order; the checks of R44 run first, then the card is read for acceptance or a result is prepared. -/
  | submit
  /-- R46: A SUBMIT write with OP 1 stops all further releases of an accepted card at once. -/
  | withdraw
  /-- R29: Once the card and image reads return, Bandstand validates the card and posts the accept or reject result; a one-shot card releases its instance here. -/
  | cardAcceptance
  /-- R43: A read of RESULT returns the oldest unread submission result and removes it. -/
  | resultRead
  /-- R50: Bandstand's local time reaches a periodic release instant and the instance is created with its deadline, rung in force and any redundancy snapshot. -/
  | release
  /-- R50: A released instance becomes ready at the clusters of its mask, at most 200 ns after release. -/
  | instanceReady
  /-- R468: A pre-emption or migration signal reaches every context of the team, within t_signal. -/
  | signalArrival
  /-- R469: The issued work of a parked team reaches its defined state, and bank transfer or spill is chosen. -/
  | drainComplete
  /-- R470: A parked team's context has moved whole into the inactive bank and its slots are free. -/
  | bankTransferComplete
  /-- R470: A parked team's context has been written to lodge shadow storage and its slots are free. -/
  | spillComplete
  /-- R470: A suspended team's transfer back or restore from shadow storage completes, its bodies are recopied, and its next iteration may issue. -/
  | teamResume
  /-- R58: Every 512 core cycles, or when a team leaves, a cluster reports its charge and Bandstand sums the reports. -/
  | budgetReport
  /-- R60: At D + 200 ns Bandstand raises 0x200 for an instance with no stamp at or below D that has not failed. -/
  | deadlineCheck
  /-- R482: Belvedere applies the ESC_POLICY outcome to a HELD instance and logs a KIND 4 entry. -/
  | escalationResolution
  /-- R47: A relayed IEEE 1588 timing message disciplines the local time units by slew or step. -/
  | ptpTimingMessage
  /-- R49: A read of PTP_STATUS returns MAX_OFFSET_NS and clears it. -/
  | ptpStatusRead
  /-- R466: When both redundant copies have retired, Arbor compares their revisions, runs any tie-break and commits the winner. -/
  | redundantCompare
  /-- R107: A free reconstruction unit takes the highest-ranked RETIRING coverage instance and begins its passes. -/
  | reconstructionStart
  /-- R106: Reconstruction passes and the probe error end with a release at device scope, and the completion stamp is taken. -/
  | reconstructionComplete
  /-- R487: Once the counter post is performed, Bandstand sends the card's MSI-X message. -/
  | msixSignal
  /-- R114: The bodies of a record leaving ISSUED are fetched and copied into the loop buffer, and the prologue may issue. -/
  | recordBodyFetch
  /-- R42: An iteration span or control-record stretch exceeding ITER_BOUND_CYCLES raises 0x203. -/
  | iterBoundExpiry
  /-- R273: The data of an A load or result atomic arrive and the queue slot becomes filled once every load into it has landed. -/
  | loadDataLand
  /-- R288: A matrix operation reaches its retirement step and writes tiles, scratchpad, ring pops and fills, and barrier posts. -/
  | mOpRetire
  /-- R84: An idle M-core pulls a sibling team's relocatable M record and loads copies of its tiles. -/
  | bodyPull
  /-- R333: After 64 cycles with no issue and a parked fault in the active bank, the core drains the bank and begins a bank switch. -/
  | faultBankSwitch
  /-- R333: The 64-cycle bank switch ends and the other bank becomes active. -/
  | bankSwitchComplete
  /-- R326: A page-table walk finishes with a translation or a fault for the waiting context. -/
  | pageWalk
  /-- R331: A fault posts its 32-byte record once the next ring entry is free, and raises the partition's fault interrupt. -/
  | faultRecordPost
  /-- R331: A FLT_ANSWER write with UNRESOLVED 0 unparks the context, and the faulting word issues again. -/
  | fltAnswerResolved
  /-- R331: A FLT_ANSWER write with UNRESOLVED 1 sends the pending fault's cause to its disposition. -/
  | fltAnswerUnresolved
  /-- R329: A TLB_INV write with OP 0 invalidates one page of one partition across the package. -/
  | tlbInvPage
  /-- R329: A TLB_INV write with OP 1 invalidates every cached translation of a partition. -/
  | tlbInvPartition
  /-- R329: A TLB_INV write with OP 2 invalidates every entry derived from a table page, in every partition. -/
  | tlbInvTablePage
  /-- R329: An invalidation finishes and TLB_INV_STATUS.BUSY clears. -/
  | tlbInvComplete
  /-- R80: The fabric streamer finishes copying a migrating team, the L1 write-back and invalidation are made, and the team resumes on the target core. -/
  | streamerCopyComplete
  /-- R82: A forwarding entry ends 8,000 ns after resume, or later once outstanding operations complete, counting any extension. -/
  | forwardingEntryExpiry
  /-- R82: A read of MIG_FWD_EXT returns the extension count and clears it. -/
  | migFwdExtRead
  /-- R341: A running copy channel fetches its next 32-byte command as an acquire at device scope and checks it. -/
  | copyCommandFetch
  /-- R346: A COPY command moves rows through its stages to a global, footprint or ring destination, with its acquire and release flags. -/
  | copy
  /-- R348: A WAIT command reads a counter until its value is at least VALUE. -/
  | wait
  /-- R348: A POST command adds VALUE to a counter atomically, as a release when REL is set. -/
  | copyPost
  /-- R348: A LINK command sets the channel's FETCH address. -/
  | link
  /-- R340: A STOP command ends the chain; the channel continues at NEXT or becomes IDLE. -/
  | stop
  /-- R351: An ARM command sets or disarms the channel's watch window and flushes overlapping L1 lines. -/
  | arm
  /-- R349: A command completes: STATUS is written, the barrier arrival, watermark advance and ring fill are made, and held requests are released. -/
  | copyCommandCompletion
  /-- R357: A camera or Ethernet frame is matched to an ingress channel and accepted into its buffer with header and counter post, or dropped. -/
  | ingressFrame
  /-- R362: A request reaching a memory controller is charged to its regulator, served or held, and activates its row. -/
  | memoryRequest
  /-- R361: At each regulator window start, budgets are fixed, charges cleared and held requests served. -/
  | regulatorWindowStart
  /-- R365: A queued alert is served with a refresh-management command on the aggressor's neighbours once the spacing allows. -/
  | rfmCommand
  /-- R364: At the end of each 32 ms refresh window of a bank, its activation counters are set to zero. -/
  | refreshWindowEnd
  /-- R383: The raster takes the next command in submission order, binds its queues, acquires and tiles the primitives. -/
  | rasterCommandStart
  /-- R370: Once the queue has room, the raster fills a five-slot fragment batch at its tail. -/
  | rasterBatchDelivery
  /-- R383: After the last tile's surface writes, the raster releases, writes its report and posts its counter. -/
  | rasterCommandComplete
  /-- R385: The sampler fills the delivery slot of an smp word with filtered samples. -/
  | samplerDelivery
  /-- R389: Once the head has passed the previous round, the traversal unit delivers the next candidate round with culling applied. -/
  | traversalRound
  /-- R390: After the last round, the unit writes TMAX or VISIT into each record and fills the result slot. -/
  | traversalResult
  /-- R396: A Trellis builder takes the next command on its descriptor, registering the descriptor if needed. -/
  | builderCommandStart
  /-- R409: A builder command ends, writes its report with STATUS last, and raises any cause in the issuing team. -/
  | builderCommandComplete
  /-- R406: A pin takes effect as dropped once the team's trace words on it have written their results, and the generation's slot may be reclaimed. -/
  | pinDrop
  /-- R443: When a joined child has retired and its work is complete, Arbor merges its revision into the forking task's revision by merge type. -/
  | merge
  /-- R477: A PART_SWAP write with OP 1 signals and spills every team of the partition. -/
  | swapOut
  /-- R477: A PART_SWAP write with OP 2 restores the partition's teams as suspended. -/
  | swapIn
  /-- R477: When every team of the partition has spilled and its ready entries are saved, STATE becomes 2. -/
  | swapOutComplete
  /-- R477: The partition's teams are restored and STATE returns to running. -/
  | swapInComplete
  /-- R478: After device reset, Belvedere verifies firmware and brings up the fabric, clocks, controllers, clusters, Bandstand and application cores. -/
  | deviceReset
  /-- R479: A unit's heartbeat reaches Belvedere, which checks its sequence and signature. -/
  | heartbeat
  /-- R479: MISS consecutive heartbeats lost makes Belvedere declare the unit failed. -/
  | heartbeatMiss
  /-- R480: Belvedere restarts a failed unit within its reset domain. -/
  | unitRestart
  /-- R454: A detection of uncorrectable data, or a check mismatch, reaches Belvedere, which acts per unit. -/
  | uncorrectableReport
  /-- R483: Belvedere samples a cluster's delay monitors and adjusts voltage and permitted clock. -/
  | marginSample
  /-- R495: Belvedere averages package power over 1 ms and lowers cluster clocks to stay within CAP. -/
  | powerCapControl
  /-- R495: A junction temperature of 105 °C holds every clock at the floor; 125 °C stops every cluster. -/
  | thermalLimit
  /-- R493: A MIG_REQ write with GO set starts a page move or refuses it. -/
  | pageMoveRequest
  /-- R337: A page copy ends, the old home's lines are flushed, and the new home is recorded in every package. -/
  | pageMoveComplete
  /-- R334: At each migration window start, block counters clear and pinned-shared pages are released. -/
  | migrationWindowStart
  /-- R492: A request for memory homed in another package arrives over a Fuica link at its home L2. -/
  | linkRequest
  /-- R492: A Fuica link fails; traffic moves to the other links, or requests abort with 0x380 when it was the last link. -/
  | fuicaLinkDown
  /-- R492: A link retrains and DEV_STAT.LINKS shows it up. -/
  | fuicaLinkUp
  /-- R490: The host link goes down, pending and later outbound requests raise 0x380, and Belvedere is interrupted. -/
  | pcieLinkDown
  /-- R489: A host request through W2 is performed at the home L2, or completes with Unsupported Request. -/
  | hostW2Request
  /-- R490: An outbound request completes, and Unsupported Request, Completer Abort or poisoned data raise 0x381 at the consumer. -/
  | pcieOutboundCompletion
  /-- R75: A PART_CTL write setting VALID creates the partition, a reconfiguration, or is ignored and sets ERR_OVERLAP. -/
  | partitionValidSet
  /-- R75: A PART_CTL write clearing VALID removes the partition, or is ignored and sets ERR_BUSY while a card is accepted. -/
  | partitionValidClear
  /-- R74: Writing PART_CTL.LOCK locks the partition's registers until reset. -/
  | partitionLock
  /-- R16: Writing JOBTAB_BASE.LOCK locks the job table, RH_CTL and PREEMPT_LIMIT until reset. -/
  | jobtabLock
  /-- R13: A write to a register with no row of its own applies the field access rules of R13. -/
  | registerWrite
  /-- R49: The PTP hardware clock loses the network, sets PTP_STATUS.HOLDOVER and free-runs at its last rate. -/
  | ptpHoldover
  /-- R49: The PTP hardware clock locks to the network through ports E0–E3 and sets PTP_STATUS.LOCKED. -/
  | ptpLock
  /-- R488: The host link trains through the lower rates and comes up, so that outbound requests proceed again. -/
  | pcieLinkUp
  /-- R76: A cluster's built-in self-test ends with pass or fail, and a pass allows its QUAR bit to clear at the next reconfiguration. -/
  | builtInSelfTestComplete
  deriving DecidableEq, Repr, Inhabited

end Sys2Proof
end

