-- ==== Sys2Proof/WellFormed.lean ====
section
/-!
DEFINITION. Well-formedness: the field rules that are decoding causes of 05 R134 and R135 (registers R120, kinds and
indices R123, zero fields R118, R122, R133, R146, variants R143) and the opcode numbers of the three spaces (R142, R144,
R146). Conditions an instruction chapter states for its opcode are checked by that opcode's meaning (R135).
-/
namespace Sys2Proof

/-- Kind of a template source or destination byte (R122). -/
def kindOf (s : Byte) : Nat := s.toNat / 64

/-- Index of a template source byte (R122). -/
def indexOf (s : Byte) : Nat := s.toNat % 64

/-- Which operand fields an opcode uses, fixed by the opcode and its fixed aux bits (R123). -/
structure TUse where
  a : Bool := false
  b : Bool := false
  c : Bool := false
  d : Bool := true
  deriving DecidableEq, Repr

/-- Operand use of each T-space opcode (10, 11). -/
def tUse (op : Nat) (t : Tpl) : TUse :=
  let aux := t.aux.toNat
  let bit (n : Nat) : Bool := t.aux.getLsbD n
  if op ≤ 0x0C then { a := true, b := true, c := op == 0x04 }
  else if op ≤ 0x0E then { a := true }
  else if op ≤ 0x10 then { a := true, b := true }
  else if op ≤ 0x12 then { a := true }
  else if op ≤ 0x14 then { a := true, b := true, c := true }
  else if op = 0x15 then { a := true, b := true }
  else if op = 0x16 then { a := true }
  else if op = 0x17 then { a := !bit 16 }
  else if op = 0x18 then { a := true }
  else if op = 0x19 then { a := true, b := true }
  else if op ≤ 0x26 then { a := true, b := true, c := op == 0x23 }
  else if op = 0x2A then { a := true, b := true }
  else if op ≤ 0x2F then { a := true }
  else if op = 0x30 then { a := true, b := true, c := true }
  else if op ≤ 0x34 then { a := true }
  else if op = 0x35 then { a := true, b := true, c := true }
  else if op = 0x40 then { a := true, b := aux / 2 ^ 16 % 4 == 0 }
  else if op ≤ 0x44 then { a := true }
  else if op ≤ 0x46 then { a := true }
  else if op = 0x47 then { a := true, d := false }
  else if op = 0x48 then {}
  else if op = 0x49 then { a := true, d := false }
  else if op = 0x4A then {}
  else if op = 0x4B then { a := true, d := false }
  else if op = 0x4C then { a := true, b := true, d := false }
  else if op = 0x4D then { a := true, b := true, c := bit 16, d := false }
  else if op = 0x4E then { a := true, d := false }
  else if op = 0x4F then { a := true, b := bit 16 }
  else if op ≤ 0x53 then { a := true, b := true }
  else if op ≤ 0x56 then { a := true, b := true, c := true, d := false }
  else if op = 0x57 then { a := true, b := true, d := false }
  else if op = 0x58 then { a := true, b := true, c := true, d := false }
  else if op ≤ 0x61 then { a := true, b := true, c := true, d := !bit 25 }
  else if op = 0x62 then { a := true, b := true, c := true, d := false }
  else if op = 0x63 then { a := true, b := true, d := false }
  else if op = 0x64 then { b := true }
  else if op = 0x65 then { b := true }
  else if op = 0x66 then { b := true, c := true, d := false }
  else if op ≤ 0x68 then { a := true, b := true }
  else if op = 0x69 then { a := true }
  else { a := true, b := true }

/-- Which of the wait count, the free count and imm32 an opcode uses, fixed by the opcode and its fixed aux bits (R123): some source
may be a queue head, its destination may be a queue, some source may be of kind 3 or the opcode reads imm32 itself (10, 11;
log 41). -/
structure TCount where
  wait : Bool := false
  free : Bool := false
  imm : Bool := false
  deriving DecidableEq, Repr

def tCount (op : Nat) (t : Tpl) : TCount :=
  let bit (n : Nat) : Bool := t.aux.getLsbD n
  if op ≤ 0x16 then { wait := true, free := op != 0x0F, imm := true }
  else if op = 0x17 then { free := true, imm := !bit 16 }
  else if op ≤ 0x35 then { wait := true, free := op != 0x26 && op != 0x32, imm := op != 0x33 }
  else if op ≤ 0x41 ∨ op = 0x43 ∨ op = 0x46 then { wait := true, free := true, imm := true }
  else if op = 0x42 ∨ op = 0x44 ∨ op = 0x49 ∨ op = 0x4C ∨ op = 0x4D ∨ op = 0x4F then { wait := true, imm := true }
  else if op = 0x45 ∨ op = 0x4B ∨ op = 0x4E then { wait := true }
  else if op = 0x47 then { imm := true }
  else if op = 0x48 then { free := true }
  else if op = 0x4A then {}
  else if op ≤ 0x53 then { free := true, imm := true }
  else if op ≤ 0x56 then { wait := true, imm := true }
  else if op = 0x57 then { imm := true }
  else if op = 0x58 then { wait := true }
  else if op ≤ 0x61 then { wait := true, free := !bit 25, imm := true }
  else if op ≤ 0x63 then { imm := true }
  else if op ≤ 0x65 then { free := true, imm := true }
  else { wait := true, imm := true }

/-- Whether a T-space opcode is assigned (R144). -/
def tAssigned (op : Nat) : Bool :=
  op ≤ 0x19 || (0x20 ≤ op && op ≤ 0x35) || (0x40 ≤ op && op ≤ 0x6A)

/-- The stream a T-space opcode is legal in (R145). -/
def tStream (op : Nat) : Stream := if op ≤ 0x4F then .x else .a

/-- Kind and index of a source, by stream (R123); `vregs` is the role's VREGS (R66). -/
def srcLegal (st : Stream) (vregs : Nat) (s : Byte) : Bool :=
  let k := kindOf s
  let i := indexOf s
  match st with
  | .x => if k = 0 then i < vregs else if k = 1 then i < 8 || (12 ≤ i && i < 16) else if k = 2 then true else i == 0
  | _ => if k = 0 then i < 16 else if k = 1 then 8 ≤ i && i < 12 else if k = 2 then true else i == 0

/-- Kind and index of a destination, by stream (R123, R120). -/
def dstLegal (st : Stream) (vregs kind idx : Nat) : Bool :=
  match kind with
  | 0 => match st with
    | .x => idx < vregs
    | _ => idx < 16
  | 1 => match st with
    | .x => 8 ≤ idx && idx < 12
    | _ => idx < 8
  | 2 => idx < 32
  | _ => idx < 16

/-- Whether a source byte is a queue head. -/
def isQueue (s : Byte) : Bool := kindOf s == 1

/-- The queues the four operands name, with their advance bits (R122): source A, B, C, destination. -/
def tQueues (op : Nat) (t : Tpl) : List (Nat × Bool) :=
  let u := tUse op t
  (if u.a && isQueue t.srcA then [(indexOf t.srcA, t.adv.getLsbD 0)] else []) ++
  (if u.b && isQueue t.srcB then [(indexOf t.srcB, t.adv.getLsbD 1)] else []) ++
  (if u.c && isQueue t.srcC then [(indexOf t.srcC, t.adv.getLsbD 2)] else []) ++
  (if u.d && t.dstKind == 1 then [(t.dstIdx.toNat, t.adv.getLsbD 3)] else [])

/-- Whether the entry has a queue-head source. -/
def tSrcQueue (op : Nat) (t : Tpl) : Bool :=
  let u := tUse op t
  (u.a && isQueue t.srcA) || (u.b && isQueue t.srcB) || (u.c && isQueue t.srcC)

/-- No number twice. -/
def noRepeat : List Nat → Bool
  | [] => true
  | x :: xs => !xs.contains x && noRepeat xs

/-- The validity checks of R122 to R124 on an amended entry: the 0x041 conditions that are decoding causes. -/
def Tpl.wf (st : Stream) (vregs op : Nat) (t : Tpl) : Bool :=
  let u := tUse op t
  let n := tCount op t
  let dstQ := u.d && t.dstKind == 1
  (t.zero == 0) && (t.rnd != 6) && (!t.ind || t.fmt == 0) &&
  (if u.a then srcLegal st vregs t.srcA else t.srcA == 0) &&
  (if u.b then srcLegal st vregs t.srcB else t.srcB == 0) &&
  (if u.c then srcLegal st vregs t.srcC else t.srcC == 0) &&
  (if u.d then dstLegal st vregs t.dstKind.toNat t.dstIdx.toNat else t.dstKind == 0 && t.dstIdx == 0) &&
  (n.imm || t.imm == 0) && (n.wait || t.wait == 0) && (n.free || t.free == 0) &&
  (!t.adv.getLsbD 0 || (u.a && isQueue t.srcA)) && (!t.adv.getLsbD 1 || (u.b && isQueue t.srcB)) &&
  (!t.adv.getLsbD 2 || (u.c && isQueue t.srcC)) && (!t.adv.getLsbD 3 || dstQ) &&
  noRepeat (((tQueues op t).filter (·.2)).map (·.1))

/-- Which matrix-word fields an opcode may set (R146): ring A, ring B, tile, format A and B, indirect and lc,
accumulate format, operation. Wait and post are legal in all but `mfmt` and `mrel`. -/
structure MUse where
  ra : Bool := false
  rb : Bool := false
  acc : Bool := false
  fmt : Bool := false
  accf : Bool := false
  bar : Bool := true
  op : Bool := false
  deriving DecidableEq, Repr

/-- Field use of each M-space opcode (R146). -/
def mUse (op : Nat) : MUse :=
  match op with
  | 0 => { acc := true }
  | 1 => { ra := true, rb := true, acc := true, fmt := true, accf := true, op := true }
  | 2 => { ra := true, rb := true, acc := true, fmt := true, accf := true, op := true }
  | 3 => { ra := true, rb := true, fmt := true, op := true }
  | 4 => { acc := true, accf := true, op := true }
  | 5 => { ra := true, acc := true, accf := true, op := true }
  | 6 => {}
  | 7 => { fmt := true, op := true, bar := false }
  | 8 => { op := true }
  | 9 => {}
  | _ => { bar := false }

/-- The field rules of R133 and R146 for a matrix word. -/
def MFields.wf (op : Nat) (w : MFields) : Bool :=
  let u := mUse op
  (w.zero == 0) && (w.accf != 3) && (w.waitEn || w.waitB == 0) && (w.postEn || w.postB == 0) &&
  (u.ra || w.ringA == 0) && (u.rb || w.ringB == 0) && (u.acc || w.acc == 0) &&
  (u.fmt || (w.fmtA == 0 && w.fmtB == 0 && !w.ind && w.lc == 0)) && (!w.ind || (w.fmtA == 0 && w.fmtB == 0)) &&
  (w.ind || w.lc == 0) && (u.accf || w.accf == 0) && (u.op || w.op == 0) && (u.bar || (!w.waitEn && !w.postEn))

/-- Destination of a direct word in A and X: 0 to 31 (R120); in C every register. -/
def directDst (st : Stream) (d : BitVec 6) : Bool := st == .c || decide (d.toNat < 32)

/-- The T-space opcode, amended entry and predicate of a template row, if the instruction is one (R144). -/
def Instr.tpl? : Instr → Option (Nat × Tpl × BitVec 4)
  | .vadd t p => some (0x00, t, p)
  | .vsub t p => some (0x01, t, p)
  | .vmul t p => some (0x02, t, p)
  | .vmulh t p => some (0x03, t, p)
  | .vmad t p => some (0x04, t, p)
  | .vand t p => some (0x05, t, p)
  | .vor t p => some (0x06, t, p)
  | .vxor t p => some (0x07, t, p)
  | .vshl t p => some (0x08, t, p)
  | .vshr t p => some (0x09, t, p)
  | .vsar t p => some (0x0A, t, p)
  | .vmin t p => some (0x0B, t, p)
  | .vmax t p => some (0x0C, t, p)
  | .vabs t p => some (0x0D, t, p)
  | .vneg t p => some (0x0E, t, p)
  | .vcmp t p => some (0x0F, t, p)
  | .vsel t p => some (0x10, t, p)
  | .vclz t p => some (0x11, t, p)
  | .vpopc t p => some (0x12, t, p)
  | .vdot4 t p => some (0x13, t, p)
  | .vdot8 t p => some (0x14, t, p)
  | .vavg t p => some (0x15, t, p)
  | .vmov t p => some (0x16, t, p)
  | .viota t p => some (0x17, t, p)
  | .vbfx t p => some (0x18, t, p)
  | .vbfi t p => some (0x19, t, p)
  | .vfadd t p => some (0x20, t, p)
  | .vfsub t p => some (0x21, t, p)
  | .vfmul t p => some (0x22, t, p)
  | .vfma t p => some (0x23, t, p)
  | .vfmin t p => some (0x24, t, p)
  | .vfmax t p => some (0x25, t, p)
  | .vfcmp t p => some (0x26, t, p)
  | .vrcp t p => some (0x27, t, p)
  | .vrsq t p => some (0x28, t, p)
  | .vsqrt t p => some (0x29, t, p)
  | .vdiv t p => some (0x2A, t, p)
  | .vexp2 t p => some (0x2B, t, p)
  | .vlog2 t p => some (0x2C, t, p)
  | .vsin t p => some (0x2D, t, p)
  | .vcos t p => some (0x2E, t, p)
  | .vrnd t p => some (0x2F, t, p)
  | .vdot2 t p => some (0x30, t, p)
  | .vcvt t p => some (0x31, t, p)
  | .vpack t p => some (0x32, t, p)
  | .vunpack t p => some (0x33, t, p)
  | .vfclass t p => some (0x34, t, p)
  | .vlerp t p => some (0x35, t, p)
  | .vshuf t p => some (0x40, t, p)
  | .vbcast t p => some (0x41, t, p)
  | .vred t p => some (0x42, t, p)
  | .vscan t p => some (0x43, t, p)
  | .vballot t p => some (0x44, t, p)
  | .pop t p => some (0x45, t, p)
  | .qpush t p => some (0x46, t, p)
  | .defer t p => some (0x47, t, p)
  | .mread t p => some (0x48, t, p)
  | .mwrite t p => some (0x49, t, p)
  | .itemnext t p => some (0x4A, t, p)
  | .vdisc t p => some (0x4B, t, p)
  | .vzout t p => some (0x4C, t, p)
  | .cacc t p => some (0x4D, t, p)
  | .crej t p => some (0x4E, t, p)
  | .vtos t p => some (0x4F, t, p)
  | .ld t p => some (0x50, t, p)
  | .ldl t p => some (0x51, t, p)
  | .ldf t p => some (0x52, t, p)
  | .ldc t p => some (0x53, t, p)
  | .st t p => some (0x54, t, p)
  | .stl t p => some (0x55, t, p)
  | .stf t p => some (0x56, t, p)
  | .pf t p => some (0x57, t, p)
  | .smp t p => some (0x58, t, p)
  | .aadd t p => some (0x59, t, p)
  | .amin t p => some (0x5A, t, p)
  | .amax t p => some (0x5B, t, p)
  | .aand t p => some (0x5C, t, p)
  | .aor t p => some (0x5D, t, p)
  | .axor t p => some (0x5E, t, p)
  | .axch t p => some (0x5F, t, p)
  | .acas t p => some (0x60, t, p)
  | .afadd t p => some (0x61, t, p)
  | .trace t p => some (0x62, t, p)
  | .mbput t p => some (0x63, t, p)
  | .attr t p => some (0x64, t, p)
  | .ldp t p => some (0x65, t, p)
  | .stp t p => some (0x66, t, p)
  | .iadd t p => some (0x67, t, p)
  | .ishl t p => some (0x68, t, p)
  | .imov t p => some (0x69, t, p)
  | .iand t p => some (0x6A, t, p)
  | _ => none

/-- The instruction of a T-space opcode (R144). -/
def tInstr (op : Nat) (t : Tpl) (p : BitVec 4) : Option Instr :=
  match op with
  | 0x00 => some (.vadd t p)
  | 0x01 => some (.vsub t p)
  | 0x02 => some (.vmul t p)
  | 0x03 => some (.vmulh t p)
  | 0x04 => some (.vmad t p)
  | 0x05 => some (.vand t p)
  | 0x06 => some (.vor t p)
  | 0x07 => some (.vxor t p)
  | 0x08 => some (.vshl t p)
  | 0x09 => some (.vshr t p)
  | 0x0A => some (.vsar t p)
  | 0x0B => some (.vmin t p)
  | 0x0C => some (.vmax t p)
  | 0x0D => some (.vabs t p)
  | 0x0E => some (.vneg t p)
  | 0x0F => some (.vcmp t p)
  | 0x10 => some (.vsel t p)
  | 0x11 => some (.vclz t p)
  | 0x12 => some (.vpopc t p)
  | 0x13 => some (.vdot4 t p)
  | 0x14 => some (.vdot8 t p)
  | 0x15 => some (.vavg t p)
  | 0x16 => some (.vmov t p)
  | 0x17 => some (.viota t p)
  | 0x18 => some (.vbfx t p)
  | 0x19 => some (.vbfi t p)
  | 0x20 => some (.vfadd t p)
  | 0x21 => some (.vfsub t p)
  | 0x22 => some (.vfmul t p)
  | 0x23 => some (.vfma t p)
  | 0x24 => some (.vfmin t p)
  | 0x25 => some (.vfmax t p)
  | 0x26 => some (.vfcmp t p)
  | 0x27 => some (.vrcp t p)
  | 0x28 => some (.vrsq t p)
  | 0x29 => some (.vsqrt t p)
  | 0x2A => some (.vdiv t p)
  | 0x2B => some (.vexp2 t p)
  | 0x2C => some (.vlog2 t p)
  | 0x2D => some (.vsin t p)
  | 0x2E => some (.vcos t p)
  | 0x2F => some (.vrnd t p)
  | 0x30 => some (.vdot2 t p)
  | 0x31 => some (.vcvt t p)
  | 0x32 => some (.vpack t p)
  | 0x33 => some (.vunpack t p)
  | 0x34 => some (.vfclass t p)
  | 0x35 => some (.vlerp t p)
  | 0x40 => some (.vshuf t p)
  | 0x41 => some (.vbcast t p)
  | 0x42 => some (.vred t p)
  | 0x43 => some (.vscan t p)
  | 0x44 => some (.vballot t p)
  | 0x45 => some (.pop t p)
  | 0x46 => some (.qpush t p)
  | 0x47 => some (.defer t p)
  | 0x48 => some (.mread t p)
  | 0x49 => some (.mwrite t p)
  | 0x4A => some (.itemnext t p)
  | 0x4B => some (.vdisc t p)
  | 0x4C => some (.vzout t p)
  | 0x4D => some (.cacc t p)
  | 0x4E => some (.crej t p)
  | 0x4F => some (.vtos t p)
  | 0x50 => some (.ld t p)
  | 0x51 => some (.ldl t p)
  | 0x52 => some (.ldf t p)
  | 0x53 => some (.ldc t p)
  | 0x54 => some (.st t p)
  | 0x55 => some (.stl t p)
  | 0x56 => some (.stf t p)
  | 0x57 => some (.pf t p)
  | 0x58 => some (.smp t p)
  | 0x59 => some (.aadd t p)
  | 0x5A => some (.amin t p)
  | 0x5B => some (.amax t p)
  | 0x5C => some (.aand t p)
  | 0x5D => some (.aor t p)
  | 0x5E => some (.axor t p)
  | 0x5F => some (.axch t p)
  | 0x60 => some (.acas t p)
  | 0x61 => some (.afadd t p)
  | 0x62 => some (.trace t p)
  | 0x63 => some (.mbput t p)
  | 0x64 => some (.attr t p)
  | 0x65 => some (.ldp t p)
  | 0x66 => some (.stp t p)
  | 0x67 => some (.iadd t p)
  | 0x68 => some (.ishl t p)
  | 0x69 => some (.imov t p)
  | 0x6A => some (.iand t p)
  | _ => none

/-- The M-space opcode and fields of a matrix row (R146). -/
def Instr.mat? : Instr → Option (Nat × MFields)
  | .mzero w => some (0, w)
  | .mma w => some (1, w)
  | .mmas w => some (2, w)
  | .mreq w => some (3, w)
  | .mst w => some (4, w)
  | .mld w => some (5, w)
  | .mbar w => some (6, w)
  | .mfmt w => some (7, w)
  | .mloop w => some (8, w)
  | .mend w => some (9, w)
  | .mrel w => some (10, w)
  | _ => none

/-- The instruction of an M-space opcode (R146). -/
def mInstr (op : Nat) (w : MFields) : Option Instr :=
  match op with
  | 0 => some (.mzero w)
  | 1 => some (.mma w)
  | 2 => some (.mmas w)
  | 3 => some (.mreq w)
  | 4 => some (.mst w)
  | 5 => some (.mld w)
  | 6 => some (.mbar w)
  | 7 => some (.mfmt w)
  | 8 => some (.mloop w)
  | 9 => some (.mend w)
  | 10 => some (.mrel w)
  | _ => none

/-- Well-formedness of an instruction of a stream: the field rules that its words must meet to be decoded (R134, R135).
`vregs` is the role's VREGS. Event rows carry no encoding and are well formed. -/
def Instr.wellFormed (st : Stream) (vregs : Nat) (i : Instr) : Bool :=
  match i.tpl? with
  | some (op, t, _) => t.wf st vregs op
  | none =>
    match i.mat? with
    | some (op, w) => w.wf op
    | none =>
      match i with
      | .add d _ _ => directDst st d
      | .sub d _ _ => directDst st d
      | .mul d _ _ => directDst st d
      | .mulh d _ _ => directDst st d
      | .mulhu d _ _ => directDst st d
      | .div d _ _ => directDst st d
      | .divu d _ _ => directDst st d
      | .rem d _ _ => directDst st d
      | .remu d _ _ => directDst st d
      | .and d _ _ => directDst st d
      | .or d _ _ => directDst st d
      | .xor d _ _ => directDst st d
      | .shl d _ _ => directDst st d
      | .shr d _ _ => directDst st d
      | .sar d _ _ => directDst st d
      | .min d _ _ => directDst st d
      | .max d _ _ => directDst st d
      | .minu d _ _ => directDst st d
      | .maxu d _ _ => directDst st d
      | .slt d _ _ => directDst st d
      | .sltu d _ _ => directDst st d
      | .seq d _ _ => directDst st d
      | .sne d _ _ => directDst st d
      | .addi d _ _ => directDst st d
      | .andi d _ _ => directDst st d
      | .ori d _ _ => directDst st d
      | .xori d _ _ => directDst st d
      | .slti d _ _ => directDst st d
      | .shli d _ _ => directDst st d
      | .shri d _ _ => directDst st d
      | .sari d _ _ => directDst st d
      | .limm d _ => directDst st d
      | .limmh d _ => directDst st d
      | .limmx d _ => directDst st d
      | .limmt d _ => directDst st d
      | .fmin d _ _ => directDst st d
      | .fmax d _ _ => directDst st d
      | .fadd d _ _ _ mode => directDst st d && mode != 6
      | .fsub d _ _ _ mode => directDst st d && mode != 6
      | .fmul d _ _ _ mode => directDst st d && mode != 6
      | .ffma d _ _ _ mode => directDst st d && mode != 6
      | .fcmp d _ _ rel => directDst st d && decide (rel.toNat ≤ 4)
      | .fcvt d _ src dst _ mode => directDst st d && mode != 6 && src != 7 && dst != 7
      | .gxlat d _ _ => directDst st d
      | .glim d _ _ => directDst st d
      | .fence _ ord scope prm => ord != 0 && decide (scope.toNat ≤ 4) && (!prm || scope == 1)
      | .ctrwait _ _ scope => decide (scope.toNat ≤ 4)
      | .ctrpost _ _ scope => decide (scope.toNat ≤ 4)
      | .brx _ n => n != 0
      | .reservedEncoding _ _ => false
      | _ => true

end Sys2Proof
end

