-- ==== Sys2Proof/Decode.lean ====
section
/-!
DEFINITION. Decoding (05, 06): direct words, template chains and matrix words of a stream to an instruction or to a
`reservedEncoding` that names the decoding cause (R134, R135) and the word of the chain it is raised at. Stream legality
(0x042) is checked by the meanings, after these causes. After the decoder, the encoder, from the same layouts.
-/
namespace Sys2Proof

/-- Bits `[lo+5:lo]` of a word as a register field (R116). -/
def f6 (w lo : Nat) : BitVec 6 := BitVec.ofNat 6 (w / 2 ^ lo)

/-- The DR, DI, DW, DJ and DB fields of a direct word (R116). -/
def dDst (w : Nat) : BitVec 6 := f6 w 18
def dSrcA (w : Nat) : BitVec 6 := f6 w 12
def dSrcB (w : Nat) : BitVec 6 := f6 w 6
def dFn (w : Nat) : BitVec 6 := f6 w 0
def dImm12 (w : Nat) : BitVec 12 := BitVec.ofNat 12 w
def dImm18 (w : Nat) : BitVec 18 := BitVec.ofNat 18 w
def dOff24 (w : Nat) : BitVec 24 := BitVec.ofNat 24 w
def dBit (w n : Nat) : Bool := w / 2 ^ n % 2 == 1

/-- Whether bits `[lo+n-1:lo]` of a word are zero (R118). -/
def zeros (w lo n : Nat) : Bool := w / 2 ^ lo % 2 ^ n == 0

/-- An instruction when its zero fields are zero (R118). -/
def whenZero (z : Bool) (i : Instr) : Option Instr := if z then some i else none

/-- The instruction of a direct word by its opcode (R142, R143): the outer `none` is a reserved opcode (0x040), the
inner `none` a zero field or variant violation (0x041). -/
def directInstr (w : Nat) : Option (Option Instr) :=
  match w / 2 ^ 24 with
  | 0x00 => some (whenZero (zeros w 0 24) .nop)
  | 0x01 => some (whenZero (zeros w 0 6) (.add (dDst w) (dSrcA w) (dSrcB w)))
  | 0x02 => some (whenZero (zeros w 0 6) (.sub (dDst w) (dSrcA w) (dSrcB w)))
  | 0x03 => some (whenZero (zeros w 0 6) (.mul (dDst w) (dSrcA w) (dSrcB w)))
  | 0x04 => some (whenZero (zeros w 0 6) (.mulh (dDst w) (dSrcA w) (dSrcB w)))
  | 0x05 => some (whenZero (zeros w 0 6) (.mulhu (dDst w) (dSrcA w) (dSrcB w)))
  | 0x06 => some (whenZero (zeros w 0 6) (.div (dDst w) (dSrcA w) (dSrcB w)))
  | 0x07 => some (whenZero (zeros w 0 6) (.divu (dDst w) (dSrcA w) (dSrcB w)))
  | 0x08 => some (whenZero (zeros w 0 6) (.rem (dDst w) (dSrcA w) (dSrcB w)))
  | 0x09 => some (whenZero (zeros w 0 6) (.remu (dDst w) (dSrcA w) (dSrcB w)))
  | 0x0A => some (whenZero (zeros w 0 6) (.and (dDst w) (dSrcA w) (dSrcB w)))
  | 0x0B => some (whenZero (zeros w 0 6) (.or (dDst w) (dSrcA w) (dSrcB w)))
  | 0x0C => some (whenZero (zeros w 0 6) (.xor (dDst w) (dSrcA w) (dSrcB w)))
  | 0x0D => some (whenZero (zeros w 0 6) (.shl (dDst w) (dSrcA w) (dSrcB w)))
  | 0x0E => some (whenZero (zeros w 0 6) (.shr (dDst w) (dSrcA w) (dSrcB w)))
  | 0x0F => some (whenZero (zeros w 0 6) (.sar (dDst w) (dSrcA w) (dSrcB w)))
  | 0x10 => some (whenZero (zeros w 0 6) (.min (dDst w) (dSrcA w) (dSrcB w)))
  | 0x11 => some (whenZero (zeros w 0 6) (.max (dDst w) (dSrcA w) (dSrcB w)))
  | 0x12 => some (whenZero (zeros w 0 6) (.minu (dDst w) (dSrcA w) (dSrcB w)))
  | 0x13 => some (whenZero (zeros w 0 6) (.maxu (dDst w) (dSrcA w) (dSrcB w)))
  | 0x14 => some (whenZero (zeros w 0 6) (.slt (dDst w) (dSrcA w) (dSrcB w)))
  | 0x15 => some (whenZero (zeros w 0 6) (.sltu (dDst w) (dSrcA w) (dSrcB w)))
  | 0x16 => some (whenZero (zeros w 0 6) (.seq (dDst w) (dSrcA w) (dSrcB w)))
  | 0x17 => some (whenZero (zeros w 0 6) (.sne (dDst w) (dSrcA w) (dSrcB w)))
  | 0x18 => some (some (.addi (dDst w) (dSrcA w) (dImm12 w)))
  | 0x19 => some (some (.andi (dDst w) (dSrcA w) (dImm12 w)))
  | 0x1A => some (some (.ori (dDst w) (dSrcA w) (dImm12 w)))
  | 0x1B => some (some (.xori (dDst w) (dSrcA w) (dImm12 w)))
  | 0x1C => some (whenZero (zeros w 6 6) (.shli (dDst w) (dSrcA w) (dFn w)))
  | 0x1D => some (whenZero (zeros w 6 6) (.shri (dDst w) (dSrcA w) (dFn w)))
  | 0x1E => some (whenZero (zeros w 6 6) (.sari (dDst w) (dSrcA w) (dFn w)))
  | 0x1F => some (some (.slti (dDst w) (dSrcA w) (dImm12 w)))
  | 0x20 => some (some (.limm (dDst w) (dImm18 w)))
  | 0x21 => some (some (.limmh (dDst w) (dImm18 w)))
  | 0x22 => some (some (.limmx (dDst w) (dImm18 w)))
  | 0x23 => some (whenZero (zeros w 10 8) (.limmt (dDst w) (BitVec.ofNat 10 w)))
  | 0x24 => some (whenZero (zeros w 4 2) (.fadd (dDst w) (dSrcA w) (dSrcB w) (dBit w 3) (BitVec.ofNat 3 w)))
  | 0x25 => some (whenZero (zeros w 4 2) (.fsub (dDst w) (dSrcA w) (dSrcB w) (dBit w 3) (BitVec.ofNat 3 w)))
  | 0x26 => some (whenZero (zeros w 4 2) (.fmul (dDst w) (dSrcA w) (dSrcB w) (dBit w 3) (BitVec.ofNat 3 w)))
  | 0x27 => some (whenZero (zeros w 4 2) (.ffma (dDst w) (dSrcA w) (dSrcB w) (dBit w 3) (BitVec.ofNat 3 w)))
  | 0x28 => some (whenZero (zeros w 0 6) (.fmin (dDst w) (dSrcA w) (dSrcB w)))
  | 0x29 => some (whenZero (zeros w 0 6) (.fmax (dDst w) (dSrcA w) (dSrcB w)))
  | 0x2A => some (whenZero (zeros w 3 3) (.fcmp (dDst w) (dSrcA w) (dSrcB w) (BitVec.ofNat 3 w)))
  | 0x2B => some (whenZero (zeros w 4 2) (.fcvt (dDst w) (dSrcA w) (BitVec.ofNat 3 (w / 2 ^ 9)) (BitVec.ofNat 3 (w / 2 ^ 6)) (dBit w 3) (BitVec.ofNat 3 w)))
  | 0x2C => some (whenZero (zeros w 0 6) (.gxlat (dDst w) (dSrcA w) (dSrcB w)))
  | 0x2D => some (some (.glim (dDst w) (dSrcA w) (dImm12 w)))
  | 0x2E => some (some (.qcfg (dDst w) (dSrcA w) (dImm12 w)))
  | 0x2F => some (whenZero (zeros w 5 13) (if dBit w 4 then .qadvTail (dDst w) (BitVec.ofNat 4 w) else .qadv (dDst w) (BitVec.ofNat 4 w)))
  | 0x30 => some (some (.b (dOff24 w)))
  | 0x31 => some (some (.beq (f6 w 18) (f6 w 12) (dImm12 w)))
  | 0x32 => some (some (.bne (f6 w 18) (f6 w 12) (dImm12 w)))
  | 0x33 => some (some (.blt (f6 w 18) (f6 w 12) (dImm12 w)))
  | 0x34 => some (some (.bge (f6 w 18) (f6 w 12) (dImm12 w)))
  | 0x35 => some (some (.bltu (f6 w 18) (f6 w 12) (dImm12 w)))
  | 0x36 => some (some (.bgeu (f6 w 18) (f6 w 12) (dImm12 w)))
  | 0x37 => some (some (.call (dOff24 w)))
  | 0x38 => some (whenZero (zeros w 18 6 && zeros w 0 12) (.callr (dSrcA w)))
  | 0x39 => some (whenZero (zeros w 0 24) .ret)
  | 0x3A => some (whenZero (zeros w 18 6 && zeros w 0 12) (.jr (dSrcA w)))
  | 0x3B => some (whenZero (zeros w 18 6 && zeros w 6 6) (.brx (dSrcA w) (dFn w)))
  | 0x3C => some (whenZero (zeros w 12 6) (.loop (f6 w 18) (dImm12 w)))
  | 0x40 => some (some (.lset (dDst w) (dSrcA w) (dImm12 w)))
  | 0x41 => some (whenZero (zeros w 18 6 && zeros w 0 6) (.runa (dSrcA w) (dSrcB w)))
  | 0x42 => some (whenZero (zeros w 18 6 && zeros w 0 6) (.runx (dSrcA w) (dSrcB w)))
  | 0x43 => some (whenZero (zeros w 18 6 && zeros w 0 12) (.runm (dSrcA w)))
  | 0x44 => some (whenZero (zeros w 18 6) (.tpload (dSrcA w) (dImm12 w)))
  | 0x45 => some (some (.fmtset (dDst w) (dSrcA w) (dImm12 w)))
  | 0x46 => some (whenZero (zeros w 12 6) (.mbset (dDst w) (dImm12 w)))
  | 0x47 => some (whenZero (zeros w 18 6 && zeros w 0 6) (.cpy (dSrcA w) (dSrcB w)))
  | 0x48 => some (whenZero (zeros w 18 6 && zeros w 0 12) (.chkick (dSrcA w)))
  | 0x49 => some (whenZero (zeros w 18 6 && zeros w 0 12) (.rast (dSrcA w)))
  | 0x4A => some (match w % 2 ^ 12 with
    | 0 => whenZero (zeros w 18 6) (.bvhBuild (dSrcA w))
    | 1 => whenZero (zeros w 18 6) (.bvhRefit (dSrcA w))
    | 2 => whenZero (zeros w 18 6) (.bvhRebalance (dSrcA w))
    | 3 => some (.bvhPublish (dDst w) (dSrcA w))
    | 4 => some (.bvhQuality (dDst w) (dSrcA w))
    | _ => none)
  | 0x4B => some (whenZero (zeros w 0 12) (.gpin (dDst w) (dSrcA w)))
  | 0x4C => some (whenZero (zeros w 18 6 && zeros w 0 12) (.gunpin (dSrcA w)))
  | 0x4D => some (whenZero (zeros w 6 6) (.defdrain (dDst w) (dSrcA w) (dFn w)))
  | 0x4E => some (whenZero (zeros w 18 6 && zeros w 0 6) (.itemq (dSrcA w) (dSrcB w)))
  | 0x4F => some (whenZero (zeros w 6 12) (.covrd (dDst w) (dFn w)))
  | 0x50 => some (some (.cld (dDst w) (dSrcA w) (dImm12 w)))
  | 0x51 => some (some (.cst (dDst w) (dSrcA w) (dImm12 w)))
  | 0x52 => some (some (.camoTeam (dDst w) (dSrcA w) (dSrcB w) (BitVec.ofNat 3 (w / 2 ^ 3)) (BitVec.ofNat 2 (w / 2)) (dBit w 0)))
  | 0x53 => some (whenZero (zeros w 0 1) (.camoClu (dDst w) (dSrcA w) (dSrcB w) (BitVec.ofNat 3 (w / 2 ^ 3)) (BitVec.ofNat 2 (w / 2))))
  | 0x54 => some (whenZero (zeros w 0 1) (.camoDev (dDst w) (dSrcA w) (dSrcB w) (BitVec.ofNat 3 (w / 2 ^ 3)) (BitVec.ofNat 2 (w / 2))))
  | 0x55 => some (whenZero (zeros w 0 1) (.camoSys (dDst w) (dSrcA w) (dSrcB w) (BitVec.ofNat 3 (w / 2 ^ 3)) (BitVec.ofNat 2 (w / 2))))
  | 0x56 => some (whenZero (zeros w 12 12 && zeros w 7 5) (.fence (dBit w 6) (BitVec.ofNat 2 (w / 2 ^ 4)) (BitVec.ofNat 3 (w / 2)) (dBit w 0)))
  | 0x57 => some (whenZero (zeros w 18 6 && zeros w 0 6) (.barInit (dSrcA w) (dSrcB w)))
  | 0x58 => some (whenZero (zeros w 7 17) (.barArrive (BitVec.ofNat 7 w)))
  | 0x59 => some (whenZero (zeros w 7 17) (.barWait (BitVec.ofNat 7 w)))
  | 0x5A => some (whenZero (zeros w 7 17) (.barInval (BitVec.ofNat 7 w)))
  | 0x5B => some (whenZero (zeros w 18 6 && zeros w 3 3) (.ctrwait (dSrcA w) (dSrcB w) (BitVec.ofNat 3 w)))
  | 0x5C => some (whenZero (zeros w 18 6 && zeros w 3 3) (.ctrpost (dSrcA w) (dSrcB w) (BitVec.ofNat 3 w)))
  | 0x5D => some (whenZero (zeros w 0 6) (.fork (dDst w) (dSrcA w) (dSrcB w)))
  | 0x5E => some (whenZero (zeros w 0 12) (.join (dDst w) (dSrcA w)))
  | 0x5F => some (whenZero (zeros w 18 6 && zeros w 0 6) (.post (dSrcA w) (dSrcB w)))
  | 0x60 => some (whenZero (zeros w 0 6) (.take (dDst w) (dSrcB w) (dSrcA w)))
  | 0x61 => some (whenZero (zeros w 6 18) (.trap (dFn w)))
  | 0x62 => some (whenZero (zeros w 0 24) .eret)
  | 0x63 => some (whenZero (zeros w 12 6) (.sysr (dDst w) (dImm12 w)))
  | 0x64 => some (whenZero (zeros w 18 6) (.sysw (dSrcA w) (dImm12 w)))
  | 0x65 => some (whenZero (zeros w 0 24) .ckpt)
  | 0x66 => some (whenZero (zeros w 1 23) (.region (dBit w 0)))
  | 0x67 => some (whenZero (zeros w 0 24) .seg)
  | 0x68 => some (whenZero (zeros w 0 24) .kexit)
  | 0x69 => some (whenZero (zeros w 0 24) .yield)
  | 0x6A => some (whenZero (zeros w 0 18) (.time (dDst w)))
  | 0x6B => some (whenZero (zeros w 6 6) (.revst (dDst w) (dSrcA w) (dFn w)))
  | _ => none

/-- A decoding cause at a word of the instruction (R134). -/
def badWord (cause : BitVec 10) (atWord : Nat) : Instr := .reservedEncoding cause atWord

/-- Decode a direct word of a stream: 0x040, then 0x041 (R134, R135). -/
def decodeDirect (st : Stream) (w : Nat) : Instr :=
  match directInstr w with
  | none => badWord 0x040 0
  | some none => badWord 0x041 0
  | some (some i) => if i.wellFormed st 64 then i else badWord 0x041 0

/-- The fields of a template entry's 128 bits other than the opcode (R122). -/
def tplOfBits (e : Nat) : Tpl :=
  { dstIdx := BitVec.ofNat 6 (e / 2 ^ 114), dstKind := BitVec.ofNat 2 (e / 2 ^ 112), srcA := BitVec.ofNat 8 (e / 2 ^ 104),
    srcB := BitVec.ofNat 8 (e / 2 ^ 96), srcC := BitVec.ofNat 8 (e / 2 ^ 88), fmt := BitVec.ofNat 5 (e / 2 ^ 83),
    ind := dBit e 82, rnd := BitVec.ofNat 3 (e / 2 ^ 79), sat := dBit e 78, wait := BitVec.ofNat 4 (e / 2 ^ 74),
    free := BitVec.ofNat 4 (e / 2 ^ 70), adv := BitVec.ofNat 4 (e / 2 ^ 66), zero := BitVec.ofNat 2 (e / 2 ^ 64),
    imm := BitVec.ofNat 32 (e / 2 ^ 32), aux := BitVec.ofNat 32 e }

/-- The opcode of a template entry's bits (R122). -/
def tplOpcode (e : Nat) : Nat := e / 2 ^ 120 % 256

/-- Number of value bits a field select uses (R128); none for the illegal selects. -/
def selectBits (sel : Nat) : Option Nat :=
  match sel with
  | 0 => some 0
  | 1 => some 8
  | 2 => some 8
  | 3 => some 8
  | 4 => some 8
  | 5 => some 16
  | 6 => some 16
  | 7 => some 4
  | 8 => some 6
  | 9 => some 4
  | 10 => some 16
  | 11 => some 4
  | _ => none

/-- The entry with the field of a select replaced (R128, R130). -/
def amend (t : Tpl) (sel v : Nat) : Tpl :=
  match sel with
  | 1 => { t with dstKind := BitVec.ofNat 2 (v / 64), dstIdx := BitVec.ofNat 6 v }
  | 2 => { t with srcA := BitVec.ofNat 8 v }
  | 3 => { t with srcB := BitVec.ofNat 8 v }
  | 4 => { t with srcC := BitVec.ofNat 8 v }
  | 5 => { t with imm := BitVec.ofNat 32 (t.imm.toNat / 2 ^ 16 * 2 ^ 16 + v) }
  | 6 => { t with imm := BitVec.ofNat 32 (v * 2 ^ 16 + t.imm.toNat % 2 ^ 16) }
  | 7 => { t with wait := BitVec.ofNat 4 v }
  | 8 => { t with ind := dBit v 5, fmt := BitVec.ofNat 5 v }
  | 9 => { t with sat := dBit v 3, rnd := BitVec.ofNat 3 v }
  | 10 => { t with aux := BitVec.ofNat 32 (t.aux.toNat / 2 ^ 16 * 2 ^ 16 + v) }
  | 11 => { t with adv := BitVec.ofNat 4 v }
  | _ => t

/-- Fields of a patch word (R127). -/
def pChain (w : Nat) : Bool := dBit w 30
def pIndex (w : Nat) : Nat := w / 2 ^ 24 % 64
def pSelect (w : Nat) : Nat := w / 2 ^ 20 % 16
def pPred (w : Nat) : Nat := w / 2 ^ 16 % 16
def pValue (w : Nat) : Nat := w % 2 ^ 16

/-- The words of the chain that starts a list of body words, with the breaks of R128 and R129: the amended entry and
the number of words, or the position of the word that breaks a condition: a direct word after a patch word is itself that word
(log 86). `seen` holds the selects so far. -/
def chainGo (idx pred : Nat) : Nat → List Nat → Tpl → List W32 → Sum Nat (Tpl × Nat)
  | n, _, _, [] => .inl (n - 1)
  | n, seen, t, w :: ws =>
    let v := w.toNat
    if v / 2 ^ 31 = 0 then .inl n
    else if n = 4 then .inl n
    else if pIndex v ≠ idx ∨ pPred v ≠ pred then .inl n
    else if 0 < n ∧ (pSelect v = 0 ∨ seen.contains 0) then .inl n
    else if seen.contains (pSelect v) then .inl n
    else match selectBits (pSelect v) with
      | none => .inl n
      | some k =>
        if 2 ^ k ≤ pValue v then .inl n
        else
          let t' := amend t (pSelect v) (pValue v)
          if pChain v then chainGo idx pred (n + 1) (pSelect v :: seen) t' ws
          else .inr (t', n + 1)

/-- Decode the chain at the head of a list of body words (R127 to R131, R135): the instruction and its length in words.
`entry` looks up the team's template table, `none` where the entry is not loaded. -/
def decodeChain (st : Stream) (vregs : Nat) (entry : Nat → Option W128) (ws : List W32) : Instr × Nat :=
  match ws with
  | [] => (badWord 0x040 0, 1)
  | w :: _ =>
    match entry (pIndex w.toNat) with
    | none => (badWord 0x043 0, 1)
    | some e =>
      let op := tplOpcode e.toNat
      if !tAssigned op then (badWord 0x040 0, 1)
      else match chainGo (pIndex w.toNat) (pPred w.toNat) 0 [] (tplOfBits e.toNat) ws with
        | .inl n => (badWord 0x041 n, n + 1)
        | .inr (t, n) =>
          if t.wf st vregs op then
            match tInstr op t (BitVec.ofNat 4 (pPred w.toNat)) with
            | some i => (i, n)
            | none => (badWord 0x040 0, 1)
          else (badWord 0x041 (n - 1), n)

/-- The fields of a matrix word (R133). -/
def matOfBits (w : Nat) : MFields :=
  { ringA := BitVec.ofNat 3 (w / 2 ^ 55), ringB := BitVec.ofNat 3 (w / 2 ^ 52), acc := BitVec.ofNat 3 (w / 2 ^ 49),
    fmtA := BitVec.ofNat 5 (w / 2 ^ 44), fmtB := BitVec.ofNat 5 (w / 2 ^ 39), ind := dBit w 38,
    lc := BitVec.ofNat 3 (w / 2 ^ 35), accf := BitVec.ofNat 2 (w / 2 ^ 33), zero := BitVec.ofNat 1 (w / 2 ^ 32),
    waitB := BitVec.ofNat 7 (w / 2 ^ 25), waitEn := dBit w 24, postB := BitVec.ofNat 7 (w / 2 ^ 17),
    postEn := dBit w 16, op := BitVec.ofNat 16 w }

/-- Decode a matrix word (R133, R134, R146). -/
def decodeMatrix (w : W64) : Instr :=
  let op := w.toNat / 2 ^ 58
  match mInstr op (matOfBits w.toNat) with
  | none => badWord 0x040 0
  | some i => if (matOfBits w.toNat).wf op then i else badWord 0x041 0

/-- Decode the instruction at the head of a list of words of a C, A or X stream: the instruction and its length. A patch
word in C is a stream violation (R134). -/
def decodeWords (st : Stream) (vregs : Nat) (entry : Nat → Option W128) (ws : List W32) : Instr × Nat :=
  match ws with
  | [] => (badWord 0x040 0, 1)
  | w :: _ =>
    if w.toNat / 2 ^ 31 = 1 then
      if st == .c then (badWord 0x042 0, 1) else decodeChain st vregs entry ws
    else (decodeDirect st w.toNat, 1)

/-- The streams a D-space opcode is legal in (R142). -/
def directStreams (w : Nat) : List Stream :=
  let op := w / 2 ^ 24
  if op ≤ 0x23 then [.c, .a, .x]
  else if op ≤ 0x2B then [.c, .x]
  else if op ≤ 0x2D then [.a]
  else if op = 0x2E then [.c]
  else if op = 0x2F then [.a, .x]
  else if op = 0x56 then [.c, .a]
  else if op = 0x58 ∨ op = 0x59 then [.c, .a, .x]
  else [.c]

/-- What the decoder reads from an opcode-table row's bits: 32-bit rows are direct words, decoded in the C stream where
they are legal there and otherwise in the A stream. -/
def decodeTableWord (nbits w : Nat) : Option Instr :=
  if nbits = 32 then
    match decodeDirect (if (directStreams w).contains .c then .c else .a) w with
    | .reservedEncoding _ _ => none
    | i => some i
  else if nbits = 64 then
    match decodeMatrix (BitVec.ofNat 64 w) with
    | .reservedEncoding _ _ => none
    | i => some i
  else none

/-- The five direct layouts (R116). -/
def mkDR (op : Nat) (d a b fn : BitVec 6) : Nat :=
  op * 2 ^ 24 + d.toNat * 2 ^ 18 + a.toNat * 2 ^ 12 + b.toNat * 2 ^ 6 + fn.toNat
def mkDI (op : Nat) (d a : BitVec 6) (imm : BitVec 12) : Nat :=
  op * 2 ^ 24 + d.toNat * 2 ^ 18 + a.toNat * 2 ^ 12 + imm.toNat
def mkDW (op : Nat) (d : BitVec 6) (imm : Nat) : Nat := op * 2 ^ 24 + d.toNat * 2 ^ 18 + imm
def mkDJ (op : Nat) (off : BitVec 24) : Nat := op * 2 ^ 24 + off.toNat

/-- The word of a direct instruction (R116, R142, R143). -/
def encodeDirect : Instr → Option Nat
  | .nop => some (mkDR 0x00 0 0 0 0)
  | .add d a b => some (mkDR 0x01 d a b 0)
  | .sub d a b => some (mkDR 0x02 d a b 0)
  | .mul d a b => some (mkDR 0x03 d a b 0)
  | .mulh d a b => some (mkDR 0x04 d a b 0)
  | .mulhu d a b => some (mkDR 0x05 d a b 0)
  | .div d a b => some (mkDR 0x06 d a b 0)
  | .divu d a b => some (mkDR 0x07 d a b 0)
  | .rem d a b => some (mkDR 0x08 d a b 0)
  | .remu d a b => some (mkDR 0x09 d a b 0)
  | .and d a b => some (mkDR 0x0A d a b 0)
  | .or d a b => some (mkDR 0x0B d a b 0)
  | .xor d a b => some (mkDR 0x0C d a b 0)
  | .shl d a b => some (mkDR 0x0D d a b 0)
  | .shr d a b => some (mkDR 0x0E d a b 0)
  | .sar d a b => some (mkDR 0x0F d a b 0)
  | .min d a b => some (mkDR 0x10 d a b 0)
  | .max d a b => some (mkDR 0x11 d a b 0)
  | .minu d a b => some (mkDR 0x12 d a b 0)
  | .maxu d a b => some (mkDR 0x13 d a b 0)
  | .slt d a b => some (mkDR 0x14 d a b 0)
  | .sltu d a b => some (mkDR 0x15 d a b 0)
  | .seq d a b => some (mkDR 0x16 d a b 0)
  | .sne d a b => some (mkDR 0x17 d a b 0)
  | .addi d a imm => some (mkDI 0x18 d a imm)
  | .andi d a imm => some (mkDI 0x19 d a imm)
  | .ori d a imm => some (mkDI 0x1A d a imm)
  | .xori d a imm => some (mkDI 0x1B d a imm)
  | .shli d a sh => some (mkDR 0x1C d a 0 sh)
  | .shri d a sh => some (mkDR 0x1D d a 0 sh)
  | .sari d a sh => some (mkDR 0x1E d a 0 sh)
  | .slti d a imm => some (mkDI 0x1F d a imm)
  | .limm d imm => some (mkDW 0x20 d imm.toNat)
  | .limmh d imm => some (mkDW 0x21 d imm.toNat)
  | .limmx d imm => some (mkDW 0x22 d imm.toNat)
  | .limmt d imm => some (mkDW 0x23 d imm.toNat)
  | .fadd d a b sat mode => some (mkDR 0x24 d a b (BitVec.ofNat 6 (sat.toNat * 8 + mode.toNat)))
  | .fsub d a b sat mode => some (mkDR 0x25 d a b (BitVec.ofNat 6 (sat.toNat * 8 + mode.toNat)))
  | .fmul d a b sat mode => some (mkDR 0x26 d a b (BitVec.ofNat 6 (sat.toNat * 8 + mode.toNat)))
  | .ffma d a b sat mode => some (mkDR 0x27 d a b (BitVec.ofNat 6 (sat.toNat * 8 + mode.toNat)))
  | .fmin d a b => some (mkDR 0x28 d a b 0)
  | .fmax d a b => some (mkDR 0x29 d a b 0)
  | .fcmp d a b rel => some (mkDR 0x2A d a b (BitVec.ofNat 6 rel.toNat))
  | .fcvt d a src dst sat mode => some (mkDR 0x2B d a (BitVec.ofNat 6 (src.toNat * 8 + dst.toNat)) (BitVec.ofNat 6 (sat.toNat * 8 + mode.toNat)))
  | .gxlat d a b => some (mkDR 0x2C d a b 0)
  | .glim d a imm => some (mkDI 0x2D d a imm)
  | .qcfg q a imm => some (mkDI 0x2E q a imm)
  | .qadv q k => some (mkDI 0x2F q 0 (BitVec.ofNat 12 k.toNat))
  | .qadvTail q k => some (mkDI 0x2F q 0 (BitVec.ofNat 12 (16 + k.toNat)))
  | .b off => some (mkDJ 0x30 off)
  | .beq a b off => some (mkDI 0x31 a b off)
  | .bne a b off => some (mkDI 0x32 a b off)
  | .blt a b off => some (mkDI 0x33 a b off)
  | .bge a b off => some (mkDI 0x34 a b off)
  | .bltu a b off => some (mkDI 0x35 a b off)
  | .bgeu a b off => some (mkDI 0x36 a b off)
  | .call off => some (mkDJ 0x37 off)
  | .callr a => some (mkDR 0x38 0 a 0 0)
  | .ret => some (mkDR 0x39 0 0 0 0)
  | .jr a => some (mkDR 0x3A 0 a 0 0)
  | .brx a n => some (mkDR 0x3B 0 a 0 n)
  | .loop a off => some (mkDI 0x3C a 0 off)
  | .lset n a imm => some (mkDI 0x40 n a imm)
  | .runa a b => some (mkDR 0x41 0 a b 0)
  | .runx a b => some (mkDR 0x42 0 a b 0)
  | .runm a => some (mkDR 0x43 0 a 0 0)
  | .tpload a imm => some (mkDI 0x44 0 a imm)
  | .fmtset n a imm => some (mkDI 0x45 n a imm)
  | .mbset n k => some (mkDI 0x46 n 0 k)
  | .cpy a b => some (mkDR 0x47 0 a b 0)
  | .chkick a => some (mkDR 0x48 0 a 0 0)
  | .rast a => some (mkDR 0x49 0 a 0 0)
  | .bvhBuild a => some (mkDR 0x4A 0 a 0 0)
  | .bvhRefit a => some (mkDR 0x4A 0 a 0 1)
  | .bvhRebalance a => some (mkDR 0x4A 0 a 0 2)
  | .bvhPublish d a => some (mkDR 0x4A d a 0 3)
  | .bvhQuality d a => some (mkDR 0x4A d a 0 4)
  | .gpin d a => some (mkDR 0x4B d a 0 0)
  | .gunpin a => some (mkDR 0x4C 0 a 0 0)
  | .defdrain q a n => some (mkDR 0x4D q a 0 n)
  | .itemq a b => some (mkDR 0x4E 0 a b 0)
  | .covrd d sel => some (mkDR 0x4F d 0 0 sel)
  | .cld d a imm => some (mkDI 0x50 d a imm)
  | .cst d a imm => some (mkDI 0x51 d a imm)
  | .camoTeam d a b op ord prm => some (mkDR 0x52 d a b (BitVec.ofNat 6 (op.toNat * 8 + ord.toNat * 2 + prm.toNat)))
  | .camoClu d a b op ord => some (mkDR 0x53 d a b (BitVec.ofNat 6 (op.toNat * 8 + ord.toNat * 2)))
  | .camoDev d a b op ord => some (mkDR 0x54 d a b (BitVec.ofNat 6 (op.toNat * 8 + ord.toNat * 2)))
  | .camoSys d a b op ord => some (mkDR 0x55 d a b (BitVec.ofNat 6 (op.toNat * 8 + ord.toNat * 2)))
  | .fence samp ord scope prm => some (mkDR 0x56 0 0 (BitVec.ofNat 6 samp.toNat) (BitVec.ofNat 6 (ord.toNat * 16 + scope.toNat * 2 + prm.toNat)))
  | .barInit a b => some (mkDR 0x57 0 a b 0)
  | .barArrive n => some (mkDI 0x58 0 0 (BitVec.ofNat 12 n.toNat))
  | .barWait n => some (mkDI 0x59 0 0 (BitVec.ofNat 12 n.toNat))
  | .barInval n => some (mkDI 0x5A 0 0 (BitVec.ofNat 12 n.toNat))
  | .ctrwait a b scope => some (mkDR 0x5B 0 a b (BitVec.ofNat 6 scope.toNat))
  | .ctrpost a b scope => some (mkDR 0x5C 0 a b (BitVec.ofNat 6 scope.toNat))
  | .fork d a b => some (mkDR 0x5D d a b 0)
  | .join d a => some (mkDR 0x5E d a 0 0)
  | .post a b => some (mkDR 0x5F 0 a b 0)
  | .take d f a => some (mkDR 0x60 d a f 0)
  | .trap n => some (mkDR 0x61 0 0 0 n)
  | .eret => some (mkDR 0x62 0 0 0 0)
  | .sysr d sel => some (mkDI 0x63 d 0 sel)
  | .sysw a sel => some (mkDI 0x64 0 a sel)
  | .ckpt => some (mkDR 0x65 0 0 0 0)
  | .region open_ => some (mkDI 0x66 0 0 (BitVec.ofNat 12 open_.toNat))
  | .seg => some (mkDR 0x67 0 0 0 0)
  | .kexit => some (mkDR 0x68 0 0 0 0)
  | .yield => some (mkDR 0x69 0 0 0 0)
  | .time d => some (mkDR 0x6A d 0 0 0)
  | .revst d a sel => some (mkDR 0x6B d a 0 sel)
  | _ => none

/-- The 128 bits of a template entry (R122). -/
def tplBits (op : Nat) (t : Tpl) : Nat :=
  op * 2 ^ 120 + t.dstIdx.toNat * 2 ^ 114 + t.dstKind.toNat * 2 ^ 112 + t.srcA.toNat * 2 ^ 104 + t.srcB.toNat * 2 ^ 96 +
  t.srcC.toNat * 2 ^ 88 + t.fmt.toNat * 2 ^ 83 + t.ind.toNat * 2 ^ 82 + t.rnd.toNat * 2 ^ 79 + t.sat.toNat * 2 ^ 78 +
  t.wait.toNat * 2 ^ 74 + t.free.toNat * 2 ^ 70 + t.adv.toNat * 2 ^ 66 + t.zero.toNat * 2 ^ 64 + t.imm.toNat * 2 ^ 32 +
  t.aux.toNat

/-- The patch word that executes a template entry as it stands: index, select 0, predicate (R127, R128). -/
def patchWord (idx : Nat) (p : BitVec 4) : W32 := BitVec.ofNat 32 (2 ^ 31 + idx * 2 ^ 24 + p.toNat * 2 ^ 16)

/-- The 64 bits of a matrix word (R133). -/
def matBits (op : Nat) (w : MFields) : Nat :=
  op * 2 ^ 58 + w.ringA.toNat * 2 ^ 55 + w.ringB.toNat * 2 ^ 52 + w.acc.toNat * 2 ^ 49 + w.fmtA.toNat * 2 ^ 44 +
  w.fmtB.toNat * 2 ^ 39 + w.ind.toNat * 2 ^ 38 + w.lc.toNat * 2 ^ 35 + w.accf.toNat * 2 ^ 33 + w.zero.toNat * 2 ^ 32 +
  w.waitB.toNat * 2 ^ 25 + w.waitEn.toNat * 2 ^ 24 + w.postB.toNat * 2 ^ 17 + w.postEn.toNat * 2 ^ 16 + w.op.toNat

/-- The words of an instruction: a direct word, the template entry and patch word of a template row (placed at an
entry of the table), or a matrix word. -/
inductive Words where
  | direct (w : W32)
  | template (entry : W128) (patch : W32)
  | matrix (w : W64)
  deriving DecidableEq, Repr

/-- Encode an instruction; a template row is placed at table entry `idx`. Events and reserved encodings have no words. -/
def encode (idx : Nat) (i : Instr) : Option Words :=
  match i.tpl? with
  | some (op, t, p) => some (.template (BitVec.ofNat 128 (tplBits op t)) (patchWord idx p))
  | none =>
    match i.mat? with
    | some (op, w) => some (.matrix (BitVec.ofNat 64 (matBits op w)))
    | none => (encodeDirect i).map fun w => .direct (BitVec.ofNat 32 w)

end Sys2Proof
end

