-- ==== Sys2Proof/Machine/Turn.lean ====
section
/-!
DEFINITION. A turn of the schedule: which agent moves next, how much time passes before it, and what the free
environment does to caches and storage. The spec fixes none of these (00 R500, 13 R317, 16 R386, 20 R450): they are
data, taken from `State.agenda` or from the opaque schedule of Config.
-/
namespace Sys2Proof.Machine

/-- What the spec leaves to the device or to chance at any moment: line replacement (13 R317), eviction of a cached
translation (13 R328), a speculative sampler fill (16 R386), and an upset of storage (20 R450). -/
inductive Env where
  /-- The L1 of a core evicts the line holding a physical address: dirty bytes are written back (R317). -/
  | evictL1 (core pa : Nat)
  /-- The n-th cached translation of the package is dropped (R328). -/
  | evictTlb (n : Nat)
  /-- The sampler cache of a cluster fills the line of a virtual address of a partition, for a revision (R386). -/
  | fillSampler (cluster pid rev va : Nat)
  /-- The instruction cache of a core drops the word of a physical address (05 R113). -/
  | evictCode (core pa : Nat)
  /-- The sampler cache of a cluster evicts the line of a physical address. -/
  | evictSampler (cluster pa : Nat)
  /-- The 32-byte sector at a physical address becomes uncorrectable: in DRAM, L2 or the L1 of a core (R450). -/
  | upsetSector (pa : Nat) (cause : BitVec 10) (core : Nat)
  /-- A place of on-core storage of a team (and group) becomes uncorrectable (R450). The kind is 0 c, 1 g, 2 s, 3 i, 4 v,
  5 p registers, 6 a queue slot (queue n, slot m), 7 tile, 8 a scratchpad word. -/
  | upsetStore (team group kind n m : Nat)
  /-- The store line that holds a revision's copy of a line, or its ancestor, becomes uncorrectable in the L2 (R450, 19 R445). -/
  | upsetLine (rev va : Nat) (ancestor : Bool)
  deriving DecidableEq, Repr

/-- What happens in a turn: a stream context issues its next word, or an event row of the opcode table occurs. -/
inductive Action where
  | issue (c : Ctx)
  | event (i : Instr) (e : EvArgs)
  deriving DecidableEq, Repr, Inhabited

/-- One turn of the schedule. -/
structure Turn where
  ns : Nat := 0
  cycles : Nat := 0
  env : List Env := []
  act : Action
  deriving DecidableEq, Repr, Inhabited

end Sys2Proof.Machine
end

