-- ==== Sys2Proof/Config.lean ====
section
/-!
DEFINITION. What the spec leaves open about a run as a whole: the order in which the agents of the package move. It is
an uninterpreted function, so a statement holds whatever the schedule is.
-/
namespace Sys2Proof

/-- The turn taken when the state's agenda is empty, by the number of turns taken so far. No body: the spec fixes no
order between agents, no duration inside a bound and no moment for a cache replacement or an upset (log 1). -/
opaque Config.turn : Nat → Machine.Turn

/-- A byte of the report of a builder command that failed, at an offset whose content 17 R409 does not give, by what names the command
in every run: instance, team, and its place among the team's commands (log 25). No body: the spec fixes no value. -/
opaque Config.reportByte : List Nat → Nat → Byte

/-- How many commands beyond the first a tiler's command queue holds (09 R210, log 73). No body: the spec fixes no depth. -/
opaque Config.rasterQueue : Nat

/-- How many commands beyond the first a die's builders hold (09 R211, log 73). No body: the spec fixes no depth. -/
opaque Config.builderQueue : Nat

/-- A byte of a hotness notification, whose layout 13 R335 does not give: by block, requester, counter value, PINNED flag and
offset (log 32). No body: the spec fixes no layout. -/
opaque Config.hotByte : Nat → Nat → Nat → Bool → Nat → Byte

end Sys2Proof
end

