-- ==== Sys2Proof/Machine/Formats.lean ====
section
/-!
DEFINITION. The number formats and their arithmetic (08): exact values, format codes, decoding of an element, RoundTo
with its six modes, saturation and special values, integer conversion, the generator of stochastic rounding.
-/
namespace Sys2Proof.Machine

/-- An exact value: NaN, an infinity, or the dyadic number `(-1)^neg * m * 2^e`. Zero keeps its sign (08 R174, R175).
A quotient or a root that is not dyadic is replaced by a dyadic value with the same rounding in every format and mode
(`sticky`). -/
inductive Val where
  | nan
  | inf (neg : Bool)
  | fin (neg : Bool) (m : Nat) (e : Int)
  deriving DecidableEq, Repr

/-- Positive zero. -/
def Val.zero : Val := .fin false 0 0

/-- Negation of a value; NaN has no sign. -/
def Val.neg : Val → Val
  | .nan => .nan
  | .inf n => .inf (!n)
  | .fin n m e => .fin (!n) m e

/-- The sign of a value, false for NaN. -/
def Val.sign : Val → Bool
  | .nan => false
  | .inf n => n
  | .fin n _ _ => n

/-- Whether the value is a zero of either sign. -/
def Val.isZero : Val → Bool
  | .fin _ 0 _ => true
  | _ => false

/-- An integer as a value; zero is +0. -/
def Val.ofInt (i : Int) : Val := .fin (decide (i < 0)) i.natAbs 0

/-- The integer of magnitude `m` and sign `neg`. -/
def signedInt (neg : Bool) (m : Nat) : Int := if neg then -(m : Int) else m

/-- Sum of two finite values as (mantissa, exponent), aligned to the smaller exponent. -/
def alignAdd (a : Int × Int) (b : Int × Int) : Int × Int :=
  if a.2 ≤ b.2 then (a.1 + b.1 * 2 ^ (b.2 - a.2).toNat, a.2)
  else (a.1 * 2 ^ (a.2 - b.2).toNat + b.1, b.2)

/-- The rounding modes of 08 R177. Code 7 is resolved to one of these before a word executes. -/
inductive RMode where
  | rne | rtz | rdn | rup | rna | sr
  deriving DecidableEq, Repr

/-- The mode of a 3-bit code; `dyn` is FPCTL.MODE (08 R177). Code 6 is refused by the decoder. -/
def rmodeOf (code dyn : Nat) : RMode :=
  match if code = 7 then dyn else code with
  | 1 => .rtz
  | 2 => .rdn
  | 3 => .rup
  | 4 => .rna
  | 5 => .sr
  | _ => .rne

/-- The exact sum of a list of values (08 R175, R187): a NaN or infinities of both signs give NaN, an infinity gives
that infinity; an exact zero takes the common sign of its terms when all are zeros of one sign, and otherwise -0 in
RDN and +0 in every other mode. -/
def sumVals (mode : RMode) (ts : List Val) : Val :=
  if ts.any (· == .nan) then .nan
  else if ts.any (· == .inf true) && ts.any (· == .inf false) then .nan
  else if ts.any (· == .inf true) then .inf true
  else if ts.any (· == .inf false) then .inf false
  else
    let s := ts.foldl (fun acc t => match t with
      | .fin n m e => if m = 0 then acc else if acc.1 = 0 then (signedInt n m, e) else alignAdd acc (signedInt n m, e)
      | _ => acc) ((0, 0) : Int × Int)
    if s.1 = 0 then
      if ts.all (· matches .fin true 0 _) && !ts.isEmpty then .fin true 0 0
      else if ts.all (· matches .fin false 0 _) then .fin false 0 0
      else .fin (mode == .rdn) 0 0
    else .fin (decide (s.1 < 0)) s.1.natAbs s.2

/-- The exact product (08 R175, R186). -/
def mulVal : Val → Val → Val
  | .nan, _ => .nan
  | _, .nan => .nan
  | .inf a, .inf b => .inf (a != b)
  | .inf a, .fin b m _ => if m = 0 then .nan else .inf (a != b)
  | .fin a m _, .inf b => if m = 0 then .nan else .inf (a != b)
  | .fin a m e, .fin b n f => .fin (a != b) (m * n) (e + f)

/-- A positive non-dyadic value known to lie strictly between `k * 2^e` and `(k+1) * 2^e` is represented by the middle
of that interval: with at least 66 significant bits in `k` every rounding of it, and every `F` of R178, is that of the
value itself. -/
def sticky (neg exact : Bool) (k : Nat) (e : Int) : Val :=
  if exact then .fin neg k e else .fin neg (2 * k + 1) (e - 1)

/-- Number of bits of a natural number, 0 for 0. -/
def bitLen (n : Nat) : Nat := if n = 0 then 0 else Nat.log2 n + 1

/-- The quotient of two finite values with non-zero divisor, exact or `sticky` to 80 bits. -/
def divFin (an : Bool) (am : Nat) (ae : Int) (bn : Bool) (bm : Nat) (be : Int) : Val :=
  if am = 0 then .fin (an != bn) 0 0
  else
    let s := 80 + bitLen bm
    let k := am * 2 ^ s / bm
    sticky (an != bn) (am * 2 ^ s % bm == 0) k (ae - be - s)

/-- A result whose exact value is zero takes its sign from the mode (08 R175). -/
def exactZero (m : RMode) : Val → Val
  | .fin n k e => if k = 0 then .fin (m == .rdn) 0 0 else .fin n k e
  | x => x

/-- Compare two values that are not NaN. -/
def ltVal (a b : Val) : Bool :=
  match a, b with
  | .inf true, .inf true => false
  | .inf true, _ => true
  | _, .inf true => false
  | .inf false, _ => false
  | _, .inf false => true
  | .fin n m e, .fin n' m' e' =>
    (alignAdd (signedInt n m, e) (-(signedInt n' m'), e')).1 < 0
  | _, _ => false

/-- Equality of two values that are not NaN; -0 equals +0. -/
def eqVal (a b : Val) : Bool :=
  match a, b with
  | .inf x, .inf y => x == y
  | .fin n m e, .fin n' m' e' => (alignAdd (signedInt n m, e) (-(signedInt n' m'), e')).1 == 0
  | _, _ => false

/-- The order of `fmin`, `fmax`: -0 below +0 (08 R175). -/
def ltOrd (a b : Val) : Bool :=
  ltVal a b || (a.isZero && b.isZero && a.sign && !b.sign)

/-- `fmin`: NaN when either operand is NaN (08 R175). -/
def minVal (a b : Val) : Val := if a == .nan || b == .nan then .nan else if ltOrd b a then b else a

/-- `fmax`: NaN when either operand is NaN (08 R175). -/
def maxVal (a b : Val) : Val := if a == .nan || b == .nan then .nan else if ltOrd a b then b else a

/-- A binary floating-point format of 08 R170: exponent bits, fraction bits, bias, the bits of its largest finite value,
whether it has infinities, and its canonical NaN where it has one. -/
structure FloatFmt where
  expBits : Nat
  fracBits : Nat
  bias : Nat
  maxBits : Nat
  hasInf : Bool
  nan : Option Nat
  deriving DecidableEq, Repr

def fp32 : FloatFmt := { expBits := 8, fracBits := 23, bias := 127, maxBits := 0x7F7FFFFF, hasInf := true, nan := some 0x7FC00000 }
def fp16 : FloatFmt := { expBits := 5, fracBits := 10, bias := 15, maxBits := 0x7BFF, hasInf := true, nan := some 0x7E00 }
def bf16 : FloatFmt := { expBits := 8, fracBits := 7, bias := 127, maxBits := 0x7F7F, hasInf := true, nan := some 0x7FC0 }
def e4m3 : FloatFmt := { expBits := 4, fracBits := 3, bias := 7, maxBits := 0x7E, hasInf := false, nan := some 0x7F }
def e5m2 : FloatFmt := { expBits := 5, fracBits := 2, bias := 15, maxBits := 0x7B, hasInf := true, nan := some 0x7E }
def e3m2 : FloatFmt := { expBits := 3, fracBits := 2, bias := 3, maxBits := 0x1F, hasInf := false, nan := none }
def e2m3 : FloatFmt := { expBits := 2, fracBits := 3, bias := 1, maxBits := 0x1F, hasInf := false, nan := none }
def e2m1 : FloatFmt := { expBits := 2, fracBits := 1, bias := 1, maxBits := 0x7, hasInf := false, nan := none }

/-- Width of a format's element in bits. -/
def FloatFmt.width (f : FloatFmt) : Nat := 1 + f.expBits + f.fracBits

/-- The value of an element (08 R170). Formats with infinities follow IEEE 754; E4M3 has one NaN magnitude; the FP6 and
FP4 formats are all finite. -/
def FloatFmt.decode (f : FloatFmt) (w : Nat) : Val :=
  let frac := bitsOf w 0 f.fracBits
  let ex := bitsOf w f.fracBits f.expBits
  let sign := bitsOf w (f.fracBits + f.expBits) 1 == 1
  if f.hasInf && ex == 2 ^ f.expBits - 1 then
    if frac = 0 then .inf sign else .nan
  else if !f.hasInf && f.nan == some (bitsOf w 0 (f.width - 1)) then .nan
  else if ex = 0 then .fin sign frac (1 - (f.bias : Int) - f.fracBits)
  else .fin sign (2 ^ f.fracBits + frac) ((ex : Int) - f.bias - f.fracBits)

/-- Whether an encoded element is subnormal (zero exponent field, non-zero fraction). -/
def FloatFmt.isSubnormal (f : FloatFmt) (w : Nat) : Bool :=
  bitsOf w f.fracBits f.expBits == 0 && bitsOf w 0 f.fracBits != 0

/-- A subnormal replaced by the zero of its sign (08 R180). -/
def FloatFmt.flush (f : FloatFmt) (w : Nat) : Nat :=
  if f.isSubnormal w then bitsOf w (f.width - 1) 1 * 2 ^ (f.width - 1) else w

/-- The encoding of magnitude `t * 2^q`, `q` the exponent of the grid it was rounded on. -/
def FloatFmt.pack (f : FloatFmt) (t : Nat) (q : Int) : Nat :=
  let emin : Int := 1 - (f.bias : Int) - f.fracBits
  if t < 2 ^ f.fracBits then t
  else if t < 2 ^ (f.fracBits + 1) then (q - emin + 1).toNat * 2 ^ f.fracBits + (t - 2 ^ f.fracBits)
  else (q - emin + 2).toNat * 2 ^ f.fracBits

/-- Whether magnitude remainder `r` of grid step `2^s` rounds away from zero (08 R177, R178). `odd`: the truncated
significand is odd; `u` is the SR draw. -/
def roundsAway (mode : RMode) (neg odd : Bool) (r s u : Nat) : Bool :=
  if r = 0 then false
  else match mode with
    | .rtz => false
    | .rdn => neg
    | .rup => !neg
    | .rna => decide (2 ^ s ≤ 2 * r)
    | .rne => decide (2 ^ s < 2 * r) || (decide (2 ^ s = 2 * r) && odd)
    | .sr => decide (2 ^ 32 ≤ r * 2 ^ 32 / 2 ^ s + u)

/-- Truncated quotient and remainder of `m * 2^e` on the grid `2^q`, with the grid's shift. -/
def onGrid (m : Nat) (e q : Int) : Nat × Nat × Nat :=
  if q ≤ e then (m * 2 ^ (e - q).toNat, 0, 0)
  else (m / 2 ^ (q - e).toNat, m % 2 ^ (q - e).toNat, (q - e).toNat)

/-- Whether a mode rounds away on overflow (08 R181); for SR it is whether the draw gave the value away from zero. -/
def overflowsAway (mode : RMode) (neg srAway : Bool) : Bool :=
  match mode with
  | .rne => true
  | .rna => true
  | .rup => !neg
  | .rdn => neg
  | .rtz => false
  | .sr => srAway

/-- RoundTo of 08 R177 followed by R181 and R174: the encoded result. `u` is the draw for SR. -/
def FloatFmt.round (f : FloatFmt) (mode : RMode) (sat : Bool) (u : Nat) (x : Val) : Nat :=
  let signBit (n : Bool) : Nat := if n then 2 ^ (f.width - 1) else 0
  match x with
  | .nan => f.nan.getD 0
  | .inf n =>
    if f.hasInf then (if sat then f.maxBits else f.maxBits + 1) + signBit n
    else match f.nan with
      | some nb => if sat then f.maxBits + signBit n else nb
      | none => f.maxBits + signBit n
  | .fin n m e =>
    if m = 0 then signBit n
    else
      let q : Int := max (e + bitLen m - 1 - f.fracBits) (1 - (f.bias : Int) - f.fracBits)
      let g := onGrid m e q
      let away := roundsAway mode n (g.1 % 2 == 1) g.2.1 g.2.2 u
      let bits := f.pack (if away then g.1 + 1 else g.1) q
      if bits ≤ f.maxBits then bits + signBit n
      else if overflowsAway mode n away && !sat then
        if f.hasInf then f.maxBits + 1 + signBit n
        else match f.nan with
          | some nb => nb
          | none => f.maxBits + signBit n
      else f.maxBits + signBit n

/-- A value rounded to an integer in a mode (08 R183, step 3). -/
def roundInt (mode : RMode) (u : Nat) (n : Bool) (m : Nat) (e : Int) : Int :=
  let g := onGrid m e 0
  signedInt n (if roundsAway mode n (g.1 % 2 == 1) g.2.1 g.2.2 u then g.1 + 1 else g.1)

/-- An integer type: width and signedness. -/
structure IntFmt where
  width : Nat
  signed : Bool
  deriving DecidableEq, Repr

def IntFmt.lo (f : IntFmt) : Int := if f.signed then -(2 ^ (f.width - 1) : Nat) else 0
def IntFmt.hi (f : IntFmt) : Int := if f.signed then (2 ^ (f.width - 1) : Nat) - 1 else (2 ^ f.width : Nat) - 1

/-- The value of an integer element. -/
def IntFmt.decode (f : IntFmt) (w : Nat) : Int :=
  let x := w % 2 ^ f.width
  if f.signed && decide (2 ^ (f.width - 1) ≤ x) then (x : Int) - (2 ^ f.width : Nat) else x

/-- 08 R182: wrap, or clamp with saturate; the element's bits. -/
def IntFmt.narrow (f : IntFmt) (sat : Bool) (i : Int) : Nat :=
  let j := if sat then clampInt i f.lo f.hi else i
  (j % (2 ^ f.width : Nat)).toNat

/-- Float-to-integer conversion (08 R183): the element's bits. -/
def IntFmt.ofVal (f : IntFmt) (mode : RMode) (sat : Bool) (u : Nat) : Val → Nat
  | .nan => 0
  | .inf n => if sat then f.narrow true (if n then f.lo else f.hi) else 0
  | .fin n m e => f.narrow sat (roundInt mode u n m e)

/-- E8M0 (08 R170, R177, R181): the 8-bit field nearest to a value in the mode, magnitudes only. -/
def e8m0Round (mode : RMode) (sat : Bool) (u : Nat) : Val → Nat
  | .nan => 0xFF
  | .inf _ => if sat then 0xFE else 0xFF
  | .fin _ m e =>
    if m = 0 then 0
    else
      let ex : Int := e + bitLen m - 1
      if ex < -127 then 0
      else
        let field := (ex + 127).toNat
        let r := m - 2 ^ (bitLen m - 1)
        let away := roundsAway mode false (field % 2 == 1) r (bitLen m - 1) u
        let out := if away then field + 1 else field
        if out ≤ 254 then out
        else if overflowsAway mode false away && !sat then 0xFF else 0xFE

/-- The value of an E8M0 field (08 R170). -/
def e8m0Val (w : Nat) : Val := if w % 256 = 0xFF then .nan else .fin false 1 ((w % 256 : Nat) - 127)

/-- The kinds of element a format code 0 to 31 stands for: the value of the code itself, without scale (08 R170). -/
inductive Elem where
  | float (f : FloatFmt)
  | int (f : IntFmt)
  | e8m0
  deriving DecidableEq, Repr

/-- The element format of a code (08 R170); scaled codes give their element. -/
def elemOf (code : Nat) : Elem :=
  match code with
  | 0 => .float fp32
  | 1 => .float fp16
  | 2 => .float bf16
  | 3 => .float e4m3
  | 4 => .float e5m2
  | 5 => .float e3m2
  | 6 => .float e2m3
  | 7 => .float e2m1
  | 8 => .int { width := 32, signed := true }
  | 9 => .int { width := 16, signed := true }
  | 10 => .int { width := 8, signed := true }
  | 11 => .int { width := 8, signed := false }
  | 12 => .int { width := 4, signed := true }
  | 13 => .int { width := 4, signed := false }
  | 14 => .float e4m3
  | 15 => .float e5m2
  | 16 => .float e3m2
  | 17 => .float e2m3
  | 18 => .float e2m1
  | 19 => .int { width := 8, signed := true }
  | 20 => .int { width := 8, signed := false }
  | 21 => .int { width := 8, signed := false }
  | 22 => .int { width := 8, signed := false }
  | 23 => .int { width := 4, signed := false }
  | 24 => .int { width := 4, signed := false }
  | 25 => .int { width := 4, signed := false }
  | 26 => .int { width := 16, signed := false }
  | 27 => .e8m0
  | 28 => .float e2m1
  | 29 => .int { width := 4, signed := true }
  | 30 => .int { width := 8, signed := true }
  | _ => .float fp32

/-- Element width in bits of a format code (08 R170). -/
def elemBits (code : Nat) : Nat :=
  match elemOf code with
  | .float f => f.width
  | .int f => f.width
  | .e8m0 => 8

/-- The value of an element. -/
def Elem.val (el : Elem) (w : Nat) : Val :=
  match el with
  | .float f => f.decode w
  | .int f => .ofInt (f.decode w)
  | .e8m0 => e8m0Val w

/-- A value written in an element format (08 R177 to R183). -/
def Elem.write (el : Elem) (mode : RMode) (sat : Bool) (u : Nat) (x : Val) : Nat :=
  match el with
  | .float f => f.round mode sat u x
  | .int f => f.ofVal mode sat u x
  | .e8m0 => e8m0Round mode sat u x

/-- The X column of 08 R170: codes legal in arithmetic. -/
def fmtArith (code : Nat) : Bool :=
  code ≤ 2 || (8 ≤ code && code ≤ 11) || code = 26 || code = 31

/-- The X column of 08 R170: codes legal in arithmetic or conversion. -/
def fmtConv (code : Nat) : Bool := code ≤ 13 || code = 26 || code = 27 || code = 31

/-- Whether a code is one of the three float formats of X arithmetic (0 or 31, 1, 2). -/
def fmtFloatArith (code : Nat) : Bool := code ≤ 2 || code = 31

/-- One step of the generator of stochastic rounding (08 R179). -/
def genStep (st : W32) : W32 := if st.getLsbD 0 then (st >>> 1) ^^^ 0xA3000000#32 else st >>> 1

/-- The seed of generator `g` (08 R179); the C stream is generator 16. -/
def genSeed (seed : W32) (g : Nat) : W32 :=
  let s := seed ^^^ BitVec.ofNat 32 ((g + 1) * 2 ^ 27)
  if s = 0 then 1 else s

/-- The draws of the active lanes of a mask in ascending lane order, and the state after them (08 R179). -/
def genDraws (st : W32) (mask : W32) : W32 × Lanes :=
  (List.range 32).foldl (fun (p : W32 × Lanes) l =>
    if mask.getLsbD l then (genStep p.1, p.2 ++ [genStep p.1]) else (p.1, p.2 ++ [0])) (st, [])

end Sys2Proof.Machine
end

