-- ==== Sys2Proof/Machine/State.lean ====
section
/-!
DEFINITION. The state of the device as plain data, and its value after device reset.
-/
namespace Sys2Proof.Machine

/-- A cause code (20 R446). -/
abbrev Cause := BitVec 10

/-! ## Memory -/

/-- Memory: listed bytes by strictly rising address, none equal to what an unlisted address reads as. -/
structure Memory where
  cells : List Host.Cell := []
  deriving DecidableEq, Repr

/-- What an address that nothing has written reads as (log 3: DESIGN CHOICE, the spec gives no power-on contents). -/
def Memory.unlisted : Byte := 0

/-- A byte held by a core's L1 data cache (13 R317): the copy a revision `rev` of partition `pid` sees at physical
address `pa`, mapped from virtual address `va`; `priv` marks a byte of the private pool (R318, R321). -/
structure L1Byte where
  core : Nat
  rev : Nat := 0
  pid : Nat := 0
  va : Nat := 0
  pa : Nat
  val : Byte
  dirty : Bool := false
  priv : Bool := false
  deriving DecidableEq, Repr

/-- A byte held by a cluster's sampler cache (16 R386). -/
structure SampByte where
  cluster : Nat
  rev : Nat := 0
  pid : Nat
  pa : Nat
  val : Byte
  deriving DecidableEq, Repr

/-- Who caches a translation (13 R328): a core, a cluster, or the translation register of a group's address register. -/
inductive TlbOwner where
  | core (n : Nat)
  | cluster (n : Nat)
  | reg (team group n : Nat)
  deriving DecidableEq, Repr

/-- A cached translation: virtual base, size in bytes, physical base, permissions, the table pages it was derived
from (13 R328, R329), and the accesses counted in compatibility mode (R335). -/
structure TlbEntry where
  owner : TlbOwner
  pid : Nat
  va : Nat
  size : Nat
  pa : Nat
  w : Bool
  x : Bool
  tables : List Nat := []
  count : Nat := 0
  deriving DecidableEq, Repr

/-- A cached level-1 or level-2 table entry (13 R328). -/
structure WalkEntry where
  cluster : Nat
  pid : Nat
  level : Nat
  index : Nat
  table : Nat
  entry : W64
  deriving DecidableEq, Repr

/-- A 32-byte sector whose stored bytes are uncorrectable, and the cause its consumer raises (20 R450). -/
structure BadSector where
  pa : Nat
  cause : Cause
  core : Nat := 0
  deriving DecidableEq, Repr

/-- An exact accumulator of ordered float adds (11 R283): the word, the owning instance, and the terms added so far, the
word's value at the opening first. -/
structure FloatAcc where
  pa : Nat
  rev : Nat := 0
  inst : Nat
  terms : List Val
  deriving DecidableEq, Repr

/-! ## Images, records, cards -/

/-- A kernel image's header (01 R31): its address, flags, limits and twelve section entries (offset, bytes). -/
structure Image where
  base : Nat := 0
  flags : Nat := 0
  bytes : Nat := 0
  scratchBytes : Nat := 0
  privateWords : Nat := 0
  accTiles : Nat := 0
  sections : List (Nat × Nat) := []
  deriving DecidableEq, Repr

/-- A role-table entry (01 R34). -/
structure Role where
  groups : Nat := 1
  vregs : Nat := 16
  aEntry : Nat := 0xFFFF
  xEntry : Nat := 0xFFFF
  deriving DecidableEq, Repr

/-- A loop record (01 R35). -/
structure LoopRec where
  flags : Nat := 0
  bound : Nat := 0
  proOff : Nat := 0
  kerOff : Nat := 0
  epiOff : Nat := 0
  proLen : Nat := 0
  kerLen : Nat := 0
  epiLen : Nat := 0
  reserved : Nat := 0
  trips : List Nat := []
  strides : List Nat := []
  expectCount : Nat := 0
  expectSig : Nat := 0
  deriving DecidableEq, Repr

/-- An accepted card's fields (01 R20 to R28). -/
structure Card where
  flags : Nat := 0
  periodNs : Nat := 0
  deadlineNs : Nat := 0
  firstReleaseNs : Nat := 0
  budgetNs : Nat := 0
  regulator : Nat := 0
  bwBytes : Nat := 0
  pid : Nat := 0
  criticality : Nat := 0
  clusterMask : Nat := 0
  imageAddr : Nat := 0
  entryRecord : Nat := 0
  gridX : Nat := 1
  gridY : Nat := 1
  gridZ : Nat := 1
  groups : Nat := 1
  roles : Nat := 1
  args : Nat := 0
  handlerRecord : Nat := 0xFFFF
  fallbackRecord : Nat := 0xFFFF
  disposition : Nat := 0
  genPin : Nat := 0
  surfaceBase : Nat := 0
  pitch : Nat := 0
  elemFmt : Nat := 0
  pattern : Nat := 0
  ladder : Nat := 0
  interp : Nat := 0
  threshLo : Nat := 0
  threshHi : Nat := 0
  updateInterval : Nat := 0
  completionCounter : Nat := 0
  msixVector : Nat := 0
  deriving DecidableEq, Repr

/-! ## Streams -/

/-- States of an issued record (02 R54). -/
inductive RunState where
  | issued | prologue | kernel | parked | epilogue | retired | aborted
  deriving DecidableEq, Repr

/-- A place of on-core storage that can be found uncorrectable (20 R450): a register of a team or group, a queue slot, an
accumulator tile, a 4-byte word of the scratchpad footprint. -/
inductive Store where
  | c (n : Nat)
  | g (n : Nat)
  | s (n : Nat)
  | i (n : Nat)
  | v (n : Nat)
  | p (n : Nat)
  | queue (q slot : Nat)
  | tile (n : Nat)
  | scratch (word : Nat)
  deriving DecidableEq, Repr

/-- Issued-word information: the address of the word or chain, the address after it, its words (05 R112, R131), and
whether it comes from a resume list (20 R453), the storage it reads and wholly
overwrites (20 R450), and whether an idempotent region forbids it (20 R460). -/
structure IssueInfo where
  pc : Nat := 0
  next : Nat := 0
  words : List W64 := []
  resumed : Bool := false
  reads : List Store := []
  writes : List Store := []
  forbidden : Bool := false
  deriving DecidableEq, Repr

/-- Recorded phase of a barrier for a context (09 R218): the barrier, the phase, whether an arrival set it, whether the
context waits on it, and whether it was invalidated meanwhile (R221). -/
structure BarRec where
  ctx : Ctx
  bar : Nat
  phase : W16
  arrived : Bool
  waiting : Bool := false
  gone : Bool := false
  deriving DecidableEq, Repr

/-- The post an `mloop` makes once every operation of its loop has retired (12 R309): the word with where it was issued, the count,
signature, latch and recorded phase before its issue (R312), and whether its barrier was invalidated meanwhile (R307). -/
structure LoopPost where
  instr : Instr
  info : IssueInfo := {}
  count : Nat := 0
  sig : W32 := 0
  latch : Option (BitVec 5 × BitVec 5) := none
  wait : Option (Nat × Option BarRec) := none
  gone : Bool := false
  deriving DecidableEq, Repr

/-- The record an A, X or M context runs (02 R54, 07 R159 to R164): its index and fields, state, trip counts read at
issue, iterations completed, position in the current body, the loop buffer's copy of the three bodies, count and
signature, the cycle the span began at, what a replay of an idempotent iteration restores (20 R462), and the `mloop` being
replayed: replays left, first position, length, and the post that follows it (12 R309); `late`: 0x203 was raised in
the iteration before its boundary (07 R158); `lastPc`: the word issued last, which a boundary cause names (07 R160). -/
structure RecRun where
  idx : Nat
  lr : LoopRec
  st : RunState := .issued
  trips : List Nat := []
  iter : Nat := 0
  pos : Nat := 0
  pro : List W64 := []
  ker : List W64 := []
  epi : List W64 := []
  count : Nat := 0
  sig : W32 := 0
  spanStart : Nat := 0
  gen0 : W32 := 0
  replayed : Bool := false
  loopLeft : Nat := 0
  loopStart : Nat := 0
  loopLen : Nat := 0
  loopOp : Option LoopPost := none
  refillStopped : Bool := false
  late : Bool := false
  lastPc : Nat := 0
  deriving DecidableEq, Repr

/-- What an outstanding A word still has to do (20 R453): read memory into a queue slot, deliver what it read from the
scratchpad at issue, wait for full granules, perform an atomic, fill ring bytes, or perform a store that an earlier
outstanding access holds back. -/
inductive OutKind where
  | load | scratch | fullEmpty | atomic | ringPut | store
  deriving DecidableEq, Repr

/-- One lane of an access: its lane, effective and physical address, and whether its address is tainted and the access is
performed at home (18 R430). -/
structure LaneAcc where
  lane : Nat
  va : Nat
  pa : Nat := 0
  home : Bool := false
  deriving DecidableEq, Repr

/-- An outstanding A word: its place in issue order, what issued it, its lanes, width and format code, order and scope, its queue or ring slot, its
data, compare lanes, lanes served (11 R276), lanes found uncorrectable at issue, the watch window that holds it (14
R352), and whether its team has moved to another core since its issue (03 R82). -/
structure Outst where
  seq : Nat
  kind : OutKind
  instr : Instr
  info : IssueInfo
  lanes : List LaneAcc
  width : Nat := 4
  code : Nat := 8
  order : Nat := 0
  scope : Nat := 0
  prm : Bool := false
  dst : Option (Nat × Nat) := none
  data : Lanes := []
  cmp : Lanes := []
  served : W32 := 0
  bad : W32 := 0
  heldOn : Option (Nat × Nat) := none
  withdrawn : Bool := false
  moved : Bool := false
  deriving DecidableEq, Repr

/-- Execution state of an A, X or M context. -/
structure CtxState where
  run : Option RecRun := none
  parked : Bool := false
  stopped : Bool := false
  waiting : Bool := false
  resume : List Outst := []
  deriving DecidableEq, Repr

/-- A checked C segment (07 R164). -/
structure Segment where
  expect : W32
  count : Nat := 0
  sig : W32 := 0
  deriving DecidableEq, Repr

/-- An open idempotent C region and its snapshot (09 R229, 20 R462). -/
structure Region where
  pc : Nat
  c : List W64
  lc : List W32
  stack : List W64
  gen : W32
  replayed : Bool := false
  deriving DecidableEq, Repr

/-- The C context (05 R111, 07, 09 R202): program counter, return stack with its top first, segment, region, the control
record it runs, the cycle its bound counts from and whether 0x203 was raised since (`late`), and what a waiting word waits for (`joining`: merges of children up to a
handle). -/
structure CtrlState where
  pc : Nat := 0
  stack : List W64 := []
  seg : Option Segment := none
  region : Option Region := none
  recIdx : Nat := 0
  bound : Nat := 0
  spanStart : Nat := 0
  ticket : Option Nat := none
  joining : Option Nat := none
  waiting : Bool := false
  heldOn : Option (Nat × Nat) := none
  withdrawn : Bool := false
  parked : Bool := false
  atCheckpoint : Bool := false
  fresh : Bool := false
  pinStale : Bool := false
  due : Bool := false
  ended : Bool := false
  late : Bool := false
  deriving DecidableEq, Repr

/-- A raised cause with what the trap frame records of it (20 R448). `boundary` marks a cause found at a kernel-iteration
boundary (07 R160); `ctx` is the trapping context, none for an instance-level cause; `shown`: VADDR stands in the frame (an
access word's lanes 11 R272, an engine's cause 14 R354, 16 R391, 17 R407); `time`: the local time at the raise; `logged`: its occurrence stands in the event log; `reported`: Belvedere has heard of its data. -/
structure Raise where
  cause : Cause
  ctx : Option Ctx := none
  stream : Nat := 0
  pc : Nat := 0
  lanes : W32 := 0xFFFFFFFF#32
  sector : Nat := 0
  vaddr : Nat := 0
  shown : Bool := false
  regionPc : Nat := 0
  group : Nat := 0xFF
  boundary : Bool := false
  serviceable : Bool := false
  kind : AccessKind := .read
  time : Nat := 0
  logged : Bool := false
  reported : Bool := false
  deriving DecidableEq, Repr

/-- The trap frame (20 R448). -/
structure TrapFrame where
  cause : Cause := 0
  stream : BitVec 3 := 0
  pc : W64 := 0
  lanes : W32 := 0
  sector : BitVec 48 := 0
  vaddr : W64 := 0
  regionPc : W64 := 0
  group : BitVec 8 := 0
  team : W32 := 0
  jobInst : W32 := 0
  jobIndex : BitVec 13 := 0
  time : W64 := 0
  deriving DecidableEq, Repr

/-- A running handler (20 R455): the trapping context if one stopped, whether it resumes at step 3 of its boundary, the
C stream's saved control state, and the cause it serves with the core cycle of its entry, which decides between the causes of
one cycle (01 R26). -/
structure Handler where
  trapped : Option Ctx := none
  boundary : Bool := false
  savedPc : Nat := 0
  savedSeg : Option Segment := none
  savedRegion : Option Region := none
  savedRec : Nat := 0
  savedBound : Nat := 0
  savedSpan : Nat := 0
  savedTicket : Option Nat := none
  savedLate : Bool := false
  taken : Raise := { cause := 0 }
  entered : Nat := 0
  deriving DecidableEq, Repr

/-! ## Queues, rings, tiles -/

/-- A slot of an architectural queue (07 R155): 32 lanes, lane mask of a store slot (10 R237), valid mask (11 R273,
16 R370), loads or requests still to land in it, the batch or request that filled a delivery slot, whether its raster command set
NO_DISC, and whether no load has
been written into the slot since it was last passed. -/
structure QSlot where
  lanes : Lanes := []
  mask : W32 := 0
  valid : W32 := 0
  pend : Nat := 0
  source : Nat := 0
  noDisc : Bool := false
  taint : W32 := 0
  stale : Bool := true
  deriving DecidableEq, Repr

/-- The unit a delivery queue is bound to (16 R369, R384). -/
inductive QBind where
  | none | raster | sampler | traversal
  deriving DecidableEq, Repr

/-- An architectural queue (07 R155): depth 0 is unconfigured. `f` counts filled slots, `resv` slots advanced past and not
yet filled (11 R273), `heldPop` and `heldFill` the movements an idempotent iteration holds back (20 R461). -/
structure Que where
  depth : Nat := 0
  head : Nat := 0
  tail : Nat := 0
  f : Nat := 0
  resv : Nat := 0
  heldPop : Nat := 0
  heldFill : Nat := 0
  slots : List QSlot := []
  bind : QBind := .none
  attrBase : Nat := 0
  attrStride : Nat := 0
  deriving DecidableEq, Repr

/-- A scratchpad ring (12 R291). `resv` slots are reserved by `mreq`, `engine` by copy channels, of which `fillsDone` have
completed out of order (14 R350). -/
structure Ring where
  base : Nat := 0
  slotBytes : Nat := 0
  count : Nat := 0
  head : Nat := 0
  tail : Nat := 0
  f : Nat := 0
  claimed : Nat := 0
  resv : Nat := 0
  heldPop : Nat := 0
  heldFill : Nat := 0
  engine : Nat := 0
  fillsDone : List Nat := []
  deriving DecidableEq, Repr

/-- One entry of a deferral queue (07 R167). -/
structure DefEntry where
  record : Nat
  token : Nat
  item : W32
  role : Nat
  base : Nat
  live : List W32
  deriving DecidableEq, Repr

/-- A batch of a deferral drain waiting for a free group of its role (07 R168). -/
structure DefBatch where
  record : Nat
  role : Nat
  entries : List DefEntry
  deriving DecidableEq, Repr

/-! ## Vision units (16) -/

/-- A fragment: the five slot words of one lane (16 R377). -/
structure Frag where
  xy : W32
  depth : W32
  prim : W32
  a : W32
  b : W32
  deriving DecidableEq, Repr

/-- A delivered batch that has not retired: its number, fragments, and the lanes discarded or given another depth (16
R260, R381). -/
structure Batch where
  id : Nat
  frags : List Frag
  disc : W32 := 0
  zset : W32 := 0
  zout : Lanes := []
  deriving DecidableEq, Repr

/-- A group's part of a raster command: tiles still to start (tile x, tile y, primitives of the window in rank order), the
current tile with its buffers, fragments not delivered, and batches not retired (16 R377, R380). -/
structure RastGroup where
  group : Nat
  tiles : List (Nat × Nat × List Nat) := []
  cur : Option (Nat × Nat) := none
  depth0 : List W32 := []
  ids0 : List W32 := []
  depth : List W32 := []
  ids : List W32 := []
  frags : List Frag := []
  batches : List Batch := []
  deriving DecidableEq, Repr

/-- A raster command submitted by a team, and once it has started its fields and progress (16 R372, R383): the primitives'
words, the groups' parts, overflowing tiles with their list lengths, and the code it ends with. `bound` once its fields have been read and
its queues bound (R369), `started` once its primitives have been read. -/
structure Raster where
  team : Nat
  addr : Nat
  started : Bool := false
  ctl : Nat := 0
  pass : Nat := 0
  rect : Nat := 0
  depthBase : Nat := 0
  idBase : Nat := 0
  pitch : Nat := 0
  report : Nat := 0
  bound : Bool := false
  primBase : Nat := 0
  primCount : Nat := 0
  mask : Nat := 0
  prims : List (List W32) := []
  groups : List RastGroup := []
  overs : List (Nat × Nat × Nat) := []
  degen : Nat := 0
  code : Nat := 0
  deriving DecidableEq, Repr

/-- A sampler descriptor (16 R384). -/
structure SmpDesc where
  base : Nat := 0
  width : Nat := 0
  height : Nat := 0
  pitch : Nat := 0
  ctl : Nat := 0
  stride : Nat := 0
  chOff : Nat := 0
  border : W32 := 0
  deriving DecidableEq, Repr

/-- An `smp` word whose slot is still to be filled (16 R384, R385). -/
structure SmpReq where
  q : Nat
  slot : Nat
  desc : SmpDesc
  mask : W32
  u : Lanes
  v : Lanes
  moved : Bool := false
  deriving DecidableEq, Repr

/-- A candidate of a ray or sweep: its exact entry distance as a fraction (zero for a sweep) and its primitive (16 R388). -/
structure Cand where
  num : Int := 0
  den : Nat := 1
  prim : Nat
  deriving DecidableEq, Repr

/-- One lane of a `trace` word: its record's words and address, current TMAX, candidates not delivered, the candidate of the
current round and whether it was decided, the winner (t, primitive, user word), and the region masks of the visited nodes
(16 R387 to R390). -/
structure TraceLane where
  lane : Nat
  addr : Nat
  words : List W32 := []
  valid : Bool := false
  tmax : W32 := 0
  cands : List Cand := []
  cur : Option Cand := none
  decided : Bool := false
  win : Option (W32 × Nat × W32) := none
  visit : Nat := 0
  deep : Bool := false
  deriving DecidableEq, Repr

/-- A `trace` word whose result is still to be delivered (16 R387 to R390): its number, queue, form, handle, rounds delivered of
its round count, whether its walk has been made, whether it failed, and whether it was issued in a kernel iteration of an IDEMPOTENT
record that has not ended (20 R462). -/
structure TraceReq where
  id : Nat
  q : Nat
  sweep : Bool
  handle : W64
  rounds : Nat
  round : Nat := 0
  walked : Bool := false
  lanes : List TraceLane := []
  failed : Bool := false
  inIter : Bool := false
  deriving DecidableEq, Repr

/-! ## Groups and teams -/

/-- The walk of a group over its work items (04 R92 to R94): the next point of the tile's row-major list to look at, and how
many kept points lie before it. -/
structure Walk where
  pos : Nat := 0
  kept : Nat := 0
  deriving DecidableEq, Repr

/-- A translation register's frame and limit (11 R264); its cached translation is a `TlbEntry`. -/
structure TransReg where
  frame : BitVec 51 := 0
  limit : Nat := 0
  deriving DecidableEq, Repr

/-- A group of a team. Lanes of registers and predicates that carry the taint of a load-consume at .clu or wider (18 R429)
are kept as masks; `sTaint` has one bit per s register. -/
structure Group where
  role : Nat := 0
  vregs : Nat := 16
  gen : W32 := 1
  g : List W64 := []
  tr : List TransReg := []
  s : List W64 := []
  i : List Lanes := []
  v : List Lanes := []
  p : List W32 := []
  live : W32 := 0xFFFFFFFF#32
  items : List (Option W32) := []
  walk : Walk := {}
  queues : List Que := []
  iTaint : List W32 := []
  vTaint : List W32 := []
  pTaint : List W32 := []
  sTaint : W32 := 0
  outst : List Outst := []
  smps : List SmpReq := []
  traces : List TraceReq := []
  araise : List Raise := []
  priv : Option Nat := none
  actx : CtxState := {}
  xctx : CtxState := {}
  deriving DecidableEq, Repr

/-- Status of a team (02 R53, 21 R468 to R470). -/
inductive TeamStatus where
  /-- created and not placed: a child or a fallback team -/
  | waiting
  | running
  /-- every context stopped at a checkpoint; issued work drains (R469) -/
  | parked
  /-- drained; its context moves to the inactive bank (R470) -/
  | toBank
  /-- drained; its context is written to shadow storage (R470) -/
  | toShadow
  /-- in the inactive bank of its core -/
  | suspended
  /-- in shadow storage -/
  | spilled
  /-- transferred back or restored, not yet issuing (R470) -/
  | resuming
  /-- copied to another core by the streamer (03 R80) -/
  | migrating
  | retired
  | stopped
  deriving DecidableEq, Repr

/-- Where a signalled team goes after it parks (03 R78, 21 R468). -/
inductive SignalKind where
  | none | preempt | migrate | swap | yield | join
  deriving DecidableEq, Repr

/-- A child of a team (19 R433, R438). -/
structure Child where
  handle : W64
  team : Nat
  retired : Bool := false
  merged : Bool := false
  joined : Bool := false
  conflicts : Nat := 0
  deriving DecidableEq, Repr

/-- An operation issued to a core's array and not retired (12 R288): its team and word, the formats, mode and offset read at
issue, the ring slots it reads and how many of them it pops, its array cost, the steps already performed on a V-core (12
R300), and what its discard restores (12 R312): the record, latch and recorded phase before its issue; the cycle it was issued in
(R290), whether it is the post of an `mloop`, which holds no place in the queue (R309), and whether the barrier of its post was
invalidated since its issue (R307). -/
structure MOp where
  team : Nat
  instr : Instr
  info : IssueInfo := {}
  fmtA : Nat := 0
  fmtB : Nat := 0
  mode : Nat := 0
  offset : Nat := 0
  slotsA : List Nat := []
  slotsB : List Nat := []
  popA : Nat := 0
  popB : Nat := 0
  cost : Nat := 0
  step : Nat := 0
  runBefore : Option RecRun := none
  latchBefore : Option (BitVec 5 × BitVec 5) := none
  waitBefore : Option (Nat × Option BarRec) := none
  issued : Nat := 0
  marker : Bool := false
  postGone : Bool := false
  deriving DecidableEq, Repr

/-- A team (03 R64, R71): identity, placement, and its whole context. -/
structure Team where
  inst : Nat := 0
  copy : Nat := 0
  linear : Nat := 0
  tx : Nat := 0
  ty : Nat := 0
  tz : Nat := 0
  status : TeamStatus := .retired
  sent : SignalKind := .none
  signal : SignalKind := .none
  target : Nat := 0
  share : Nat := 0
  launchRec : LoopRec := {}
  launchIdx : Nat := 0
  fallback : Bool := false
  core : Nat := 0
  bank : Nat := 0
  firstCore : Nat := 0
  firstCluster : Nat := 0
  parent : Option Nat := none
  depth : Nat := 0
  rev : Nat := 0
  children : List Child := []
  forkCount : Nat := 0
  buildCount : Nat := 0
  lastConflicts : Nat := 0
  c : List W64 := []
  lc : List W32 := []
  fpSeed : W32 := 0
  fpFlush : Bool := false
  fpMode : BitVec 3 := 0
  genC : W32 := 1
  tpl : List (Option W128) := []
  tplBlock : Nat := 0
  ft : List (Option (BitVec 5)) := []
  rings : List (Option Ring) := []
  dq : List (List DefEntry) := []
  dqScalars : List (List W64) := []
  drain : List DefBatch := []
  latch : Option (BitVec 5 × BitVec 5) := none
  scratch : List Byte := []
  full : List Bool := []
  tiles : List (List W32) := []
  pins : List W64 := []
  tile : Option (Nat × Nat) := none
  frame : TrapFrame := {}
  handler : Option Handler := none
  held : List Raise := []
  instHeld : List Raise := []
  craise : List Raise := []
  resumeAt : Nat := 0
  barRecs : List BarRec := []
  ctrl : CtrlState := {}
  groups : List Group := []
  mctx : CtxState := {}
  mops : List MOp := []
  mEnded : Bool := false
  deriving DecidableEq, Repr

/-! ## Instances -/

/-- States of an instance (02 R53). -/
inductive InstState where
  | ready | running | suspended | retiring | done | failed | held
  deriving DecidableEq, Repr

/-- The share of a cluster (03 R72): the cluster, the next and last position of its own progression (one past the
last), and unplaced teams transferred to it (R78). -/
structure Share where
  cluster : Nat
  next : Nat := 0
  stop : Nat := 0
  extra : List Nat := []
  deriving DecidableEq, Repr

/-- A job instance (02 R50 to R61). -/
structure Inst where
  job : Nat := 0
  id : W32 := 0
  number : Nat := 0
  card : Card := {}
  image : Image := {}
  roles : List Role := []
  release : Nat := 0
  deadline : Nat := 0
  st : InstState := .ready
  readyAt : List Nat := []
  shares : List Share := []
  reported : Nat := 0
  overBudget : Bool := false
  stamp : Option Nat := none
  missed : Bool := false
  rung : Nat := 0
  decl : Option (Nat × Nat) := none
  pendingCause : Option Raise := none
  heldCause : Option Raise := none
  fallbackTeam : Option Nat := none
  posted : Bool := false
  signalled : Bool := false
  discarded : Bool := false
  sampled : Option Nat := none
  entryRec : LoopRec := {}
  handlerRec : LoopRec := {}
  fallbackRec : LoopRec := {}
  reconDone : Bool := false
  error : Option W32 := none
  compared : Bool := false
  tie : Bool := false
  handlerCauses : List Raise := []
  revs : List Nat := []
  retired : Nat := 0
  deriving DecidableEq, Repr

/-- A job table slot of Bandstand (01 R17, 02 R45, R46): the accepted card, its image, and the releases made. -/
structure JobSlot where
  accepted : Bool := false
  withdrawing : Option (Nat × Nat) := none
  card : Card := {}
  image : Image := {}
  roles : List Role := []
  entryRec : LoopRec := {}
  handlerRec : LoopRec := {}
  fallbackRec : LoopRec := {}
  nextN : Nat := 0
  acceptances : Nat := 0
  ctlRung : Nat := 0
  rungs : List (Nat × Nat) := []
  lastRung : Nat := 0
  lastErr : W32 := 0
  lastInst : W16 := 0
  lastMove : Nat := 0
  limit : Bool := false
  deriving DecidableEq, Repr

/-- A submission result (02 R43). -/
structure SubResult where
  seq : Nat
  code : Nat
  op : Nat
  job : Nat
  deriving DecidableEq, Repr

/-- A submission page (02 R43, R44): unread results oldest first, results in preparation, numbered writes, overflow, and
SUBMIT writes that have reached the lodge behind a submit that is being checked. -/
structure SubPage where
  results : List SubResult := []
  prep : List SubResult := []
  queue : List Nat := []
  seq : Nat := 0
  overflow : Bool := false
  deriving DecidableEq, Repr

/-! ## Cores and clusters -/

/-- A named barrier of a core (09 R218). -/
structure Barrier where
  count : Nat
  arrived : Nat := 0
  phase : W16 := 0
  owner : Nat
  deriving DecidableEq, Repr

/-- What a cluster charges an instance and has not reported (02 R58): cycles charged, core cycles since the last report, and
whether a team of the instance has left the cluster's cores since. -/
structure Charge where
  inst : Nat
  cycles : Nat := 0
  age : Nat := 0
  left : Bool := false
  deriving DecidableEq, Repr

/-- A ready-table entry (02 R62). -/
structure ReadyEntry where
  inst : Nat
  copy : Nat := 0
  tag : W32
  value : W64
  deriving DecidableEq, Repr

/-! ## Copy channels (14 R339 to R355) -/

/-- States of a copy channel (14 R339). -/
inductive ChanState where
  | idle | linked | running | waiting | paused | faulted | error
  deriving DecidableEq, Repr

/-- The fields of a copy command (14 R343), with its address. -/
structure CopyCmd where
  addr : Nat := 0
  src : Nat := 0
  dst : Nat := 0
  ctl : Nat := 0
  shape : Nat := 0
  pitch : Nat := 0
  deriving DecidableEq, Repr

/-- A copy channel of a core: state, the state a pause interrupted, next command address, pending chain, owning team,
command in progress with its finished rows and bytes of the current row, the lines written since its acquire, its
reserved ring slot, whether its writes are made, its watch window with the team that armed it, the window it is held on
(14 R339, R350 to R353), and whether its team has ended (21 R476). -/
structure Chan where
  st : ChanState := .idle
  before : ChanState := .idle
  fetch : Nat := 0
  next : Option Nat := none
  owner : Option Nat := none
  cmd : Option CopyCmd := none
  row : Nat := 0
  pos : Nat := 0
  acquired : Bool := false
  lines : List Nat := []
  ringSlot : Option Nat := none
  written : Bool := false
  wmTeam : Nat := 0
  wmBase : Nat := 0
  wmLen : Nat := 0
  wmDone : Nat := 0
  armed : Bool := false
  heldOn : Option (Nat × Nat) := none
  withdrawn : Bool := false
  ending : Bool := false
  deriving DecidableEq, Repr

/-- An ingress channel's registers, the frames it has accepted, and the window of its latest frame (14 R356, R357). -/
structure Ingress where
  src : W32 := 0
  buf : W64 := 0
  len : W32 := 0
  cnt : W64 := 0
  rel : W32 := 0
  frames : Nat := 0
  drops : W16 := 0
  winBase : Nat := 0
  winLen : Nat := 0
  deriving DecidableEq, Repr

/-! ## Trellis (17) -/

/-- A resident generation (17 R394, R409): its number, nodes, leaves, refits and base SAH. -/
structure Generation where
  num : Nat
  leaves : Nat
  refits : Nat := 0
  baseSah : W32 := 0
  deriving DecidableEq, Repr

/-- A draft (17 R395, R397); `copied` is the generation a refit copied the topology of. -/
structure Draft where
  num : Nat
  leaves : Nat
  copied : Option Nat := none
  refits : Nat := 0
  baseSah : W32 := 0
  deriving DecidableEq, Repr

/-- A pin of a team on a generation; `dropping` once it has been dropped and still serves `trace` words (17 R405, R406). -/
structure GenPin where
  num : Nat
  team : Nat
  dropping : Bool := false
  deriving DecidableEq, Repr

/-- A generation-table entry (17 R393): the fields read at registration, the current generation (0 none), draft, resident
generations and pins, and whether a build with RETIRE waits for the last pin. -/
structure GenEntry where
  pid : Nat
  desc : Nat
  kind : Nat
  arena : Nat
  slotNodes : Nat
  slots : Nat
  origin : List W32
  cell : W32
  cur : Nat := 0
  draft : Option Draft := none
  gens : List Generation := []
  pins : List GenPin := []
  retire : Bool := false
  deriving DecidableEq, Repr

/-- A builder command in submission order (17 R396): its function, team, partition, core and address; once started its fields
and whether it waits for a slot (R398); `value` and `fail` are the outcome a `bvh.publish` or `bvh.quality` takes. -/
structure BuildCmd where
  id : Nat
  fn : Nat
  team : Nat
  pid : Nat
  core : Nat
  addr : Nat
  desc : Nat := 0
  ctl : Nat := 0
  handle : W64 := 0
  report : Nat := 0
  started : Bool := false
  waiting : Bool := false
  finished : Bool := false
  value : W64 := 0
  fail : Option Cause := none
  sector : Nat := 0
  key : List Nat := []
  deriving DecidableEq, Repr

/-! ## Memory controllers and regulators (15), homes (13 R334 to R337) -/

/-- A request at a controller (15 R360 to R362, 21 R469): its regulator and address, the team or the ingress port it is made for, whether
it takes the row its bank has open, and whether its charge counts in the next window. -/
structure HeldReq where
  reg : Nat
  pa : Nat
  team : Option Nat := none
  port : Option Nat := none
  rowOpen : Bool := false
  later : Bool := false
  deriving DecidableEq, Repr

/-- A line of a pavilion die's L2 (13 R319): its place, the physical address of the line, and the valid and dirty bits of its four
sectors. The bytes are those of the home (R320: way reservation never changes a value). -/
structure L2Line where
  die : Nat
  set : Nat
  way : Nat
  line : Nat
  valid : BitVec 4 := 0
  dirty : BitVec 4 := 0
  deriving DecidableEq, Repr

/-- A memory controller (15 R361, R364, R365): charges of the window by regulator, charges counted in the next (21 R469), held requests,
requests queued on their banks, rows with a non-zero activation counter (bank, row, count), queued alerts (bank, row), activations of
each bank since its last refresh-management command, the local time until which a bank is busy with one, the bank and rows of the latest
one, and block counters of remote requesters (block, requester, count; 13 R335). -/
structure MemCtl where
  charges : List Nat := []
  carry : List Nat := []
  held : List HeldReq := []
  queue : List HeldReq := []
  acts : List (Nat × Nat × Nat) := []
  alerts : List (Nat × Nat) := []
  sinceRfm : List Nat := []
  busy : List (Nat × Nat) := []
  refreshed : Option (Nat × List Nat) := none
  open_ : List (Option Nat) := []
  blocks : List (Nat × Nat × Nat) := []
  deriving DecidableEq, Repr

/-- A regulator's registers and the budget of the current window (15 R361 to R363). -/
structure Regulator where
  extra : W32 := 0
  raises : Bool := true
  enable : Bool := true
  holds : W32 := 0
  peak : W32 := 0
  budget : Nat := 0
  held : Bool := false
  deriving DecidableEq, Repr

/-- A page whose home or move count is not the default (13 R334, R337). -/
structure MovedPage where
  page : Nat
  home : Nat
  moves : Nat := 0
  deriving DecidableEq, Repr

/-- A forwarding entry (03 R82): the team, the core it left, the time it resumed once it has, and whether it has counted an
extension. -/
structure Forward where
  team : Nat
  core : Nat
  dest : Nat
  resumed : Option Nat := none
  extended : Bool := false
  deriving DecidableEq, Repr

/-! ## Supervision (21) -/

/-- What Belvedere keeps of a unit's heartbeats (21 R479): last sequence number, beats missed in a row, declared failed. -/
structure Heart where
  unit : UnitId
  seq : Option Nat := none
  missed : Nat := 0
  failed : Bool := false
  deriving DecidableEq, Repr

/-- An MSI-X table entry: address, data, vector control (22 R488). The mask bit is set at reset (log 5: PRESUMED). -/
structure MsixEntry where
  lo : W32 := 0
  hi : W32 := 0
  data : W32 := 0
  ctl : W32 := 1
  deriving DecidableEq, Repr

/-- A register write that a core, an application core or the host has made and the lodge has not performed: offset from
0x00F0_0000_0000, data, and its width in bytes (00 R13, 22 R491). -/
structure RegWrite where
  off : Nat
  data : W64
  bytes : Nat := 8
  deriving DecidableEq, Repr

/-- A word a core's instruction cache holds (05 R113): the revision it was read for, its physical address, the word. -/
structure CodeWord where
  rev : Nat
  pa : Nat
  word : W32
  deriving DecidableEq, Repr

/-- A core (03 R67, R68): its active bank, barriers, array queue, cycles without an issued word (13 R333), the team whose record it has
pulled with the copies of that team's tiles (03 R85), the team its M pipe served last (07 R154), the channel its copy unit served last (14 R339), its copy channels, and its instruction cache (05 R113), newest word first. -/
structure Core where
  active : Nat := 0
  switching : Bool := false
  barriers : List (Option Barrier) := []
  mops : List MOp := []
  idle : Nat := 0
  pulled : Option Nat := none
  copies : List (Nat × List W32) := []
  lastM : Nat := 0
  lastChan : Nat := 7
  chans : List Chan := []
  icache : List CodeWord := []
  deriving DecidableEq, Repr

/-- A cluster (03 R1, R76; 21 R483). -/
structure Cluster where
  ready : List ReadyEntry := []
  quarantined : Bool := false
  bistPassed : Bool := false
  marginPs : W16 := 0
  voffMv : W16 := 0
  fmaxMhz : BitVec 12 := 1800
  limit : Bool := false
  thermalStop : Bool := false
  emptying : Bool := false
  clockMhz : Nat := 1500
  charge : List Charge := []
  rasters : List Raster := []
  sampled : List Nat := []
  deriving DecidableEq, Repr

/-- A partition's registers and services (03 R74, 13 R321 to R331, 19 R436, 20 R457, 21 R477, R482). -/
structure Part where
  clusters : BitVec 28 := 0
  waysP0 : W16 := 0
  waysP1 : W16 := 0
  regs : W64 := 0
  valid : Bool := false
  lock : Bool := false
  errBusy : Bool := false
  errOverlap : Bool := false
  privCount : BitVec 12 := 0
  privBase : BitVec 36 := 0
  wpage : Nat := 0
  privUsed : List Nat := []
  ptRoot : BitVec 33 := 0
  fltBase : BitVec 37 := 0
  fltVec : BitVec 10 := 0
  fltEnable : Bool := false
  fltNext : Nat := 0
  revCfg : W64 := 0
  revFree : Nat := 0
  revFailed : W16 := 0
  escPolicy : W32 := 0
  evtBase : BitVec 36 := 0
  evtEnable : Bool := false
  evtOrder : BitVec 4 := 0
  evtNext : W32 := 0
  evtDropped : W16 := 0
  swapState : Nat := 0
  savedReady : List (Nat × ReadyEntry) := []
  deriving DecidableEq, Repr

/-- What a fault record is posted for: a context, a copy channel (14 R354), a vision unit's work for a team (16 R391),
or a builder command (17 R407). -/
inductive FaultBy where
  | ctx
  | chan (core ch : Nat)
  | raster (cluster : Nat)
  | smp (team group q slot : Nat)
  | trace (team group id : Nat)
  | builder (id : Nat)
  deriving DecidableEq, Repr

/-- Who waits on a watch window (14 R352): a unit, or a word at its issue. -/
inductive Holder where
  | unit (u : FaultBy)
  | word (c : Ctx)
  deriving DecidableEq, Repr

/-- A request held on the window of a channel; `withdrawn` once the window has ended under it (14 R352). -/
structure Hold where
  who : Holder
  chan : Nat × Nat
  withdrawn : Bool := false
  deriving DecidableEq, Repr

/-- A fault of the partition's fault service (13 R330, R331): what is parked, for whom, what for, and its tag once posted. -/
structure Pending where
  part : Nat
  who : FaultBy := .ctx
  ctx : Ctx
  raise : Raise
  tag : W32 := 0
  posted : Bool := false
  deriving DecidableEq, Repr

/-- A region of a child's region list (19 R432): base, bytes, merge type. -/
structure RevRegion where
  base : Nat
  bytes : Nat
  type : Nat
  deriving DecidableEq, Repr

/-- A 128-byte line held by Arbor (19 R435), and whether its store line has become uncorrectable (20 R450). -/
structure RevLine where
  va : Nat
  bytes : List Byte
  bad : Bool := false
  deriving DecidableEq, Repr

/-- A revision (19 R434, R435; 20 R465): its number, the revision it was forked from, partition and instance, its regions
(none listed and `whole` set: the whole address space but the private pool), child copies and ancestor lines, the
store lines it reserves. -/
structure Revision where
  id : Nat
  parent : Nat
  pid : Nat
  inst : Nat
  whole : Bool := false
  regions : List RevRegion := []
  copies : List RevLine := []
  ancestors : List RevLine := []
  reserved : Nat := 0
  report : Nat := 0
  reportMax : Nat := 0
  deriving DecidableEq, Repr

/-- A registered line of the promotion table: line address and owner core (18 R428). -/
structure Promo where
  line : Nat
  core : Nat
  deriving DecidableEq, Repr

/-- The lodge's and Belvedere's registers and units: job table registers (01 R16), time distribution (02 R47 to R49),
forwarding entries (03 R82), reconstruction units by die (04 R107), COV_SEL and BVH_SEL, the generation table and builder
commands (17), TLB_INV (13 R329), hotness and migration registers (13 R334, R337), the regulators and controllers (15), RH_CTL
and RH_STAT, PART_SWAP.PID, HB_CTL and heartbeats (21), W2_BASE, DEV_STAT, PWR_CTL, measurements and boot (22), the MSI-X
table and pending bits (22 R488), ingress channels (14 R356), and register writes not performed yet. -/
structure Lodge where
  jobBase : BitVec 36 := 0
  jobLock : Bool := false
  jobCount : BitVec 13 := 0
  ptpLocked : Bool := false
  ptpHoldover : Bool := false
  ptpStep : Bool := false
  ptpMax : W16 := 0
  ptpBack : Nat := 0
  ptpFwd : Nat := 0
  ltuBad : List UnitId := []
  ltuReports : List (UnitId × Nat) := []
  migFwdExt : W32 := 0
  forwards : List Forward := []
  covSel : BitVec 13 := 0
  recon : List (Option Nat) := []
  bvhSel : Byte := 0
  gens : List (Option GenEntry) := []
  builds : List BuildCmd := []
  holds : List Hold := []
  tlbInv : List W64 := []
  tlbErr : Bool := false
  migLimit : Byte := 4
  migWindow : W32 := 0
  hotCtl : W64 := 0
  hotNext : Nat := 0
  shadowBase : W64 := 0
  migWinStart : Nat := 0
  moved : List MovedPage := []
  moves : List (Nat × Nat × Bool) := []
  migReq : W64 := 0
  regWindow : W32 := 100000
  regWinLen : Nat := 100000
  regWinStart : Nat := 0
  regs : List Regulator := []
  ctls : List MemCtl := []
  l2 : List L2Line := []
  rhThresh : W16 := 1024
  rhNeigh : BitVec 2 := 2
  rhStat : W64 := 0
  swapPid : BitVec 4 := 0
  hbMiss : Byte := 3
  hbPeriod : W16 := 100
  hearts : List Heart := []
  detects : List (Nat × Nat) := []
  w2Base : W64 := 0
  devVec : BitVec 11 := 0
  therm : Bool := false
  powerOver : Bool := false
  bootFail : Bool := false
  fatal : Bool := false
  overMs : Nat := 0
  capWatts : BitVec 9 := 120
  meas : List (BitVec 384) := []
  bootStep : Nat := 0
  halted : Bool := false
  msix : List MsixEntry := []
  msixPend : List Nat := []
  ingress : List Ingress := []
  regQueue : List RegWrite := []
  deriving DecidableEq, Repr

/-- What the package sends to Belvedere (20 R454, R458, R463; 21 R481, R482; 22 R490, R492). -/
inductive BelvMsg where
  | uncorrectable (cause : Cause) (sector : Nat) (core : Nat) (consumer : Option (Nat × W32))
  | mismatch (core record expected computed : Nat)
  | eventAborted (part : Nat)
  | cardRead (job : Nat)
  | escalate (cause : Cause) (job : Nat) (inst : W32)
  | postFault (job : Nat)
  | linkDown (peer : Nat)
  | hostDown
  | offset (unit : UnitId)
  | outvoted (cluster : Nat)
  | voted (clusters : List Nat)
  | quarantineFull (chan : Nat)
  | refusedWrite (pa : Nat) (val : Byte)
  deriving DecidableEq, Repr

/-- Messages the device sends out (13 R331, 22 R487, R494): MSI-X vectors, application-core interrupts, fault interrupts. -/
inductive OutMsg where
  | msix (vector : Nat)
  | irq (source : Nat)
  | fault (part : Nat)
  | status
  | hotness (block requester count : Nat) (pinned : Bool)
  deriving DecidableEq, Repr

/-- Why a step stops. -/
inductive Fault where
  /-- Raised by the meaning of a stream word executed in a state whose issuing context `State.cur` is no context that can
  issue (no such team, idle, parked or stopped). `step` never does it: it offers a word only to a context that can issue.
  Safe: the device has no such execution. -/
  | noContext
  deriving DecidableEq, Repr

/-- Refusals. -/
inductive Refusal where
  /-- An instruction whose meaning is not written yet, by its mnemonic. Safe. -/
  | notModelled (mnemonic : String)
  deriving DecidableEq, Repr

/-- The device. -/
structure State where
  agenda : List Turn := []
  tick : Nat := 0
  cur : Ctx := .c 0
  iw : IssueInfo := {}
  ev : EvArgs := {}
  readData : W64 := 0
  nextId : Nat := 1
  now : Nat := 0
  cycle : Nat := 0
  mem : Memory := {}
  l1 : List L1Byte := []
  tlb : List TlbEntry := []
  walks : List WalkEntry := []
  bad : List BadSector := []
  quar : List Nat := []
  badStore : List (Nat × Nat × Store) := []
  promo : List Promo := []
  recalled : List Promo := []
  revs : List Revision := []
  preMcost : Nat := 512
  preIter : Nat := 1536
  pkg : BitVec 2 := 0
  hostMode : Bool := false
  links : List (Nat × Nat) := []
  pcieUp : Bool := false
  hostMem : Memory := {}
  hostAborts : List (Nat × Cause) := []
  belv : List BelvMsg := []
  out : List OutMsg := []
  accums : List FloatAcc := []
  jobs : List JobSlot := []
  pages : List SubPage := []
  insts : List Inst := []
  teams : List Team := []
  cores : List Core := []
  clusters : List Cluster := []
  parts : List Part := []
  pending : List Pending := []
  fltTag : W32 := 0
  samp : List SampByte := []
  lodge : Lodge := {}
  deriving DecidableEq, Repr

/-- The device right after device reset: nothing accepted, no team, every register at the reset value its map gives (the
defaults of the structures above), memory with nothing listed. Values the spec gives no reset for are those of log 4. -/
def State.reset : State := {}

end Sys2Proof.Machine
end

