-- ==== Sys2Proof/Machine/Basic.lean ====
section
/-!
DEFINITION. The basic operations over the state: lookups, contexts, memory cells, the register file of each stream,
special values, counts and signatures.
-/
namespace Sys2Proof

/-! ## Contexts -/

def Ctx.team : Ctx → Nat
  | .c t => t
  | .a t _ => t
  | .x t _ => t
  | .m t => t

def Ctx.group : Ctx → Nat
  | .a _ g => g
  | .x _ g => g
  | _ => 0

def Ctx.stream : Ctx → Stream
  | .c _ => .c
  | .a _ _ => .a
  | .x _ _ => .x
  | .m _ => .m

/-- The STREAM code of the trap frame (20 R448). -/
def streamCode : Stream → Nat
  | .c => 0
  | .a => 1
  | .x => 2
  | .m => 3

/-- The GROUP field of the trap frame for a context (20 R448). -/
def Ctx.frameGroup : Ctx → Nat
  | .a _ g => g
  | .x _ g => g
  | .m _ => 0
  | .c _ => 0xFF

end Sys2Proof

namespace Sys2Proof.Machine

abbrev Outcome := Host.Outcome State Fault Refusal

/-! ## Lookups (total: a missing entry is the default) -/

def State.team (s : State) (t : Nat) : Team := s.teams.getD t {}
def State.setTeam (s : State) (t : Nat) (x : Team) : State := { s with teams := setAt {} s.teams t x }
def State.modTeam (s : State) (t : Nat) (f : Team → Team) : State := s.setTeam t (f (s.team t))
def Team.group (t : Team) (g : Nat) : Group := t.groups.getD g {}
def Team.setGroup (t : Team) (g : Nat) (x : Group) : Team := { t with groups := setAt {} t.groups g x }
def Team.modGroup (t : Team) (g : Nat) (f : Group → Group) : Team := t.setGroup g (f (t.group g))
def State.group (s : State) (t g : Nat) : Group := (s.team t).group g
def State.modGroup (s : State) (t g : Nat) (f : Group → Group) : State := s.modTeam t (·.modGroup g f)
def State.core (s : State) (c : Nat) : Core := s.cores.getD c {}
def State.modCore (s : State) (c : Nat) (f : Core → Core) : State := { s with cores := setAt {} s.cores c (f (s.core c)) }
def State.cluster (s : State) (k : Nat) : Cluster := s.clusters.getD k {}
def State.modCluster (s : State) (k : Nat) (f : Cluster → Cluster) : State :=
  { s with clusters := setAt {} s.clusters k (f (s.cluster k)) }
def State.part (s : State) (p : Nat) : Part := s.parts.getD p {}
def State.modPart (s : State) (p : Nat) (f : Part → Part) : State := { s with parts := setAt {} s.parts p (f (s.part p)) }
def State.inst (s : State) (i : Nat) : Inst := s.insts.getD i {}
def State.modInst (s : State) (i : Nat) (f : Inst → Inst) : State := { s with insts := setAt {} s.insts i (f (s.inst i)) }
def State.job (s : State) (j : Nat) : JobSlot := s.jobs.getD j {}
def State.modJob (s : State) (j : Nat) (f : JobSlot → JobSlot) : State := { s with jobs := setAt {} s.jobs j (f (s.job j)) }
def Team.queue (g : Group) (q : Nat) : Que := g.queues.getD q {}

/-- A cluster's cores are four (R2). -/
def clusterOf (core : Nat) : Nat := core / 4

/-- Whether a cluster is an M-cluster (00 R1). -/
def isMCluster (k : Nat) : Bool := k ≤ 5 || (14 ≤ k && k ≤ 19)

/-- The pavilion die of a cluster (00 R1). -/
def dieOf (k : Nat) : Nat := if k ≤ 13 then 0 else 1

/-- The execution state of an A, X or M context. -/
def State.ctxState (s : State) : Ctx → CtxState
  | .a t g => (s.group t g).actx
  | .x t g => (s.group t g).xctx
  | .m t => (s.team t).mctx
  | .c _ => {}

def State.modCtx (s : State) (c : Ctx) (f : CtxState → CtxState) : State :=
  match c with
  | .a t g => s.modGroup t g fun x => { x with actx := f x.actx }
  | .x t g => s.modGroup t g fun x => { x with xctx := f x.xctx }
  | .m t => s.modTeam t fun x => { x with mctx := f x.mctx }
  | .c _ => s

def State.modRun (s : State) (c : Ctx) (f : RecRun → RecRun) : State :=
  s.modCtx c fun x => { x with run := x.run.map f }

def State.modCtrl (s : State) (t : Nat) (f : CtrlState → CtrlState) : State :=
  s.modTeam t fun x => { x with ctrl := f x.ctrl }

/-- Whether a record state is one in which words issue (02 R54, 07 R151). -/
def RunState.issues : RunState → Bool
  | .prologue => true
  | .kernel => true
  | .epilogue => true
  | _ => false

/-- Whether a record is finished or absent: RETIRED or ABORTED (09 R208). -/
def CtxState.idle (c : CtxState) : Bool :=
  match c.run with
  | none => true
  | some r => r.st == .retired || r.st == .aborted

/-- Whether no record of a context is under way or it is RETIRED, PARKED or ABORTED (05 R126, 09 R205). -/
def CtxState.quiet (c : CtxState) : Bool :=
  match c.run with
  | none => true
  | some r => r.st == .retired || r.st == .aborted || r.st == .parked

/-- Whether a team is in the active bank of its core and may issue (03 R67, 21 R468). -/
def State.teamIssues (s : State) (t : Nat) : Bool :=
  (s.team t).status == .running && (s.core (s.team t).core).active == (s.team t).bank &&
    !(s.core (s.team t).core).switching && !(s.cluster (clusterOf (s.team t).core)).thermalStop

/-- Whether the C stream of a team takes an instance-level cause before the team issues any other word (02 R502). -/
def State.dueFirst (s : State) (t : Nat) : Bool := (s.team t).ctrl.due && !(s.team t).ctrl.parked

/-- Whether a group is parked on a fault: the fault of its A or its X context parks both (13 R332). A cause taken by HANDLER stops the
trapping context alone (20 R455; log 88). -/
def Group.parked (g : Group) : Bool := g.actx.parked || g.xctx.parked

/-- Whether a context can be offered an issue cycle (07 R151). -/
def State.canIssue (s : State) (c : Ctx) : Bool :=
  s.teamIssues c.team &&
  match c with
  | .c t =>
    let k := (s.team t).ctrl
    !k.parked && !k.ended && !k.atCheckpoint
  | .m t => !(s.team t).mEnded && !s.dueFirst t && runs (s.ctxState c)
  | c => !s.dueFirst c.team && !(s.group c.team c.group).parked && runs (s.ctxState c)
where runs (x : CtxState) : Bool :=
  !x.parked && !x.stopped && (!x.resume.isEmpty || match x.run with
    | some r => r.st.issues
    | none => false)

/-! ## Memory cells -/

/-- The byte at an address. -/
def cellsRead (cs : List Host.Cell) (a : Nat) : Byte :=
  match cs with
  | [] => Memory.unlisted
  | c :: cs => if c.1 = a then c.2 else cellsRead cs a

/-- Write a byte keeping the canonical form: rising addresses, no entry equal to the unlisted value. -/
def cellsWrite (cs : List Host.Cell) (a : Nat) (v : Byte) : List Host.Cell :=
  match cs with
  | [] => if v = Memory.unlisted then [] else [(a, v)]
  | c :: cs =>
    if a < c.1 then (if v = Memory.unlisted then c :: cs else (a, v) :: c :: cs)
    else if c.1 = a then (if v = Memory.unlisted then cs else (a, v) :: cs)
    else c :: cellsWrite cs a v

def Memory.read (m : Memory) (a : Nat) : Byte := cellsRead m.cells a
def Memory.write (m : Memory) (a : Nat) (v : Byte) : Memory := { cells := cellsWrite m.cells a v }

/-- Addresses strictly rising, no entry equal to what an unlisted address reads as. -/
def cellsWf : List Host.Cell → Bool
  | [] => true
  | [c] => c.2 != Memory.unlisted
  | c :: d :: cs => c.2 != Memory.unlisted && decide (c.1 < d.1) && cellsWf (d :: cs)

/-- The canonical form of a memory. -/
def Memory.wf (m : Memory) : Bool := cellsWf m.cells

/-- `n` bytes from an address, lowest first. -/
def Memory.bytes (m : Memory) (a n : Nat) : List Byte := (List.range n).map fun k => m.read (a + k)

/-- `n` bytes little-endian as a number (00 R9). -/
def Memory.readN (m : Memory) (a n : Nat) : Nat := natOfBytes (m.bytes a n)

/-- Write a list of bytes from an address. -/
def Memory.writeBytes (m : Memory) (a : Nat) : List Byte → Memory
  | [] => m
  | b :: bs => (m.write a b).writeBytes (a + 1) bs

/-- Write `n` bytes of a number little-endian. -/
def Memory.writeN (m : Memory) (a n x : Nat) : Memory := m.writeBytes a (bytesOfNat n x)

/-! ## Scalar registers -/

/-- c0 reads zero (05 R119). -/
def Team.cReg (t : Team) (n : BitVec 6) : W64 := if n = 0 then 0 else t.c.getD n.toNat 0

/-- A write to c0 is ignored (05 R119). -/
def Team.setC (t : Team) (n : BitVec 6) (v : W64) : Team := if n = 0 then t else { t with c := setAt 0 t.c n.toNat v }

def Team.lcReg (t : Team) (n : Nat) : W32 := t.lc.getD n 0

/-- A loop register, or group, s or g register by index. -/
def Group.gReg (g : Group) (n : Nat) : W64 := if n = 0 then 0 else g.g.getD n 0
def Group.sReg (g : Group) (n : Nat) : W64 := if n = 0 then 0 else g.s.getD n 0

/-- p0 reads all ones and ignores writes (05 R132, R123). -/
def Group.pReg (g : Group) (n : Nat) : W32 := if n = 0 then 0xFFFFFFFF#32 else g.p.getD n 0
def Group.setP (g : Group) (n : Nat) (v : W32) : Group := if n = 0 then g else { g with p := setAt 0 g.p n v }

/-- The rung in force of a team's instance, zero outside a coverage launch (05 R121); a fallback team is none (04 R109). -/
def State.rungOf (s : State) (t : Nat) : Nat :=
  let i := s.inst (s.team t).inst
  if bitsOf i.card.flags 3 1 = 1 ∧ !(s.team t).fallback then i.rung else 0

/-- The special values 40 to 51 (05 R121); `group` is none for the C stream. A redundant copy reads zero for 46 and 47
(20 R465). -/
def State.special (s : State) (t : Nat) (group : Option Nat) (n : Nat) : W64 :=
  let tm := s.team t
  let redundant := bitsOf (s.inst tm.inst).card.flags 7 1 = 1
  match n with
  | 40 => 32
  | 41 => BitVec.ofNat 64 (group.getD 0xFF)
  | 42 => BitVec.ofNat 64 tm.tx
  | 43 => BitVec.ofNat 64 tm.ty
  | 44 => BitVec.ofNat 64 tm.tz
  | 45 => match group with
    | some g => BitVec.ofNat 64 (tm.group g).role
    | none => 0xFF
  | 46 => if redundant then 0 else BitVec.ofNat 64 tm.firstCore
  | 47 => if redundant then 0 else BitVec.ofNat 64 tm.firstCluster
  | 48 => BitVec.ofNat 64 (s.now % 2 ^ 32)
  | 49 => (s.inst tm.inst).id.setWidth 64
  | 50 => tm.pins.getLastD 0
  | 51 => BitVec.ofNat 64 (s.rungOf t)
  | _ => 0

/-- The scalar a 6-bit source field names in an A or X word (05 R120). -/
def State.fieldA (s : State) (t g n : Nat) : W64 :=
  if n < 32 then (s.group t g).gReg n
  else if n < 40 then ((s.team t).lcReg (n - 32)).setWidth 64
  else s.special t (some g) n
def State.fieldX (s : State) (t g n : Nat) : W64 :=
  if n < 32 then (s.group t g).sReg n
  else if n < 40 then ((s.team t).lcReg (n - 32)).setWidth 64
  else s.special t (some g) n

/-- The 64-bit value a source register field names in a direct word of the issuing context (05 R119, R120). -/
def State.readReg (s : State) (n : BitVec 6) : W64 :=
  match s.cur with
  | .c t => (s.team t).cReg n
  | .a t g => s.fieldA t g n.toNat
  | .x t g => s.fieldX t g n.toNat
  | .m _ => 0

def Group.setG (g : Group) (n : Nat) (v : W64) : Group := if n = 0 then g else { g with g := setAt 0 g.g n v }
def Group.setS (g : Group) (n : Nat) (v : W64) : Group := if n = 0 then g else { g with s := setAt 0 g.s n v }

/-- Write a destination register of a direct word of the issuing context: register 0 discards, and in A and X the fields
above 31 name no destination (05 R119, R120). -/
def State.writeReg (s : State) (n : BitVec 6) (v : W64) : State :=
  match s.cur with
  | .c t => s.modTeam t (·.setC n v)
  | .a t g => if n.toNat < 32 then s.modGroup t g (·.setG n.toNat v) else s
  | .x t g => if n.toNat < 32 then s.modGroup t g (·.setS n.toNat v) else s
  | .m _ => s

/-- Whether a source register of a direct word carries a taint: an s register of the X stream (18 R429). -/
def State.regTaint (s : State) (n : BitVec 6) : Bool :=
  match s.cur with
  | .x t g => decide (n.toNat < 32) && (s.group t g).sTaint.getLsbD n.toNat
  | _ => false

/-- Set or clear the taint of an s register. -/
def Group.setSTaint (g : Group) (n : Nat) (b : Bool) : Group :=
  if n = 0 ∨ 32 ≤ n then g
  else { g with sTaint := if b then g.sTaint ||| (1#32 <<< n) else g.sTaint &&& ~~~(1#32 <<< n) }

/-- Write a destination register with the union of its sources' taints (18 R429). -/
def State.writeFrom (s : State) (n : BitVec 6) (srcs : List (BitVec 6)) (v : W64) : State :=
  match s.cur with
  | .x t g => (s.writeReg n v).modGroup t g (·.setSTaint n.toNat (srcs.any s.regTaint))
  | _ => s.writeReg n v

/-- The generator of the issuing context (08 R179): its group's, or generator 16 of the C stream. -/
def State.genOf (s : State) (c : Ctx) : W32 :=
  match c with
  | .a t g => (s.group t g).gen
  | .x t g => (s.group t g).gen
  | _ => (s.team c.team).genC

def State.setGen (s : State) (c : Ctx) (v : W32) : State :=
  match c with
  | .a t g => s.modGroup t g fun x => { x with gen := v }
  | .x t g => s.modGroup t g fun x => { x with gen := v }
  | _ => s.modTeam c.team fun x => { x with genC := v }

/-! ## The interleave (15 R359) -/

/-- XOR of the nine 3-bit slices of q. -/
def slices (q : Nat) : Nat := (List.range 9).foldl (fun x k => x ^^^ bitsOf q (3 * k) 3) 0

/-- Channel of an address less the package memory base. -/
def channelOf (a : Nat) : Nat := (a / 256 % 24 + 3 * slices (a / 256 / 24)) % 24

/-- Channel offset: column [10:0], bank [14:11], row [32:15]. -/
def channelOffset (a : Nat) : Nat := a / 256 / 24 * 256 + a % 256

/-- The pavilion die whose L2 is home to an address (13 R319). -/
def homeDie (pa : Nat) : Nat := channelOf (pa % 2 ^ 38) / 12

/-! ## Counts and signatures (07 R162) -/

/-- Fold one 32-bit unit into a signature. -/
def sigFold (sig u : W32) : W32 := ((sig <<< 5) ||| (sig >>> 27)) ^^^ u

/-- Fold the words issued: one unit each, two for a matrix word. -/
def sigWords (matrix : Bool) (sig : W32) (ws : List W64) : W32 :=
  ws.foldl (fun (sg : W32) (w : W64) => if matrix then sigFold (sigFold sg (w.setWidth 32)) ((w >>> 32).setWidth 32)
    else sigFold sg (w.setWidth 32)) sig

end Sys2Proof.Machine
end

