-- ==== Sys2Proof/Machine/Registers.lean ====
section
/-!
DEFINITION. The registers of windows W1 and W0 (22 R491): what a read returns, with its side effects, and what a write does to
the fields of registers whose write has no row of its own, by the access codes of 00 R13.
-/
namespace Sys2Proof.Machine

/-- A number placed at a bit. -/
def at_ (x lo : Nat) : Nat := x * 2 ^ lo
def flag (b : Bool) (lo : Nat) : Nat := if b then 2 ^ lo else 0

def State.page (s : State) (p : Nat) : SubPage := s.pages.getD p {}
def State.reg (s : State) (n : Nat) : Regulator := s.lodge.regs.getD n {}
def State.modReg (s : State) (n : Nat) (f : Regulator → Regulator) : State :=
  { s with lodge.regs := setAt {} s.lodge.regs n (f (s.reg n)) }
def State.ctl (s : State) (n : Nat) : MemCtl := s.lodge.ctls.getD n {}
def State.modCtl (s : State) (n : Nat) (f : MemCtl → MemCtl) : State :=
  { s with lodge.ctls := setAt {} s.lodge.ctls n (f (s.ctl n)) }
def State.ing (s : State) (n : Nat) : Ingress := s.lodge.ingress.getD n {}
def State.modIng (s : State) (n : Nat) (f : Ingress → Ingress) : State :=
  { s with lodge.ingress := setAt {} s.lodge.ingress n (f (s.ing n)) }
def Core.chan (c : Core) (n : Nat) : Chan := c.chans.getD n {}
def State.modChan (s : State) (core ch : Nat) (f : Chan → Chan) : State :=
  s.modCore core fun c => { c with chans := setAt {} c.chans ch (f (c.chan ch)) }
def State.msixEntry (s : State) (v : Nat) : MsixEntry := s.lodge.msix.getD v {}
def State.gen (s : State) (n : Nat) : Option GenEntry := s.lodge.gens.getD n none

/-- Regulator 63 is never limited (15 R360, R363). -/
def State.regEnabled (s : State) (n : Nat) : Bool := n != 63 && (s.reg n).enable

/-- A result as RESULT returns it (02 R43). -/
def SubResult.word (r : SubResult) : Nat :=
  2 ^ 63 + at_ (r.seq % 2 ^ 16) 32 + at_ (r.code % 256) 24 + at_ (r.op % 4) 16 + r.job % 2 ^ 13

/-! ## Reads -/

/-- The 8 bytes at an 8-byte aligned offset of a submission page (02 R43). -/
def SubPage.read (p : SubPage) (o : Nat) : Nat :=
  if o = 0x008 then (match p.results with
    | [] => 0
    | r :: _ => r.word)
  else if o = 0x010 then flag p.overflow 8 + p.results.length % 32
  else 0

/-- The 8 bytes at `o` of a partition's block (03 R74, 13 R321). -/
def Part.blockRead (p : Part) (o : Nat) : Nat :=
  if o = 0 then p.clusters.toNat + at_ p.waysP0.toNat 32 + at_ p.waysP1.toNat 48
  else if o = 8 then p.regs.toNat
  else if o = 16 then flag p.errBusy 3 + flag p.errOverlap 2 + flag p.lock 1 + flag p.valid 0
  else at_ p.privCount.toNat 52 + at_ p.privBase.toNat 15 + p.wpage

/-- The rung in force for instance `n` (04 R96). -/
def JobSlot.rungFor (j : JobSlot) (n : Nat) : Nat :=
  ((j.rungs.filter fun r => decide (r.1 + 2 ≤ n)).foldl (fun (best : Option (Nat × Nat)) r =>
    match best with
    | none => some r
    | some b => if b.1 < r.1 then some r else some b) none).elim (bitsOf j.card.ladder 0 4) (·.2)

/-- COV_STATE of the selected job (04 R110). -/
def State.covState (s : State) : Nat :=
  let n := s.lodge.covSel.toNat
  let j := s.job n
  if s.lodge.jobCount.toNat ≤ n then 0
  else at_ j.lastErr.toNat 32 + at_ j.lastInst.toNat 16 + at_ (j.rungFor j.nextN % 16) 8 + at_ (j.lastRung % 16) 4 + flag j.limit 3 +
    at_ (j.lastMove % 4) 1 + flag (j.accepted && bitsOf j.card.flags 3 1 == 1) 0

/-- BVH_STATE of the selected entry (17 R410). -/
def State.bvhState (s : State) : Nat :=
  match s.gen s.lodge.bvhSel.toNat with
  | none => 0
  | some e =>
    let pins := (e.pins.filter (·.num == e.cur)).length
    let waits := s.lodge.builds.any fun b => b.waiting && b.pid == e.pid && b.desc == e.desc
    at_ e.cur 45 + at_ e.pid 41 + at_ (e.gens.length % 128) 34 + at_ (if 4095 < pins then 4095 else pins) 22 +
      flag waits 2 + flag e.draft.isSome 1 + 1

def ChanState.code : ChanState → Nat
  | .idle => 0
  | .linked => 1
  | .running => 2
  | .waiting => 3
  | .paused => 4
  | .faulted => 5
  | .error => 6

/-- CPY_CH_STATE and CPY_CH_WM (14 R355). -/
def Chan.stateWord (c : Chan) : Nat := at_ (bitsOf c.fetch 5 46) 5 + flag c.next.isSome 3 + c.st.code
def Chan.wmWord (c : Chan) : Nat := at_ (c.wmDone % 2 ^ 32) 32 + at_ (bitsOf c.wmLen 7 25) 7 + flag c.armed 0

/-- DEV_STAT (22 R494). -/
def State.devStat (s : State) : Nat :=
  at_ s.lodge.devVec.toNat 16 + at_ s.pkg.toNat 8 +
  ((List.range 4).map fun k => flag (s.links.any (·.1 == k)) (4 + k)).sum +
  flag s.lodge.therm 3 + flag s.lodge.powerOver 2 + flag s.lodge.bootFail 1 + flag s.lodge.fatal 0

/-- Ingress channel registers (14 R356). -/
def Ingress.read (g : Ingress) (o : Nat) : Nat :=
  if o = 0x00 then g.src.toNat
  else if o = 0x08 then g.buf.toNat
  else if o = 0x10 then g.len.toNat
  else if o = 0x18 then g.cnt.toNat
  else if o = 0x20 then g.rel.toNat
  else if o = 0x28 then at_ (g.frames % 2 ^ 32) 32 + at_ g.drops.toNat 16
  else 0

/-- Children of a partition (19 R436). -/
def State.liveChildren (s : State) (p : Nat) : Nat := (s.revs.filter fun r => r.pid == p && !r.whole).length

/-- The 8 bytes at an 8-byte aligned offset of W0. Write-only fields, reserved bits and other offsets read zero (R11, R13). -/
def State.w0Read (s : State) (o : Nat) : Nat :=
  let l := s.lodge
  if o = 0x0000 then at_ l.jobBase.toNat 12 + flag l.jobLock 0
  else if o = 0x0008 then l.jobCount.toNat
  else if o = 0x0010 then at_ l.ptpMax.toNat 16 + flag l.ptpStep 3 + flag (l.ptpBack != 0) 2 + flag l.ptpHoldover 1 + flag l.ptpLocked 0
  else if o = 0x0018 then l.migFwdExt.toNat
  else if 0x0400 ≤ o ∧ o < 0x0600 then (s.part ((o - 0x0400) / 32)).blockRead (o % 32)
  else if o = 0x0600 then ((List.range 28).map fun k => flag (s.cluster k).quarantined k).sum
  else if o = 0x0700 then (if l.jobCount.toNat ≤ l.covSel.toNat then 0 else l.covSel.toNat)
  else if o = 0x0708 then s.covState
  else if o = 0x0720 then l.bvhSel.toNat
  else if o = 0x0728 then s.bvhState
  else if 0x0800 ≤ o ∧ o < 0x0880 then at_ (s.part ((o - 0x0800) / 8)).ptRoot.toNat 15
  else if 0x0880 ≤ o ∧ o < 0x0900 then
    let p := s.part ((o - 0x0880) / 8)
    at_ p.fltBase.toNat 11 + at_ p.fltVec.toNat 1 + flag p.fltEnable 0
  else if o = 0x0988 then flag l.tlbErr 1 + flag (!l.tlbInv.isEmpty) 0
  else if o = 0x0A00 then l.migLimit.toNat + at_ l.migWindow.toNat 32
  else if o = 0x0A08 then l.hotCtl.toNat
  else if o = 0x0A10 then l.shadowBase.toNat
  else if 0x0A80 ≤ o ∧ o < 0x0B00 then (s.part ((o - 0x0A80) / 8)).revCfg.toNat
  else if o = 0x0B00 then l.regWindow.toNat
  else if o = 0x0B08 then at_ l.rhNeigh.toNat 16 + l.rhThresh.toNat
  else if o = 0x0B10 then l.rhStat.toNat
  else if o = 0x0B40 then at_ s.preMcost 16 + s.preIter
  else if o = 0x0B48 then at_ (s.part l.swapPid.toNat).swapState 32 + at_ l.swapPid.toNat 4
  else if o = 0x0B50 then at_ l.hbMiss.toNat 16 + l.hbPeriod.toNat
  else if 0x0B60 ≤ o ∧ o < 0x0BE0 then (s.part ((o - 0x0B60) / 8)).escPolicy.toNat
  else if 0x0C00 ≤ o ∧ o < 0x0E00 then
    let n := (o - 0x0C00) / 8
    at_ (s.reg n).extra.toNat 32 + flag (s.reg n).raises 1 + flag (s.regEnabled n) 0
  else if 0x0E00 ≤ o ∧ o < 0x1000 then
    let r := s.reg ((o - 0x0E00) / 8)
    at_ r.holds.toNat 32 + r.peak.toNat
  else if 0x1000 ≤ o ∧ o < 0x1080 then
    let p := (o - 0x1000) / 8
    at_ ((s.part p).revFree % 2 ^ 32) 32 + at_ (s.liveChildren p % 2 ^ 16) 16 + (s.part p).revFailed.toNat
  else if 0x1100 ≤ o ∧ o < 0x1200 then
    let p := s.part ((o - 0x1100) / 16)
    if o % 16 = 0 then at_ p.evtBase.toNat 12 + flag p.evtEnable 4 + p.evtOrder.toNat
    else at_ p.evtNext.toNat 32 + p.evtDropped.toNat
  else if 0x1200 ≤ o ∧ o < 0x12E0 then
    let k := s.cluster ((o - 0x1200) / 8)
    at_ k.marginPs.toNat 32 + at_ (k.voffMv.toNat % 2 ^ 12) 20 + at_ k.fmaxMhz.toNat 8 + flag k.limit 0
  else if o = 0x1300 then l.w2Base.toNat
  else if o = 0x1308 then s.devStat
  else if o = 0x1310 then l.migReq.toNat + flag (!l.moves.isEmpty) 3
  else if o = 0x1318 then l.capWatts.toNat
  else if 0x1340 ≤ o ∧ o < 0x1400 then
    bitsOf (l.meas.getD ((o - 0x1340) / 48) 0).toNat (((o - 0x1340) % 48) * 8) 64
  else if 0x1800 ≤ o ∧ o < 0x1900 then
    ((List.range 64).map fun b => flag (l.msixPend.contains ((o - 0x1800) * 8 + b)) b).sum
  else if 0x4000 ≤ o ∧ o < 0x7800 then
    let c := (s.core ((o - 0x4000) / 128)).chan ((o % 128) / 16)
    if o % 16 = 0 then c.stateWord else c.wmWord
  else if 0x7800 ≤ o ∧ o < 0x8000 then (s.ing ((o - 0x7800) / 64)).read (o % 64)
  else if 0x8000 ≤ o ∧ o < 0x10000 then
    let e := s.msixEntry ((o - 0x8000) / 16)
    if o % 16 = 0 then e.lo.toNat + at_ e.hi.toNat 32 else e.data.toNat + at_ e.ctl.toNat 32
  else 0

/-- What a read of an aligned 8-byte unit removes or clears: RESULT (02 R43), PTP_STATUS (R49), MIG_FWD_EXT (03 R82). A read of
either half of a unit counts as a read of it (log 81). -/
def State.readEffect (s : State) (off : Nat) : State :=
  if off < 0x10000 then
    if off % 4096 = 8 then
      let p := s.page (off / 4096)
      { s with pages := setAt {} s.pages (off / 4096) { p with results := p.results.drop 1 } }
    else s
  else if off = 0x10010 then { s with lodge.ptpMax := 0 }
  else if off = 0x10018 then { s with lodge.migFwdExt := 0 }
  else s

/-- The 8 bytes at an aligned offset from 0x00F0_0000_0000: W1, then W0 (22 R491). -/
def State.windowValue (s : State) (off : Nat) : W64 :=
  BitVec.ofNat 64 (if off < 0x10000 then (s.page (off / 4096)).read (off % 4096) else s.w0Read (off - 0x10000))

/-- Read 8 bytes of the windows at an aligned offset, with the read's side effects. -/
def windowRead (s : State) (off : Nat) : W64 × State := (s.windowValue off, s.readEffect off)

/-! ## Plain writes

`d` holds the written bits and `m` the mask of written bits of an aligned 8-byte unit: a 4-byte write leaves the other half
of `m` clear. RW fields take `(old and not m) or d`; W1C and WO fields act on `d`. -/

/-- The register value a write of RW fields leaves. -/
def merged (old : Nat) (d m : W64) : Nat := ((BitVec.ofNat 64 old &&& ~~~m) ||| (d &&& m)).toNat

/-- Whether a write touches any bit of a field. -/
def touches (m : W64) (lo n : Nat) : Bool := bitsOf m.toNat lo n != 0

/-- Submission page registers with no row of their own: SUB_STATUS (02 R43). -/
def State.w1Write (s : State) (off : Nat) (d : W64) : State :=
  if off % 4096 = 0x010 ∧ bitsOf d.toNat 8 1 = 1 then
    let p := s.page (off / 4096)
    { s with pages := setAt {} s.pages (off / 4096) { p with overflow := false } }
  else s

/-- A partition's block, but for PART_CTL.VALID and LOCK, which have rows of their own (03 R74, 13 R321). -/
def Part.blockWrite (p : Part) (o : Nat) (d m : W64) : Part :=
  let v := merged (p.blockRead o) d m
  if o = 16 then
    { p with errBusy := p.errBusy && bitsOf d.toNat 3 1 == 0, errOverlap := p.errOverlap && bitsOf d.toNat 2 1 == 0 }
  else if p.valid || p.lock then p
  else if o = 0 then { p with clusters := BitVec.ofNat 28 v, waysP0 := BitVec.ofNat 16 (v / 2 ^ 32), waysP1 := BitVec.ofNat 16 (v / 2 ^ 48) }
  else if o = 8 then { p with regs := BitVec.ofNat 64 v }
  else if bitsOf v 0 9 ≤ 256 then
    { p with privCount := BitVec.ofNat 12 (v / 2 ^ 52), privBase := BitVec.ofNat 36 (v / 2 ^ 15), wpage := bitsOf v 0 9 }
  else p

/-- A two-bit ESC_POLICY field: a write of 3 leaves it unchanged (21 R482). -/
def escField (old v k : Nat) : Nat := at_ (if bitsOf v (2 * k) 2 = 3 then bitsOf old (2 * k) 2 else bitsOf v (2 * k) 2) (2 * k)

/-- The fields of EVT_BASE (20 R457): all but ENABLE only while ENABLE is 0; an ORDER of 11 to 15 is ignored. -/
def Part.evtBaseWrite (p : Part) (d m : W64) : Part :=
  let v := merged (at_ p.evtBase.toNat 12 + flag p.evtEnable 4 + p.evtOrder.toNat) d m
  let p' := if p.evtEnable then p
    else { p with evtBase := BitVec.ofNat 36 (v / 2 ^ 12),
                  evtOrder := if bitsOf v 0 4 ≤ 10 then BitVec.ofNat 4 v else p.evtOrder }
  { p' with evtEnable := bitsOf v 4 1 == 1 }

/-- An ingress channel's registers (14 R356). ENABLE is settable while the partition ING_SRC names is valid, REGULATOR is a member of its
set (`parts` gives both), COUNT is at least 2 and BYTES at least 256 (log 91). -/
def Ingress.write (g : Ingress) (o : Nat) (d m : W64) (parts : Nat → Part) : Ingress :=
  let v := merged (g.read o) d m
  let enabled := g.src.getLsbD 31
  if o = 0x00 then
    let fields := if enabled then g.src.toNat % 2 ^ 28 else v % 2 ^ 28
    let port := bitsOf fields 0 6
    let ok := decide (port ≤ 11) || (decide (16 ≤ port) && decide (port ≤ 19))
    let p := parts (bitsOf fields 6 4)
    let canEnable := ok && p.valid && p.regs.getLsbD (bitsOf g.buf.toNat 58 6) && decide (2 ≤ bitsOf g.buf.toNat 48 10) &&
      decide (256 ≤ g.len.toNat)
    if bitsOf v 31 1 = 1 ∧ !enabled ∧ !ok then g
    else { g with src := BitVec.ofNat 32 (fields + flag (bitsOf v 31 1 == 1 && (enabled || canEnable)) 31) }
  else if o = 0x20 then { g with rel := BitVec.ofNat 32 v }
  else if o = 0x28 then (if bitsOf d.toNat 16 16 = 0xFFFF then { g with drops := 0 } else g)
  else if enabled then g
  else if o = 0x08 then { g with buf := BitVec.ofNat 64 (v / 128 * 128) }
  else if o = 0x10 then { g with len := BitVec.ofNat 32 (v % 2 ^ 32 / 128 * 128) }
  else if o = 0x18 then { g with cnt := BitVec.ofNat 64 (bitsOf v 3 45 * 8) }
  else g

/-- REG_WINDOW: a multiple of 1,000 from 10,000 to 10,000,000; the new length applies later (15 R363). -/
def regWindowOk (v : Nat) : Bool := v % 1000 == 0 && decide (10000 ≤ v) && decide (v ≤ 10000000)

/-- A write of an aligned 8-byte unit of W0 whose registers have no row of their own. -/
def State.w0Write (s : State) (o : Nat) (d m : W64) : State :=
  let l := s.lodge
  let v := merged (s.w0Read o) d m
  if o = 0x0000 then (if l.jobLock then s else { s with lodge.jobBase := BitVec.ofNat 36 (v / 2 ^ 12) })
  else if o = 0x0008 then
    (if l.jobLock || decide (4096 < bitsOf v 0 13) then s else { s with lodge.jobCount := BitVec.ofNat 13 v })
  else if o = 0x0010 then (if bitsOf d.toNat 3 1 = 1 then { s with lodge.ptpStep := false } else s)
  else if 0x0400 ≤ o ∧ o < 0x0600 then s.modPart ((o - 0x0400) / 32) fun p => p.blockWrite (o % 32) d m
  else if o = 0x0700 then { s with lodge.covSel := BitVec.ofNat 13 v }
  else if o = 0x0708 then
    (if bitsOf d.toNat 3 1 = 1 ∧ l.covSel.toNat < l.jobCount.toNat then s.modJob l.covSel.toNat fun j => { j with limit := false }
     else s)
  else if o = 0x0720 then { s with lodge.bvhSel := BitVec.ofNat 8 v }
  else if 0x0800 ≤ o ∧ o < 0x0880 then
    s.modPart ((o - 0x0800) / 8) fun p => if p.valid || p.lock then p else { p with ptRoot := BitVec.ofNat 33 (v / 2 ^ 15) }
  else if 0x0880 ≤ o ∧ o < 0x0900 then
    s.modPart ((o - 0x0880) / 8) fun p =>
      { p with fltBase := BitVec.ofNat 37 (v / 2 ^ 11), fltVec := BitVec.ofNat 10 (v / 2), fltEnable := bitsOf v 0 1 == 1 }
  else if o = 0x0988 then (if bitsOf d.toNat 1 1 = 1 then { s with lodge.tlbErr := false } else s)
  else if o = 0x0A00 then { s with lodge.migLimit := BitVec.ofNat 8 v, lodge.migWindow := BitVec.ofNat 32 (v / 2 ^ 32) }
  else if o = 0x0A08 then
    let dropped := bitsOf l.hotCtl.toNat 2 1 == 1 && bitsOf d.toNat 2 1 == 0
    { s with lodge.hotCtl := BitVec.ofNat 64 (at_ (bitsOf v 48 16) 48 + at_ (bitsOf v 11 37) 11 + flag dropped 2 + bitsOf v 0 2) }
  else if o = 0x0A10 then { s with lodge.shadowBase := BitVec.ofNat 64 (at_ (bitsOf v 12 36) 12) }
  else if 0x0A80 ≤ o ∧ o < 0x0B00 then
    s.modPart ((o - 0x0A80) / 8) fun p =>
      if p.valid || p.lock then p
      else { p with revCfg := BitVec.ofNat 64 (at_ (bitsOf v 52 12) 52 + at_ (bitsOf v 12 36) 12 + bitsOf v 0 1) }
  else if o = 0x0B00 then
    (if regWindowOk (v % 2 ^ 32) then { s with lodge.regWindow := BitVec.ofNat 32 v } else s)
  else if o = 0x0B08 then
    if l.jobLock then s
    else
      let n := bitsOf v 16 2
      { s with lodge.rhNeigh := if n = 1 ∨ n = 2 then BitVec.ofNat 2 n else l.rhNeigh,
               lodge.rhThresh := if bitsOf v 0 16 < 64 then l.rhThresh else BitVec.ofNat 16 v }
  else if o = 0x0B40 then
    if l.jobLock then s
    else
      { s with preMcost := if 64 ≤ bitsOf v 16 11 ∧ bitsOf v 16 11 ≤ 1024 then bitsOf v 16 11 else s.preMcost,
               preIter := if 64 ≤ bitsOf v 0 16 ∧ bitsOf v 0 16 ≤ 1920 then bitsOf v 0 16 else s.preIter }
  else if o = 0x0B48 then { s with lodge.swapPid := BitVec.ofNat 4 (v / 16) }
  else if 0x0B60 ≤ o ∧ o < 0x0BE0 then
    s.modPart ((o - 0x0B60) / 8) fun p =>
      if p.lock then p
      else
        let old := p.escPolicy.toNat
        { p with escPolicy := BitVec.ofNat 32 (escField old v 0 + escField old v 1 + escField old v 2 + escField old v 3) }
  else if 0x0C00 ≤ o ∧ o < 0x0E00 then
    s.modReg ((o - 0x0C00) / 8) fun r =>
      { r with extra := BitVec.ofNat 32 (v / 2 ^ 32), raises := bitsOf v 1 1 == 1, enable := bitsOf v 0 1 == 1 }
  else if 0x0E00 ≤ o ∧ o < 0x1000 then
    s.modReg ((o - 0x0E00) / 8) fun r =>
      { r with holds := if bitsOf d.toNat 32 32 = 0xFFFFFFFF then 0 else r.holds,
               peak := if bitsOf d.toNat 0 32 = 0xFFFFFFFF then 0 else r.peak }
  else if 0x1000 ≤ o ∧ o < 0x1080 then
    (if bitsOf d.toNat 0 16 = 0xFFFF then s.modPart ((o - 0x1000) / 8) fun p => { p with revFailed := 0 } else s)
  else if 0x1100 ≤ o ∧ o < 0x1200 then
    s.modPart ((o - 0x1100) / 16) fun p =>
      if o % 16 = 0 then p.evtBaseWrite d m
      else if bitsOf d.toNat 0 16 = 0xFFFF then { p with evtDropped := 0 } else p
  else if o = 0x1300 then
    (if l.w2Base.getLsbD 0 then s
     else { s with lodge.w2Base := BitVec.ofNat 64 (at_ (bitsOf v 30 18) 30 + bitsOf v 0 1) })
  else if o = 0x1308 then
    { s with lodge.devVec := BitVec.ofNat 11 (v / 2 ^ 16), lodge.therm := l.therm && bitsOf d.toNat 3 1 == 0,
             lodge.powerOver := l.powerOver && bitsOf d.toNat 2 1 == 0 }
  else if o = 0x1310 then
    let keep := bitsOf l.migReq.toNat 4 2
    let clr := keep - (keep &&& bitsOf d.toNat 4 2)
    let fields := if !l.moves.isEmpty then l.migReq.toNat else v
    { s with lodge.migReq := BitVec.ofNat 64 (at_ (bitsOf fields 15 33) 15 + at_ clr 4 + at_ (bitsOf fields 1 2) 1) }
  else if o = 0x1318 then
    (if 120 ≤ bitsOf v 0 9 ∧ bitsOf v 0 9 ≤ 300 then { s with lodge.capWatts := BitVec.ofNat 9 v } else s)
  else if 0x7800 ≤ o ∧ o < 0x8000 then
    s.modIng ((o - 0x7800) / 64) fun g => g.write (o % 64) d m s.part
  else if 0x8000 ≤ o ∧ o < 0x10000 then
    let k := (o - 0x8000) / 16
    let e := s.msixEntry k
    let e' : MsixEntry := if o % 16 = 0 then { e with lo := BitVec.ofNat 32 v, hi := BitVec.ofNat 32 (v / 2 ^ 32) }
      else { e with data := BitVec.ofNat 32 v, ctl := BitVec.ofNat 32 (v / 2 ^ 32) }
    { s with lodge.msix := setAt {} l.msix k e' }
  else s

end Sys2Proof.Machine
end

