-- ==== Sys2Proof/Machine/Memory.lean ====
section
/-!
DEFINITION. Memory as the agents reach it: the physical map (22 R491), revisions (19 R434, R435), the L1 data caches and
their scope actions (13 R317, R318; 18 R417, R428), page tables and cached translations (13 R324 to R329).
-/
namespace Sys2Proof.Machine

/-- Why an access fails, with what the trap frame records (11 R272, 20 R448). -/
structure MErr where
  cause : Cause
  vaddr : Nat := 0
  sector : Nat := 0
  serviceable : Bool := false
  kind : AccessKind := .read
  hold : Option (Nat × Nat) := none
  deriving DecidableEq, Repr

/-! ## The physical map (22 R491) -/

inductive PhysTarget where
  | mem
  | window (off : Nat)
  | bus (addr : Nat)
  | none
  deriving DecidableEq, Repr

/-- Whether a package's memory can be reached: the device's own, or a peer with a link up. -/
def State.packageUp (s : State) (n : Nat) : Bool := n == s.pkg.toNat || s.links.any (·.2 == n)

/-- Home package of a page. -/
def State.pageHome (s : State) (page : Nat) : Nat :=
  ((s.lodge.moved.find? (·.page == page)).map (·.home)).getD (page * 2 ^ 15 / 2 ^ 38)

/-- The target of a physical address: memory is served by the package that is home to the page (13 R334, R337). -/
def State.physTarget (s : State) (pa : Nat) : PhysTarget :=
  if 2 ^ 47 ≤ pa then (if pa < 2 ^ 48 then .bus (pa - 2 ^ 47) else .none)
  else if 0x00F000000000 ≤ pa ∧ pa < 0x00F000020000 then .window (pa - 0x00F000000000)
  else if pa / 2 ^ 38 < 4 ∧ pa % 2 ^ 38 < 192 * 2 ^ 30 ∧ s.packageUp (s.pageHome (pa / 2 ^ 15)) then .mem
  else .none

def lineOf (a : Nat) : Nat := a / 128 * 128
def sectorOf (a : Nat) : Nat := a / 32 * 32

/-- The cause a home read of an address ends with, if it fails: no target 0x380 (22 R491), the host port (22 R490), a
quarantined line or an uncorrectable sector (20 R450, R452). -/
def State.homeFail (s : State) (pa : Nat) : Option Cause :=
  match s.physTarget pa with
  | .none => some 0x380
  | .window _ => none
  | .bus a =>
    if !s.pcieUp then some 0x380
    else (s.hostAborts.find? (fun x => x.1 == a)).map (·.2)
  | .mem =>
    if s.quar.contains (lineOf pa) then some 0x140
    else (s.bad.find? (fun b => b.pa == sectorOf pa && b.cause != 0x142)).map (·.cause)

/-- A byte of the base revision: memory as addressed. -/
def State.baseByte (s : State) (pa : Nat) : Byte :=
  match s.physTarget pa with
  | .mem => s.mem.read pa
  | .bus a => s.hostMem.read a
  | .window off => ((windowRead s (off / 8 * 8)).1 >>> (off % 8 * 8)).setWidth 8
  | .none => 0

/-- Write a byte of the base revision. The windows are written by the register rows, not byte by byte. A byte that would merge with the
unreadable bytes of a quarantined line is refused and reported to Belvedere (15 R367). -/
def State.baseWrite (s : State) (pa : Nat) (v : Byte) : State :=
  match s.physTarget pa with
  | .mem =>
    if s.quar.contains (lineOf pa) then { s with belv := s.belv ++ [.refusedWrite pa v] } else { s with mem := s.mem.write pa v }
  | .bus a => if s.pcieUp then { s with hostMem := s.hostMem.write a v } else s
  | _ => s

/-! ## Revisions (19 R434, R435) -/

/-- Whether a virtual address lies in the private pool of a partition (13 R321). -/
def State.inPool (s : State) (pid va : Nat) : Bool :=
  let p := s.part pid
  let base := p.privBase.toNat * 2 ^ 15
  decide (base ≤ va) && decide (va < base + p.privCount.toNat * p.wpage * 32768)

def State.findRev (s : State) (r : Nat) : Option Revision := s.revs.find? (·.id == r)

/-- Whether a revision holds its own view of a virtual address. -/
def State.revCovers (s : State) (rv : Revision) (va : Nat) : Bool :=
  if rv.whole then !s.inPool rv.pid va
  else rv.regions.any fun g => decide (g.base ≤ va) && decide (va < g.base + g.bytes)

def lineByte (ls : List RevLine) (va : Nat) : Option Byte :=
  (ls.find? (·.va == lineOf va)).map fun l => l.bytes.getD (va % 128) 0

/-- The byte a revision reads (R435); `n` bounds the nesting of forks (R433: depth at most 4, and a redundant copy). -/
def State.revByte (s : State) : Nat → Nat → Nat → Nat → Byte
  | 0, _, _, pa => s.baseByte pa
  | n + 1, r, va, pa =>
    match s.findRev r with
    | none => s.baseByte pa
    | some rv =>
      if s.revCovers rv va then
        match lineByte rv.copies va with
        | some b => b
        | none => match lineByte rv.ancestors va with
          | some b => b
          | none => s.revByte n rv.parent va pa
      else s.revByte n rv.parent va pa

/-- Nesting bound of revisions. -/
def revDepth : Nat := 7

/-- The byte at home of an address for a revision. -/
def State.homeByte (s : State) (rev va pa : Nat) : Byte := s.revByte revDepth rev va pa

/-- The cause a read of a revision's byte ends with, if it fails: of the line the revision reads (R435). -/
def State.revFail (s : State) : Nat → Nat → Nat → Nat → Option Cause
  | 0, _, _, pa => s.homeFail pa
  | n + 1, r, va, pa =>
    match s.findRev r with
    | none => s.homeFail pa
    | some rv =>
      if s.revCovers rv va then
        match rv.copies.find? (·.va == lineOf va), rv.ancestors.find? (·.va == lineOf va) with
        | some l, _ => if l.bad then some 0x141 else none
        | none, some l => if l.bad then some 0x141 else none
        | none, none => s.revFail n rv.parent va pa
      else s.revFail n rv.parent va pa

def State.failAt (s : State) (rev va pa : Nat) : Option Cause := s.revFail revDepth rev va pa

/-- The whole 128-byte line of a revision. -/
def State.homeLine (s : State) (rev va pa : Nat) : List Byte :=
  (List.range 128).map fun k => s.homeByte rev (lineOf va + k) (lineOf pa + k)

/-- The redundancy store is exhausted (20 R465): 0x188 in the copy whose line could not be kept, at its lowest live team. -/
def State.exhaust (s : State) (rv : Revision) : State :=
  match s.teams.findIdx? fun t => t.rev == rv.id && t.status != .retired && t.status != .stopped with
  | none => s
  | some n => s.modTeam n fun t => { t with craise := if t.craise.any (·.cause == 0x188) then t.craise else t.craise ++ [{ cause := 0x188 }] }

/-- Whether a line can be kept for a revision: a child's lines are reserved at its fork (19 R437), those of a redundant copy are
taken from FREE_LINES as they are needed (20 R465). -/
def State.lineFree (s : State) (rv : Revision) : Bool := !rv.whole || (s.part rv.pid).revFree != 0

/-- A line is kept for a revision. -/
def State.keepLine (s : State) (rv : Revision) (f : Revision → Revision) : State :=
  let s := { s with revs := s.revs.map fun x => if x.id == rv.id then f x else x }
  if rv.whole then s.modPart rv.pid fun p => { p with revFree := p.revFree - 1 } else s

/-- The revision an address of a revision lies in: outside a child's regions it is the forking task's (19 R434). -/
def State.revAt (s : State) : Nat → Nat → Nat → Nat
  | 0, r, _ => r
  | n + 1, r, va => match s.findRev r with
    | none => 0
    | some rv => if s.revCovers rv va then r else s.revAt n rv.parent va

/-- Ancestor retention (R435): every live revision of the partition that shares the line with `rev` and has no ancestor line of it keeps a
copy of its content before the write. A revision shares a line of its regions with the revision its parent reads there. -/
def State.retain (s : State) (pid rev va pa : Nat) : State :=
  let line : RevLine := { va := lineOf va, bytes := s.homeLine rev va pa }
  (s.revs.filter fun rv => rv.pid == pid && rv.id != rev && s.revAt revDepth rv.parent va == rev && s.revCovers rv va &&
      (lineByte rv.ancestors va).isNone).foldl
    (fun (s : State) rv => if s.lineFree rv then s.keepLine rv fun x => { x with ancestors := line :: x.ancestors }
      else s.exhaust rv) s

/-- A line of a list with one byte replaced. -/
def setLineByte (ls : List RevLine) (va : Nat) (v : Byte) : List RevLine :=
  ls.map fun l => if l.va == lineOf va then { l with bytes := setAt 0 l.bytes (va % 128) v } else l

/-- A write made for a revision of a partition (R435): child copy on the first write to a shared line of its regions; outside them it
is a write of the parent's revision. -/
def State.revWrite (s : State) (pid : Nat) : Nat → Nat → Nat → Nat → Byte → State
  | 0, _, _, pa, v => s.baseWrite pa v
  | n + 1, r, va, pa, v =>
    let s := s.retain pid r va pa
    match s.findRev r with
    | none => s.baseWrite pa v
    | some rv =>
      if s.revCovers rv va then
        if (lineByte rv.copies va).isSome then
          { s with revs := s.revs.map fun x => if x.id == r then { x with copies := setLineByte x.copies va v } else x }
        else if s.lineFree rv then
          let line : RevLine := { va := lineOf va, bytes := s.homeLine r va pa }
          s.keepLine rv fun x => { x with copies := setLineByte (line :: x.copies) va v }
        else s.exhaust rv
      else s.revWrite pid n rv.parent va pa v

/-- Any access that reaches a word of a revision closes its ordered-add accumulator (11 R283, 19 R434). -/
def State.touchAcc (s : State) (rev va pa n : Nat) : State :=
  if s.accums.isEmpty then s
  else { s with accums := s.accums.filter fun a =>
    !(a.rev == s.revAt revDepth rev va && decide (pa < a.pa + 4) && decide (a.pa < pa + n)) }

/-- A write performed at the home of an address. -/
def State.homeWrite (s : State) (pid rev va pa : Nat) (v : Byte) : State :=
  (s.touchAcc rev va pa 1).revWrite pid revDepth rev va pa v

def State.homeWriteBytes (s : State) (pid rev va pa : Nat) : List Byte → State
  | [] => s
  | b :: bs => (s.homeWrite pid rev va pa b).homeWriteBytes pid rev (va + 1) (pa + 1) bs

def State.homeBytes (s : State) (rev va pa n : Nat) : List Byte :=
  (List.range n).map fun k => s.homeByte rev (va + k) (pa + k)

/-! ## The L1 data caches (13 R317, R318) -/

/-- Who makes an access: the core, the revision, the partition, and whether the bytes are private (13 R318). -/
structure Acc where
  core : Nat
  rev : Nat := 0
  pid : Nat := 0
  priv : Bool := false
  deriving DecidableEq, Repr

def L1Byte.isFor (b : L1Byte) (a : Acc) (pa : Nat) : Bool := b.core == a.core && b.rev == a.rev && b.pa == pa

def State.l1Find (s : State) (a : Acc) (pa : Nat) : Option L1Byte := s.l1.find? (·.isFor a pa)

/-- Fill the bytes of a 32-byte sector that the L1 does not hold from the home (R317). -/
def State.l1Fill (s : State) (a : Acc) (va pa : Nat) : State :=
  let vb := sectorOf va
  let pb := sectorOf pa
  let s := s.touchAcc a.rev vb pb 32
  { s with l1 := (List.range 32).foldl (fun l k =>
      if l.any (·.isFor a (pb + k)) then l
      else { core := a.core, rev := a.rev, pid := a.pid, va := vb + k, pa := pb + k,
             val := s.homeByte a.rev (vb + k) (pb + k), priv := a.priv } :: l) s.l1 }

/-- Whether an L1 read of `n` bytes can be served, and why not: a missing byte must come from the home, and a dirty byte of
a damaged line is consumed (20 R450). -/
def State.l1Fail (s : State) (a : Acc) (va pa n : Nat) : Option MErr :=
  (List.range n).findSome? fun k =>
    match s.l1Find a (pa + k) with
    | some b =>
      if b.dirty && s.bad.any (fun x => x.cause == 0x142 && x.core == a.core && x.pa == sectorOf (pa + k)) then
        some { cause := 0x142, sector := sectorOf (pa + k) }
      else none
    | none => (s.failAt a.rev (va + k) (pa + k)).map fun c =>
        { cause := c, sector := if c.toNat / 64 = 5 then sectorOf (pa + k) else 0 }

/-- Read `n` bytes through the L1, filling the sectors that miss. Register windows are read in place. -/
def State.l1Read (s : State) (a : Acc) (va pa n : Nat) : List Byte × State :=
  match s.physTarget pa with
  | .window off =>
    let r := windowRead s (off / 8 * 8)
    (bytesOfNat n (r.1.toNat / 2 ^ (off % 8 * 8)), r.2)
  | _ =>
    let miss := (List.range n).any fun k => (s.l1Find a (pa + k)).isNone
    let s := if miss then s.l1Fill a va pa else s
    let s := if miss ∧ sectorOf (pa + n - 1) ≠ sectorOf pa then s.l1Fill a (va + n - 1) (pa + n - 1) else s
    ((List.range n).map fun k => match s.l1Find a (pa + k) with
      | some b => b.val
      | none => 0, s)

/-- Write bytes into the L1: valid and dirty, with no fetch (R317). -/
def State.l1Write (s : State) (a : Acc) (va pa : Nat) : List Byte → State
  | [] => s
  | b :: bs =>
    let e : L1Byte := { core := a.core, rev := a.rev, pid := a.pid, va := va, pa := pa, val := b, dirty := true, priv := a.priv }
    ({ s with l1 := e :: s.l1.filter (fun x => !x.isFor a pa) }).l1Write a (va + 1) (pa + 1) bs

/-- Quarantine the line of an address (15 R367); the L2 keeps nothing of it. A controller of a package holds 64 lines; one more is
0x3C8, raised to Belvedere. -/
def State.quarantine (s : State) (pa : Nat) : State :=
  let chan (a : Nat) : Nat := channelOf (a % 2 ^ 38)
  let s : State := { s with lodge.l2 := s.lodge.l2.filter (·.line != lineOf pa) }
  if s.quar.contains (lineOf pa) then s
  else if 64 ≤ (s.quar.filter fun q => s.pageHome (q / 2 ^ 15) == s.pageHome (pa / 2 ^ 15) && chan q == chan pa).length then
    { s with belv := s.belv ++ [.quarantineFull (chan pa)] }
  else { s with quar := lineOf pa :: s.quar }

/-- Write back the dirty bytes of a list of L1 bytes to their homes (R317, R318). Bytes of a damaged dirty sector are not
written, and their home line is quarantined (20 R452). -/
def State.writeBackAll (s : State) : List L1Byte → State
  | [] => s
  | b :: bs =>
    if s.bad.any (fun x => x.cause == 0x142 && x.core == b.core && x.pa == sectorOf b.pa) then
      let m : BelvMsg := .uncorrectable 0x142 (sectorOf b.pa) b.core none
      (({ s with belv := if s.belv.contains m then s.belv else s.belv ++ [m] } : State).quarantine b.pa).writeBackAll bs
    else (s.homeWrite b.pid b.rev b.va b.pa b.val).writeBackAll bs

/-- The release side of a scope at .clu or wider (R318): every dirty shared byte of the core goes home. -/
def State.releaseCore (s : State) (core : Nat) : State :=
  let s' := s.writeBackAll (s.l1.filter fun b => b.core == core && b.dirty && !b.priv)
  { s' with l1 := s'.l1.map fun b => if b.core == core && !b.priv then { b with dirty := false } else b }

/-- The acquire side (R318): every valid shared byte of the core that is not dirty is invalidated. -/
def State.acquireCore (s : State) (core : Nat) : State :=
  { s with l1 := s.l1.filter fun b => !(b.core == core && !b.dirty && !b.priv) }

/-- A core's instruction cache is emptied as a team's words begin to issue on it: a launch and a resume are acquires (03 R71, log 8). -/
def State.dropCode (s : State) (core : Nat) : State := s.modCore core fun c => { c with icache := [] }

/-- Write back the dirty bytes of one line of a core and invalidate it (R318). -/
def State.flushLine (s : State) (core pa : Nat) : State :=
  let mine (b : L1Byte) : Bool := b.core == core && lineOf b.pa == lineOf pa
  let s' := s.writeBackAll (s.l1.filter fun b => mine b && b.dirty)
  { s' with l1 := s'.l1.filter fun b => !mine b }

/-- A wider atomic that reaches a registered line recalls it from its owner core (18 R428). -/
def State.recall (s : State) (core pa : Nat) : State :=
  match s.promo.find? (fun p => p.line == lineOf pa && p.core != core) with
  | none => s
  | some p =>
    let s := (s.releaseCore p.core).acquireCore p.core
    let s := s.flushLine p.core pa
    { s with promo := s.promo.filter (fun q => !(q.line == p.line)), recalled := p :: s.recalled }

/-! ## Translation (13 R324 to R329) -/

/-- Bits of a page-table entry that break R325 at a level. -/
def ptBad (level : Nat) (e : Nat) : Bool :=
  let leaf := bitsOf e 1 1 == 1
  bitsOf e 48 16 != 0 || bitsOf e 5 10 != 0 ||
  (level == 1 && leaf) || (level == 3 && !leaf) ||
  (!leaf && bitsOf e 2 3 != 0) ||
  (level == 2 && leaf && (bitsOf e 4 1 != 0 || bitsOf e 15 12 != 0))

/-- The leaf permission an access kind needs (R326). -/
def permitted (kind : AccessKind) (w x : Bool) : Bool :=
  match kind with
  | .read => true
  | .write => w
  | .atomic => w
  | .fetch => x

/-- Physical address of a table entry. -/
def ptSlot (table level va : Nat) : Nat := table + bitsOf va (39 - 12 * (level - 1)) 12 * 8

/-- The entry of a table slot: the cluster's walk cache holds level-1 and level-2 entries (R328), else memory. -/
def State.tableEntry (s : State) (cluster pid level table slot : Nat) : Nat :=
  match s.walks.find? (fun w => w.cluster == cluster && w.pid == pid && w.level == level && w.table == table && w.index == slot) with
  | some w => w.entry.toNat
  | none => natOfBytes (s.homeBytes 0 slot slot 8)

/-- The three steps of the walker (R326): a leaf with the table entries read on the way, or the cause and the slot it was
found at: 0x102 where the read aborts or finds uncorrectable data. `tables` are the table pages read. -/
def State.walkFrom (s : State) (cluster pid va : Nat) :
    Nat → Nat → Nat → List Nat → List WalkEntry → Sum (Cause × Nat) (TlbEntry × List WalkEntry)
  | 0, _, table, _, _ => .inl (0x108, table)
  | n + 1, level, table, tables, seen =>
    let slot := ptSlot table level va
    let cached := s.walks.any (fun w => w.cluster == cluster && w.pid == pid && w.level == level && w.table == table && w.index == slot)
    if !cached && (s.homeFail slot).isSome then .inl (0x102, slot)
    else
      let e := s.tableEntry cluster pid level table slot
      let tables := table :: tables
      let seen := if level < 3 then
          { cluster := cluster, pid := pid, level := level, index := slot, table := table, entry := BitVec.ofNat 64 e } :: seen
        else seen
      if bitsOf e 0 1 = 0 then .inl (0x100, slot)
      else if ptBad level e then .inl (0x108, slot)
      else if level = 2 ∧ bitsOf e 1 1 = 1 then
        .inr ({ owner := .core 0, pid := pid, va := va / 2 ^ 27 * 2 ^ 27, size := 2 ^ 27, pa := bitsOf e 27 21 * 2 ^ 27,
                w := bitsOf e 2 1 == 1, x := bitsOf e 3 1 == 1, tables := tables }, seen)
      else if level = 3 then .inr (leaf3 s pid va table e tables, seen)
      else s.walkFrom cluster pid va n (level + 1) (bitsOf e 15 33 * 2 ^ 15) tables seen
where
  /-- A level-3 leaf: a 1 MiB translation when its group of 32 entries agrees, else the page (R327). -/
  leaf3 (s : State) (pid va table e : Nat) (tables : List Nat) : TlbEntry :=
    let idx := bitsOf va 15 12
    let g := idx / 32 * 32
    let es := (List.range 32).map fun k => natOfBytes (s.homeBytes 0 (table + (g + k) * 8) (table + (g + k) * 8) 8)
    let e0 := es.getD 0 0
    let ok := bitsOf e 4 1 == 1 && bitsOf e0 15 33 % 32 == 0 &&
      (List.range 32).all fun k =>
        let x := es.getD k 0
        (s.homeFail (table + (g + k) * 8)).isNone && !ptBad 3 x && bitsOf x 0 2 == 3 && bitsOf x 4 1 == 1 &&
        bitsOf x 2 2 == bitsOf e0 2 2 && bitsOf x 15 33 == bitsOf e0 15 33 + k
    if ok then
      { owner := .core 0, pid := pid, va := va / 2 ^ 20 * 2 ^ 20, size := 2 ^ 20, pa := bitsOf e0 15 33 * 2 ^ 15,
        w := bitsOf e 2 1 == 1, x := bitsOf e 3 1 == 1, tables := tables }
    else
      { owner := .core 0, pid := pid, va := va / 2 ^ 15 * 2 ^ 15, size := 2 ^ 15, pa := bitsOf e 15 33 * 2 ^ 15,
        w := bitsOf e 2 1 == 1, x := bitsOf e 3 1 == 1, tables := tables }

/-- Walk the tables of a partition for an address, for a core of a cluster. -/
def State.walk (s : State) (cluster pid va : Nat) : Sum (Cause × Nat) (TlbEntry × List WalkEntry) :=
  s.walkFrom cluster pid va 3 1 ((s.part pid).ptRoot.toNat * 2 ^ 15) [] []

def TlbEntry.covers (e : TlbEntry) (pid va : Nat) : Bool :=
  e.pid == pid && decide (e.va ≤ va) && decide (va < e.va + e.size)

/-- A cached translation for an access from a core: the translation register named, the core's TLB, its cluster's (R328). -/
def State.cachedTlb (s : State) (core : Nat) (reg : Option TlbOwner) (pid va : Nat) : Option TlbEntry :=
  let find (o : TlbOwner) : Option TlbEntry := s.tlb.find? fun e => e.owner == o && e.covers pid va
  match reg.bind find with
  | some e => some e
  | none => match find (.core core) with
    | some e => some e
    | none => find (.cluster (clusterOf core))

/-- Install a translation in a core's first-level and its cluster's second-level TLB, and the table entries read in the
cluster's walk cache (R328). -/
def State.installTlb (s : State) (core : Nat) (e : TlbEntry) (ws : List WalkEntry) : State :=
  { s with
    tlb := { e with owner := .core core } :: { e with owner := .cluster (clusterOf core) } :: s.tlb,
    walks := ws.filter (fun w => !s.walks.contains w) ++ s.walks }

/-- HOT_CTL.MODE (13 R334). -/
def State.compatMode (s : State) : Bool := s.lodge.hotCtl.getLsbD 1

/-- An access that hits a core's first-level TLB counts in its entry in compatibility mode (13 R335). -/
def State.countTlb (s : State) (core pid va : Nat) : State :=
  if !s.compatMode then s
  else { s with tlb := s.tlb.map fun e =>
    if e.owner == .core core && e.covers pid va then { e with count := min (e.count + 1) 0xFFFF } else e }

/-- Whether a failed translation goes to the fault service when it is enabled (13 R330). -/
def serviceableCause (c : Cause) : Bool := c == 0x100 || c == 0x101

/-- Translate an access of a core: the physical address and the state with the translation cached, or the error. -/
def State.translate (s : State) (core : Nat) (reg : Option TlbOwner) (pid va : Nat) (kind : AccessKind) : Sum MErr (Nat × State) :=
  if 2 ^ 51 ≤ va then .inl { cause := 0x101, vaddr := va, kind := kind }
  else match s.cachedTlb core reg pid va with
    | some e =>
      if permitted kind e.w e.x then .inr (e.pa + (va - e.va), if e.owner == .core core then s.countTlb core pid va else s)
      else .inl { cause := 0x101, vaddr := va, kind := kind, serviceable := true }
    | none =>
      match s.walk (clusterOf core) pid va with
      | .inl (c, slot) => .inl { cause := c, vaddr := va, kind := kind, serviceable := c == 0x100,
                                 sector := if c == 0x102 then sectorOf slot else 0 }
      | .inr (e, ws) =>
        if permitted kind e.w e.x then .inr (e.pa + (va - e.va), s.installTlb core e ws)
        else .inl { cause := 0x101, vaddr := va, kind := kind, serviceable := true }

/-! ## Physical agents (19 R435) -/

/-- The address in a range of a partition whose page maps a physical address. -/
def State.vaIn (s : State) (pid base len pa : Nat) : Option Nat :=
  (List.range ((base + len) / 32768 + 1 - base / 32768)).findSome? fun k =>
    let v := (base / 32768 + k) * 32768
    match s.walk 1000 pid v with
    | .inl _ => none
    | .inr (e, _) =>
      let a := e.pa + (v - e.va)
      if a ≤ pa ∧ pa < a + 32768 then some (v + (pa - a)) else none

/-- The address at which a revision holds its own view of a physical address. -/
def State.ownVa (s : State) (rv : Revision) (pa : Nat) : Option Nat :=
  (if rv.whole then s.vaIn rv.pid 0 (2 ^ 51 - 1) pa else rv.regions.findSome? fun g => s.vaIn rv.pid g.base g.bytes pa).bind fun va =>
    if s.revCovers rv va then some va else none

/-- A write by physical address to memory that revisions share with the base: each keeps the line first. -/
def State.retainPhys (s : State) (pa : Nat) : State :=
  s.revs.foldl (fun (s : State) rv =>
    match s.ownVa rv pa with
    | none => s
    | some va =>
      if s.revAt revDepth rv.parent va != 0 || (lineByte rv.ancestors va).isSome then s
      else if s.lineFree rv then
        s.keepLine rv fun x => { x with ancestors := { va := lineOf va, bytes := s.homeLine 0 va pa } :: x.ancestors }
      else s.exhaust rv) s

/-- A write of the base revision by an agent that names physical addresses: an ingress channel, the host, another package, Bandstand. -/
def State.physWrite (s : State) (pa : Nat) : List Byte → State
  | [] => s
  | b :: bs => (((s.touchAcc 0 pa pa 1).retainPhys pa).baseWrite pa b).physWrite (pa + 1) bs

end Sys2Proof.Machine
end

