-- ==== Sys2Proof/Machine/GenTable.lean ====
section
/-!
DEFINITION. The generation table of the lodge (17 R393 to R398, R405, R406): handles, lookup, pins and reclaim.
-/
namespace Sys2Proof.Machine

/-- GEN of a handle (R394). -/
def handleGen (h : W64) : Nat := bitsOf h.toNat 51 13 * 64 + bitsOf h.toNat 0 6
/-- Descriptor address of a handle. -/
def handleDesc (h : W64) : Nat := bitsOf h.toNat 6 45 * 64
/-- The handle of a generation of a descriptor. -/
def mkHandle (desc gen : Nat) : W64 := BitVec.ofNat 64 (gen / 64 % 2 ^ 13 * 2 ^ 51 + bitsOf desc 6 45 * 64 + gen % 64)

/-- Table index and entry of a descriptor of a partition (R393). -/
def State.findGen (s : State) (pid desc : Nat) : Option (Nat × GenEntry) :=
  (List.range 256).findSome? fun n => match s.gen n with
    | some e => if e.pid = pid ∧ e.desc = desc then some (n, e) else none
    | none => none

def State.setGenEntry (s : State) (n : Nat) (e : Option GenEntry) : State :=
  { s with lodge.gens := setAt none s.lodge.gens n e }

/-- The resident generation a handle names: GEN 0 names the current one where `cur` allows it (R394). -/
def State.resolve (s : State) (pid : Nat) (h : W64) (cur : Bool) : Option (Nat × GenEntry × Nat) :=
  match s.findGen pid (handleDesc h) with
  | none => none
  | some (n, e) =>
    let g := if handleGen h = 0 ∧ cur then e.cur else handleGen h
    if g ≠ 0 ∧ e.gens.any (·.num == g) then some (n, e, g) else none

/-- Reclaim superseded generations without a pin: no memory is written (R403, R406). -/
def GenEntry.reclaim (e : GenEntry) : GenEntry :=
  { e with gens := e.gens.filter fun g => g.num == e.cur || e.pins.any (·.num == g.num) }

/-- Take a pin for a team in one step at the table (R405): the actual handle. -/
def State.pinFor (s : State) (pid t : Nat) (h : W64) : Option (W64 × State) :=
  match s.resolve pid h true with
  | none => none
  | some (n, e, g) => some (mkHandle e.desc g, s.setGenEntry n (some { e with pins := e.pins ++ [{ num := g, team := t }] }))

/-- An entry whose build with RETIRE waits is freed once no generation of it is pinned (R396, R397). -/
def GenEntry.settle (e : GenEntry) : Option GenEntry := if e.retire ∧ e.pins.isEmpty then none else some e.reclaim

/-- Whether a team has a `trace` word naming a generation that is still to write its result. -/
def Team.tracing (tm : Team) (h : W64) : Bool := tm.groups.any fun g => g.traces.any fun r => r.handle == h && !r.failed

/-- Dropped pins of an entry whose `trace` words are done go, and superseded generations without a pin are reclaimed (R406). -/
def State.settlePins (s : State) (e : GenEntry) : Option GenEntry :=
  GenEntry.settle { e with pins := e.pins.filter fun p => !p.dropping || (s.team p.team).tracing (mkHandle e.desc p.num) }

/-- Mark one pin of a team on a generation as dropped (R406); the latest taken first. -/
def dropOne (t g : Nat) (ps : List GenPin) : List GenPin :=
  let rec go : List GenPin → List GenPin
    | [] => []
    | p :: rest => if p.team = t ∧ p.num = g ∧ !p.dropping then { p with dropping := true } :: rest else p :: go rest
  (go ps.reverse).reverse

def State.dropPin (s : State) (pid t : Nat) (h : W64) : State :=
  match s.findGen pid (handleDesc h) with
  | none => s
  | some (n, e) => s.setGenEntry n (s.settlePins { e with pins := dropOne t (handleGen h) e.pins })

/-- Every pin of a team drops (09 R212, 22 R484). -/
def State.dropAllPins (s : State) (t : Nat) : State :=
  { s with lodge.gens := s.lodge.gens.map fun (x : Option GenEntry) => x.bind fun e =>
      if e.pins.any fun p => p.team == t then
        s.settlePins { e with pins := e.pins.map fun (p : GenPin) => if p.team = t then { p with dropping := true } else p }
      else some e }

end Sys2Proof.Machine
end

