-- ==== Sys2Proof/Machine/Agents.lean ====
section
/-!
DEFINITION. The cluster agents and Bandstand's shared operations: the event log (20 R457, R458), admission and launch of a
team (03 R70 to R73), agent decisions (02 R56), retirement and stopping of a team (22 R484, 21 R476), and the end of an
instance (22 R485, R486).
-/
namespace Sys2Proof.Machine

/-! ## Event log (20 R457, R458) -/

/-- One event-log entry's fields. -/
structure LogEntry where
  stream : Nat := 0
  cause : Cause
  job : Nat := 0
  kind : Nat
  inst : W32 := 0
  team : Nat := 0xFFFFFFFF
  data : Nat := 0
  deriving DecidableEq, Repr

/-- The 32 bytes of an entry, VALID set (R458). -/
def LogEntry.bytes (e : LogEntry) (time : Nat) : List Byte :=
  [1, BitVec.ofNat 8 e.stream] ++ bytesOfNat 2 e.cause.toNat ++ bytesOfNat 2 e.job ++ [BitVec.ofNat 8 e.kind, 0] ++
  bytesOfNat 4 e.inst.toNat ++ bytesOfNat 4 e.team ++ bytesOfNat 8 time ++ bytesOfNat 8 e.data

/-- A saturating 16-bit count. -/
def satInc16 (w : W16) : W16 := if w = 0xFFFF then w else w + 1

/-- Write an entry to the event log of a partition: dropped when disabled, when its slot is unread, or when its address
reaches no memory, and then Belvedere is interrupted (R457, R458). -/
def State.logEvent (s : State) (p : Nat) (e : LogEntry) : State :=
  let pt := s.part p
  let drop (s : State) : State := s.modPart p fun x => { x with evtDropped := satInc16 x.evtDropped }
  let a := pt.evtBase.toNat * 4096 + pt.evtNext.toNat % 2 ^ (pt.evtOrder.toNat + 6) * 32
  if !pt.evtEnable then drop s
  else if s.physTarget a == .none || s.physTarget a matches .window _ || (s.homeFail a).isSome then
    let s := drop s
    { s with belv := s.belv ++ [.eventAborted p] }
  else if s.baseByte a = 1 then drop s
  else
    let s := s.physWrite a (e.bytes s.now)
    s.modPart p fun x => { x with evtNext := x.evtNext + 1 }

/-- Log for an instance. -/
def State.logInst (s : State) (i : Nat) (e : LogEntry) : State :=
  let x := s.inst i
  s.logEvent x.card.pid { e with job := x.job, inst := x.id }

/-! ## Engine translation and reads (13 R326) -/

/-- Translate for an agent without TLBs of its own: a walk. -/
def State.engineWalk (s : State) (pid va : Nat) (kind : AccessKind) : Sum MErr Nat :=
  if 2 ^ 51 ≤ va then .inl { cause := 0x101, vaddr := va, kind := kind }
  else match s.walk 1000 pid va with
    | .inl (c, slot) => .inl { cause := c, vaddr := va, kind := kind, serviceable := c == 0x100,
                               sector := if c == 0x102 then sectorOf slot else 0 }
    | .inr (e, _) =>
      if !permitted kind e.w e.x then .inl { cause := 0x101, vaddr := va, kind := kind, serviceable := true }
      else .inr (e.pa + (va - e.va))

/-- The cause of an error alone. -/
def justCause {α : Type} : Sum MErr α → Sum Cause α
  | .inl e => .inl e.cause
  | .inr a => .inr a

/-- The same walk, with the cause of its failure. -/
def State.engineTranslate (s : State) (pid va : Nat) (kind : AccessKind) : Sum Cause Nat := justCause (s.engineWalk pid va kind)

/-- Read `n` bytes of a partition at home that lie in one page, translating once. -/
def State.engineReadIn (s : State) (pid rev va n : Nat) (kind : AccessKind) : Sum MErr (List Byte) :=
  match s.engineWalk pid va kind with
  | .inl e => .inl e
  | .inr pa =>
    match (List.range ((n + 31 + va % 32) / 32)).findSome? (fun k => (s.failAt rev (va + k * 32) (pa + k * 32)).map fun c => (c, pa + k * 32)) with
    | some (c, a) => .inl { cause := c, sector := if c.toNat / 64 = 5 then sectorOf a else 0, kind := kind }
    | none => .inr (s.homeBytes rev va pa n)

/-- Read `n` bytes of a partition at home, at most 32 KiB, page by page; the first failure ends the read. -/
def State.engineReadMem (s : State) (pid rev va n : Nat) (kind : AccessKind) : Sum MErr (List Byte) :=
  let k := 2 ^ 15 - va % 2 ^ 15
  if n = 0 then .inr []
  else if n ≤ k then s.engineReadIn pid rev va n kind
  else match s.engineReadIn pid rev va k kind with
    | .inl c => .inl c
    | .inr x => match s.engineReadIn pid rev (va + k) (n - k) kind with
      | .inl c => .inl c
      | .inr y => .inr (x ++ y)

/-- The same read, with the cause of its failure. -/
def State.engineReadPage (s : State) (pid rev va n : Nat) (kind : AccessKind) : Sum Cause (List Byte) :=
  justCause (s.engineReadMem pid rev va n kind)

/-- Write bytes of a partition at home, one byte at a time; stops at the first failure. -/
def State.engineWrite (s : State) (pid rev va : Nat) : List Byte → Sum Cause State
  | [] => .inr s
  | b :: bs =>
    match s.engineTranslate pid va .write with
    | .inl c => .inl c
    | .inr pa =>
      match s.homeFail pa with
      | some c => .inl c
      | none => (s.homeWrite pid rev va pa b).engineWrite pid rev (va + 1) bs

/-- Atomic add to a 64-bit slot counter of a partition, performed at home (09 R222, 14 R348, 22 R486). -/
def State.counterAdd (s : State) (pid rev va : Nat) (inc : W64) : Sum Cause State :=
  match s.engineTranslate pid va .atomic with
  | .inl c => .inl c
  | .inr pa =>
    match s.failAt rev va pa with
    | some c => .inl c
    | none =>
      let s := s.recall 1000 pa
      let old := natOfBytes (s.homeBytes rev va pa 8)
      .inr (s.homeWriteBytes pid rev va pa (bytesOfNat 8 (old + inc.toNat)))

/-! ## Residency and admission (03 R67, R70) -/

/-- Whether a team holds a slot of a bank of its core. -/
def TeamStatus.resident : TeamStatus → Bool
  | .running => true
  | .parked => true
  | .toBank => true
  | .toShadow => true
  | .suspended => true
  | .resuming => true
  | _ => false

/-- Whether a team holds a slot of the bank it is in: the slots of a team whose context moves are free when it has moved. -/
def TeamStatus.slotted : TeamStatus → Bool
  | .running => true
  | .parked => true
  | .toBank => true
  | .toShadow => true
  | .resuming => true
  | _ => false

/-- Whether a team holds a slot of an active bank (02 R58, R502). -/
def State.holdsSlot (s : State) (t : Nat) : Bool :=
  (s.team t).status.slotted && (s.core (s.team t).core).active == (s.team t).bank

/-- Whether a team is still part of its instance's work. -/
def TeamStatus.live : TeamStatus → Bool
  | .retired => false
  | .stopped => false
  | _ => true

def State.teamIds (s : State) : List Nat := List.range s.teams.length

def State.residents (s : State) (core : Nat) : List Nat :=
  s.teamIds.filter fun t => (s.team t).status.resident && (s.team t).core == core

def State.instTeams (s : State) (i : Nat) : List Nat :=
  s.teamIds.filter fun t => (s.team t).inst == i && (s.team t).status.live

/-- Groups, vector registers, scratchpad bytes and tiles a team of an instance needs (R70). -/
def Inst.vregDemand (i : Inst) : Nat := (i.roles.map fun r => r.groups * r.vregs).sum

/-- Scratchpad bytes of a core that stopped teams still hold: until the last `mst` or `mreq` write has landed (12 R313). -/
def State.lingering (s : State) (core : Nat) : Nat :=
  (((s.cores.flatMap (·.mops)).filter fun o =>
    (s.team o.team).status == .stopped && (s.team o.team).core == core && (match o.instr with
      | .mst _ => true
      | .mreq _ => true
      | _ => false)).map fun o => (s.inst (s.team o.team).inst).image.scratchBytes).sum

/-- Whether an instance's team fits the active bank of a core with a list of its residents ignored (R70). -/
def State.room (s : State) (core i : Nat) (leaving : List Nat) : Bool :=
  let x := s.inst i
  let bank := (s.core core).active
  let rs := (s.residents core).filter fun t => !leaving.contains t
  let here := rs.filter fun t => (s.team t).bank == bank
  let need (t : Nat) : Inst := s.inst (s.team t).inst
  decide (here.length + 1 ≤ 4) &&
  decide ((here.map fun t => (need t).card.groups).sum + x.card.groups ≤ 16) &&
  decide ((here.map fun t => (need t).vregDemand).sum + x.vregDemand ≤ 1024) &&
  decide ((rs.map fun t => (need t).image.scratchBytes).sum + s.lingering core + x.image.scratchBytes ≤ 262144) &&
  decide ((rs.map fun t => (need t).image.accTiles).sum + (s.core core).copies.length + x.image.accTiles ≤ 8)

/-- Whether the partition's private pool can serve a new team of an instance (13 R322). -/
def State.poolRoom (s : State) (i : Nat) : Bool :=
  let x := s.inst i
  let p := s.part x.card.pid
  x.image.privateWords == 0 || decide (p.privUsed.length + x.card.groups ≤ p.privCount.toNat)

/-- Whether a cluster takes teams. -/
def State.openTo (s : State) (k : Nat) : Bool :=
  !(s.cluster k).quarantined && !(s.cluster k).thermalStop && !(s.cluster k).emptying

/-- Whether an instance's team is admitted to the active bank of a core with a list of its residents ignored (R70, 13 R322). -/
def State.admits (s : State) (core i : Nat) (leaving : List Nat) (fresh : Bool) : Bool :=
  !(s.core core).switching && s.openTo (clusterOf core) && s.room core i leaving && (!fresh || s.poolRoom i)

/-! ## Launch (03 R71) -/

/-- The role of a group: roles take groups in table order (01 R34). -/
def roleOf : List Role → Nat → Nat × Role
  | [], _ => (0, {})
  | r :: rs, g => if g < r.groups then (0, r) else ((roleOf rs (g - r.groups)).1 + 1, (roleOf rs (g - r.groups)).2)

/-- The first free private regions of a partition, lowest first (13 R322). -/
def freeRegions (p : Part) (n : Nat) : List Nat :=
  ((List.range p.privCount.toNat).filter fun r => !p.privUsed.contains r).take n

/-- Address of record `idx` of an image: section 7 (01 R32, R35). -/
def Image.recordAddr (im : Image) (idx : Nat) : Nat := im.base + (im.sections.getD 7 (0, 0)).1 + idx * 64

/-- Number of records of an image. -/
def Image.recordCount (im : Image) : Nat := (im.sections.getD 7 (0, 0)).2 / 64

/-- Parse the 64 bytes of a loop record (01 R35). -/
def parseRecord (bs : List Byte) : LoopRec :=
  let f (off n : Nat) : Nat := natOfBytes ((bs.drop off).take n)
  { flags := f 0 4, bound := f 4 4, proOff := f 8 4, kerOff := f 12 4, epiOff := f 16 4, proLen := f 20 2, kerLen := f 22 2,
    epiLen := f 24 2, reserved := f 26 2, trips := (List.range 6).map fun k => f (28 + 2 * k) 2,
    strides := (List.range 4).map fun k => f (40 + 4 * k) 4, expectCount := f 56 4, expectSig := f 60 4 }

/-- The context record of a role entry: issued at launch (R71), its trips read at issue. -/
def entryRun (lc : List W32) (idx : Nat) (r : LoopRec) (cycle : Nat) : RecRun :=
  let depth := bitsOf r.flags 6 3
  { idx := idx, lr := r, trips := (r.trips.take depth).map fun f =>
      if bitsOf f 15 1 = 1 then (lc.getD (bitsOf f 0 3) 0).toNat else bitsOf f 0 15,
    spanStart := cycle }

/-- A group of a launching team (R71): registers zero, p0 all ones, queues unconfigured, generator seeded (08 R179). A context whose
entry record cannot be read stays idle (log 83). -/
def launchGroup (x : Inst) (s : State) (pid rev : Nat) (priv : Option Nat) (g : Nat) : Group :=
  let r := roleOf x.roles g
  let entry (idx : Nat) : CtxState :=
    if idx = 0xFFFF then {}
    else match s.engineReadPage pid rev (x.image.recordAddr idx) 64 .read with
      | .inl _ => {}
      | .inr bs => { run := some (entryRun [] idx (parseRecord bs) s.cycle) }
  { role := r.1, vregs := r.2.vregs, gen := genSeed 0 g, p := [0xFFFFFFFF#32], priv := priv,
    actx := entry r.2.aEntry, xctx := entry r.2.xEntry }

/-- Address of word `off` of a code section (01 R32). -/
def Image.codeAddr (im : Image) (sec off width : Nat) : Nat := im.base + (im.sections.getD sec (0, 0)).1 + off * width

/-- A team in its launch state (R71), its C stream at a control record. It takes the instance-level causes under HANDLER that its
instance has had, also when it was created after the raise (02 R502; log 82). -/
def launchTeam (s : State) (i core linear : Nat) (t0 : Team) (rec : LoopRec) (recIdx : Nat) : Team :=
  let x := s.inst i
  let pid := x.card.pid
  let free := if x.image.privateWords = 0 then [] else freeRegions (s.part pid) x.card.groups
  { t0 with
    inst := i, linear := linear, status := .running, core := core, bank := (s.core core).active,
    genC := genSeed 0 16,
    instHeld := if t0.fallback then [] else x.handlerCauses,
    tiles := List.replicate x.image.accTiles [],
    groups := (List.range x.card.groups).map fun g => launchGroup x s pid t0.rev (free[g]?) g,
    ctrl := { pc := x.image.codeAddr 0 rec.proOff 4, recIdx := recIdx, bound := rec.bound, spanStart := s.cycle, fresh := true, due := !t0.fallback && !x.handlerCauses.isEmpty } }

/-- Mark private regions taken (13 R322). -/
def State.takeRegions (s : State) (pid : Nat) (rs : List Nat) : State :=
  if rs.isEmpty then s else s.modPart pid fun p => { p with privUsed := rs ++ p.privUsed }

/-- An instance becomes RUNNING when a team is placed or resumes (02 R53). -/
def State.instRuns (s : State) (i : Nat) : State :=
  s.modInst i fun x => if x.st == .ready || x.st == .suspended then { x with st := .running } else x

/-- The launch pin (01 R28, 17 R405): taken before the first word; a stale handle is found at the first word. -/
def State.launchPin (s : State) (t : Nat) : State :=
  let card := (s.inst (s.team t).inst).card
  if bitsOf card.flags 4 1 = 0 then s
  else match s.pinFor card.pid t (BitVec.ofNat 64 card.genPin) with
    | some (h, s) => (s.acquireCore (s.team t).core).modTeam t fun x => { x with pins := [h] }
    | none => s.modCtrl t fun k => { k with pinStale := true }

/-- The sampler cache of a cluster is invalidated before the first team of an instance is placed on it (16 R386). -/
def State.sampFirst (s : State) (i k : Nat) : State :=
  if (s.cluster k).sampled.contains i then s
  else
    let s := s.modCluster k fun c => { c with sampled := i :: c.sampled }
    { s with samp := s.samp.filter fun b => b.cluster != k }

/-- Place a team record on a core (R73), launching it. The clean bytes of the core's L1 leave it, so that the team reads no value
older than its instance's release (18 R416). -/
def State.placeRecord (s : State) (t core : Nat) : State :=
  let tm := s.team t
  let rec0 := tm.launchRec
  let tm' := launchTeam s tm.inst core tm.linear
    (if tm.parent.isSome then { tm with share := clusterOf core }
     else { tm with firstCore := core, firstCluster := clusterOf core, share := clusterOf core }) rec0 tm.launchIdx
  let s := s.takeRegions (s.inst tm.inst).card.pid (tm'.groups.filterMap (·.priv))
  (((((s.acquireCore core).dropCode core).sampFirst tm.inst (clusterOf core)).setTeam t tm').launchPin t).instRuns tm.inst

/-- Place the grid team of a linear index on a core: a new team record. -/
def State.placeGrid (s : State) (i core linear copy rev : Nat) : State :=
  let x := s.inst i
  let t := s.teams.length
  let tm : Team := { inst := i, copy := copy, rev := rev, linear := linear, tx := linear % x.card.gridX,
                     ty := linear / x.card.gridX % x.card.gridY, tz := linear / (x.card.gridX * x.card.gridY),
                     status := .waiting, launchRec := x.entryRec, launchIdx := x.card.entryRecord }
  (s.setTeam t tm).placeRecord t core

/-! ## Decisions of the cluster agents (02 R55 to R57, 03 R72, R73, R78) -/

/-- The rank of an instance (02 R55). -/
def Inst.rank (x : Inst) : Nat × Nat × Nat := (x.deadline, x.job, x.number)

/-- Lexicographic order of ranks: lower ranks higher. -/
def rankLt (a b : Nat × Nat × Nat) : Bool :=
  decide (a.1 < b.1) || (a.1 == b.1 && (decide (a.2.1 < b.2.1) || (a.2.1 == b.2.1 && decide (a.2.2 < b.2.2))))

/-- Insert in rank order. -/
def insertRank (s : State) (i : Nat) : List Nat → List Nat
  | [] => [i]
  | j :: js => if rankLt (s.inst i).rank (s.inst j).rank then i :: j :: js else j :: insertRank s i js

/-- Whether the teams of an instance may be placed: those of a coverage card wait for its earlier instances to leave RETIRING
(04 R108). An earlier instance that is HELD does not hold them back (log 85). -/
def State.coverageTurn (s : State) (i : Nat) : Bool :=
  let x := s.inst i
  bitsOf x.card.flags 3 1 == 0 || !(s.insts.any fun y => y.job == x.job && decide (y.number < x.number) &&
    (y.st == .ready || y.st == .running || y.st == .suspended || y.st == .retiring))

/-- Instances a cluster's agent considers, highest rank first (R56). A fallback team counts with its failed instance. -/
def State.ranked (s : State) (k : Nat) : List Nat :=
  ((List.range s.insts.length).filter fun i =>
    let x := s.inst i
    (x.readyAt.contains k && (x.st == .ready || x.st == .running || x.st == .suspended || (x.st == .retiring && x.tie)) &&
        s.coverageTurn i ||
      (x.st == .failed && x.fallbackTeam.isSome && !x.posted)) &&
    (s.part x.card.pid).swapState == 0).foldl (fun acc i => insertRank s i acc) []

/-- The cores of a cluster in local order. -/
def coresOf (k : Nat) : List Nat := (List.range 4).map (k * 4 + ·)

/-- The core of lowest local index whose active bank admits a team (R73). -/
def State.firstFit (s : State) (k i : Nat) (fresh : Bool) : Option Nat :=
  (coresOf k).find? fun c => s.admits c i [] fresh

/-- The share of an instance at a cluster. -/
def Inst.shareAt (x : Inst) (k : Nat) : Option Share := x.shares.find? (·.cluster == k)

/-- Number of shares of an instance: the modulus of R72. -/
def Inst.ways (x : Inst) : Nat := x.shares.length

/-- The lowest unplaced linear index of a share, and the share without it. -/
def Share.takeLow (sh : Share) : Option (Nat × Share) :=
  if sh.next < sh.stop then some (sh.next, { sh with next := sh.next + 1 })
  else match sh.extra with
    | [] => none
    | e :: es => some (e, { sh with extra := es })

/-- Linear index of the `n`-th team of the share at position `j` of `m` (R72). -/
def shareIndex (j m n : Nat) : Nat := j + n * m

/-- Position of a cluster among the shares. -/
def Inst.sharePos (x : Inst) (k : Nat) : Nat := x.shares.findIdx (·.cluster == k)

/-- Whether a context of a team is parked on a fault (13 R333). -/
def State.faultParked (s : State) (t : Nat) : Bool :=
  (s.team t).ctrl.parked || (s.team t).mctx.parked || (s.team t).groups.any fun g => g.actx.parked || g.xctx.parked

/-- Whether a team was left in the inactive bank by a bank switch and has no fault any more: it returns as a suspended team does
(13 R333). -/
def State.bankedOut (s : State) (t : Nat) : Bool :=
  (s.team t).status == .running && (s.core (s.team t).core).active != (s.team t).bank && !s.faultParked t

/-- Suspended, spilled or waiting teams of an instance that an agent may place: suspended ones of its share in ascending
linear index, then children and fallback teams in creation order (R73, 19 R438, 21 R476). -/
def State.returning (s : State) (k i : Nat) : List Nat :=
  s.teamIds.filter fun t =>
    let x := s.team t
    x.inst == i && (x.status == .suspended || x.status == .spilled || s.bankedOut t) && x.share == k

def State.waitingChildren (s : State) (k i : Nat) : List Nat :=
  s.teamIds.filter fun t =>
    let x := s.team t
    x.inst == i && x.status == .waiting &&
      (if x.fallback then
        (((List.range 28).find? fun c => bitsOf (s.inst i).card.clusterMask c 1 == 1 && !(s.cluster c).quarantined) == some k)
      else bitsOf (s.inst i).card.clusterMask k 1 == 1)

def insertLinear (s : State) (t : Nat) : List Nat → List Nat
  | [] => [t]
  | u :: us => if (s.team t).linear < (s.team u).linear then t :: u :: us else u :: insertLinear s t us

/-- Whether every barrier a team owns is uninitialised on another core (03 R80). -/
def State.barriersFree (s : State) (t core : Nat) : Bool :=
  let old := (s.core (s.team t).core).barriers
  (List.range 128).all fun b =>
    match old.getD b none with
    | some x => x.owner != t || ((s.core core).barriers.getD b none).isNone || core == (s.team t).core
    | none => true

/-- Whether no other team owns, on another core, a channel number the team owns (14 R353). -/
def State.chansFree (s : State) (t core : Nat) : Bool :=
  core == (s.team t).core || (List.range 8).all fun n =>
    ((s.core (s.team t).core).chan n).owner != some t || ((s.core core).chan n).owner.isNone

/-- Dirty private bytes of a team are written back and leave its core's L1 (13 R318). -/
def State.flushPriv (s : State) (t : Nat) : State :=
  let pid := (s.inst (s.team t).inst).card.pid
  let p := s.part pid
  let mine (b : L1Byte) : Bool := b.priv && b.core == (s.team t).core && b.pid == pid &&
    (s.team t).groups.any fun g => match g.priv with
      | some r => decide (p.privBase.toNat * 2 ^ 15 + r * p.wpage * 32768 ≤ b.va) &&
          decide (b.va < p.privBase.toNat * 2 ^ 15 + (r + 1) * p.wpage * 32768)
      | none => false
  let s' := s.writeBackAll (s.l1.filter fun b => mine b && b.dirty)
  { s' with l1 := s'.l1.filter fun b => !mine b }

/-- Move a team's barriers, channels and windows to another core (03 R79, R80; 14 R353). -/
def State.moveOwned (s : State) (t core : Nat) : State :=
  let old := (s.team t).core
  let bs := (List.range 128).filter fun b => match (s.core old).barriers.getD b none with
    | some x => x.owner == t
    | none => false
  let cs := (List.range 8).filter fun n => ((s.core old).chan n).owner == some t
  let place (x : Option (Nat × Nat)) : Option (Nat × Nat) :=
    x.map fun w => if w.1 = old && cs.contains w.2 then (core, w.2) else w
  let s := bs.foldl (fun (s : State) b =>
    let x := (s.core old).barriers.getD b none
    (s.modCore core fun c => { c with barriers := setAt none c.barriers b x }).modCore old fun c =>
      { c with barriers := setAt none c.barriers b none }) s
  let s := cs.foldl (fun (s : State) n =>
    let x := (s.core old).chan n
    (s.modChan core n fun _ => x).modChan old n fun _ => {}) s
  let ts := s.teams.map fun (tm : Team) =>
    ({ tm with
      ctrl := { tm.ctrl with heldOn := place tm.ctrl.heldOn }
      groups := tm.groups.map fun (g : Group) =>
        ({ g with outst := g.outst.map fun (o : Outst) => { o with heldOn := place o.heldOn } } : Group) } : Team)
  let ks := s.cores.map fun (c : Core) => ({ c with chans := c.chans.map fun (h : Chan) => { h with heldOn := place h.heldOn } } : Core)
  let ps := s.pending.map fun (p : Pending) => match p.who with
    | .chan k n => if k = old ∧ cs.contains n then { p with who := FaultBy.chan core n } else p
    | _ => p
  let hs := s.lodge.holds.map fun (h : Hold) => { h with chan := (place (some h.chan)).getD h.chan }
  { s with teams := ts, cores := ks, pending := ps, lodge.holds := hs }

/-- A team moves to another core: a release at device scope on the old core, then an acquire on the new one (03 R80). -/
def State.moveTeam (s : State) (t core : Nat) : State :=
  if core = (s.team t).core then s
  else ((((s.flushPriv t).releaseCore (s.team t).core).acquireCore core).moveOwned t core).modTeam t fun x => { x with core := core }

/-- Start a suspended or spilled team's return to a core (R470). -/
def State.startResume (s : State) (t core : Nat) : State :=
  (s.moveTeam t core).modTeam t fun x => { x with status := .resuming, target := core, bank := (s.core core).active }

/-- Where a suspended team may return: its own core when in its bank, any core of the cluster when spilled. -/
def State.resumeFit (s : State) (k t : Nat) : Option Nat :=
  let tm := s.team t
  if tm.status == .suspended || tm.status == .running then
    if clusterOf tm.core == k && s.admits tm.core tm.inst [t] false then some tm.core else none
  else (coresOf k).find? fun c => s.admits c tm.inst [] false && s.barriersFree t c && s.chansFree t c

/-- Whether an instance launches fresh grid teams: redundant instances place whole copies (20 R464). -/
def Inst.redundant (x : Inst) : Bool := bitsOf x.card.flags 7 1 == 1

/-- The suspended and spilled teams of an instance that wait at a cluster, in ascending linear index (R73). -/
def State.returningSorted (s : State) (k i : Nat) : List Nat := (s.returning k i).foldl (fun acc t => insertLinear s t acc) []

/-- Place the lowest unplaced grid team of an instance's share on a core (R73). -/
def State.placeFresh (s : State) (k i core : Nat) : Option State :=
  let x := s.inst i
  if x.st == .failed then none
  else match x.shareAt k with
    | none => none
    | some sh => match sh.takeLow with
      | none => none
      | some (p, sh') =>
        let linear := if sh.next < sh.stop then (if x.redundant then p else shareIndex (x.sharePos k) x.ways p) else p
        let s := s.modInst i fun y => { y with shares := y.shares.map fun z => if z.cluster == k then sh' else z }
        let copy := x.sharePos k
        some (s.placeGrid i core linear copy (x.revs.getD copy 0))

/-- Place what fits of one instance at a cluster, in the order of R73: the returning teams, then the waiting children, then the grid
teams not placed yet (log 28: the rules give children no place in the order); `n` bounds the number of placements. -/
def State.placeInst (s : State) (k i : Nat) : Nat → State
  | 0 => s
  | n + 1 =>
    match s.returningSorted k i with
    | t :: _ =>
      match s.resumeFit k t with
      | some c => (s.startResume t c).instRuns i |>.placeInst k i n
      | none => s
    | [] =>
      match s.waitingChildren k i with
      | t :: _ =>
        match s.firstFit k i true with
        | some c => (s.placeRecord t c).placeInst k i n
        | none => s
      | [] =>
        match s.firstFit k i true with
        | none => s
        | some c => match s.placeFresh k i c with
          | some s => s.placeInst k i n
          | none => s

/-- Whether a returning team fits a core once some teams have left (R470). -/
def State.returnFits (s : State) (core : Nat) (leaving : List Nat) (u : Nat) : Bool :=
  let x := s.team u
  if x.status == .spilled then s.admits core x.inst leaving false && s.barriersFree u core && s.chansFree u core
  else x.core == core && s.admits core x.inst (u :: leaving) false

/-- Whether a waiting team of a team's instance would take its slot (09 R228). -/
def State.yieldTaker (s : State) (t : Nat) : Bool :=
  let tm := s.team t
  let k := clusterOf tm.core
  (s.returningSorted k tm.inst).any (s.returnFits tm.core [t]) ||
  ((!(s.waitingChildren k tm.inst).isEmpty || (match (s.inst tm.inst).shareAt k with
    | some sh => sh.takeLow.isSome
    | none => false)) && s.admits tm.core tm.inst [t] true)

/-- The slot a team has left goes to a waiting team of its instance under `yield`, and to a child of its own under `join`
(09 R228, 19 R439). -/
def State.handOver (s : State) (t : Nat) (how : SignalKind) : State :=
  let tm := s.team t
  let k := clusterOf tm.core
  let place (u : Nat) : State := if s.admits tm.core tm.inst [] true then s.placeRecord u tm.core else s
  match how with
  | .yield =>
    match ((s.returningSorted k tm.inst).filter (· != t)).find? (s.returnFits tm.core []) with
    | some u => (s.startResume u tm.core).instRuns tm.inst
    | none => match s.waitingChildren k tm.inst with
      | u :: _ => place u
      | [] => if s.admits tm.core tm.inst [] true then (s.placeFresh k tm.inst tm.core).getD s else s
  | .join =>
    match tm.children.find? fun c => (s.team c.team).status == .waiting with
    | some c => place c.team
    | none => s
  | _ => s

/-- Whether an instance still has a team waiting at a cluster. -/
def State.hasWaiting (s : State) (k i : Nat) : Bool :=
  !(s.returning k i).isEmpty || !(s.waitingChildren k i).isEmpty ||
  match (s.inst i).shareAt k with
  | some sh => sh.takeLow.isSome && (s.inst i).st != .failed
  | none => false

/-- Teams of a cluster in active banks that are running and not yet signalled. -/
def State.signallable (s : State) (k : Nat) : List Nat :=
  s.teamIds.filter fun t =>
    let x := s.team t
    x.status == .running && clusterOf x.core == k && x.sent == .none && (s.core x.core).active == x.bank

/-- Teams of a cluster on their way out. -/
def State.leaving (s : State) (k : Nat) : List Nat :=
  s.teamIds.filter fun t =>
    let x := s.team t
    clusterOf x.core == k &&
      ((x.status == .running && x.sent != .none) || x.status == .parked || x.status == .toBank || x.status == .toShadow)

/-- Whether the waiting team of an instance would fit a core of the cluster with a list of teams gone (R56, 23 R496): a suspended
team fits its own core only (R470). -/
def State.waiterFits (s : State) (k i core : Nat) (leaving : List Nat) : Bool :=
  match s.returningSorted k i with
  | t :: _ =>
    let x := s.team t
    if x.status == .spilled then s.room core i leaving && s.barriersFree t core && s.chansFree t core
    else x.core == core && s.room core i (t :: leaving)
  | [] => s.room core i leaving && s.poolRoom i

/-- The lowest-ranked instance below an instance that holds an active slot of a cluster (R56). -/
def State.lowestHolder (s : State) (k i : Nat) : Option Nat :=
  ((s.signallable k).map fun t => (s.team t).inst).foldl (fun best j =>
    if !rankLt (s.inst i).rank (s.inst j).rank then best
    else match best with
      | none => some j
      | some b => if rankLt (s.inst b).rank (s.inst j).rank then some j else best) none

/-- The team an agent signals next for the waiting team of an instance (23 R496): of the teams of the lowest-ranked instance, in
ascending core order, the first whose departure lets the waiting team in, or else the first. -/
def State.victim (s : State) (k i : Nat) : Option Nat :=
  match s.lowestHolder k i with
  | none => none
  | some j =>
    let ts := (coresOf k).flatMap fun c => (s.signallable k).filter fun t => (s.team t).inst == j && (s.team t).core == c
    ((ts.find? fun t => s.waiterFits k i (s.team t).core (t :: s.leaving k)).or ts.head?)

/-- Signal pre-emption to teams, one at a time, until the waiting team fits (R56). Pre-emption frees no private region. -/
def State.signalFor (s : State) (k i : Nat) : Nat → State
  | 0 => s
  | n + 1 =>
    if !s.openTo k || (coresOf k).any fun c => s.waiterFits k i c (s.leaving k) then s
    else if (s.returning k i).isEmpty && !s.poolRoom i then s
    else match s.victim k i with
      | none => s
      | some t => (s.modTeam t fun x => { x with sent := .preempt }).signalFor k i n

/-- Whether a team has an unfinished raster command or `trace` word: it is not chosen for migration (16 R371). -/
def State.visionBusy (s : State) (t : Nat) : Bool :=
  (s.clusters.any fun k => k.rasters.any (·.team == t)) || (s.team t).groups.any fun g => !g.traces.isEmpty

/-- Whether a core can be the target of a team's migration (03 R80). -/
def State.canTake (s : State) (t core : Nat) : Bool :=
  s.admits core (s.team t).inst [] false && s.barriersFree t core && s.chansFree t core

/-- A team starts its move to another core: the streamer begins and the old core installs a forwarding entry (03 R80, R82). -/
def State.startMigrate (s : State) (t core : Nat) : State :=
  let f : Forward := { team := t, core := (s.team t).core, dest := core }
  let s := { s with lodge.forwards := s.lodge.forwards ++ [f] }
  s.modTeam t fun x =>
    { x with status := .migrating, target := core, share := clusterOf core,
             groups := x.groups.map fun (g : Group) =>
               ({ g with outst := g.outst.map (fun (o : Outst) => { o with moved := true })
                         smps := g.smps.map fun (r : SmpReq) => { r with moved := true } } : Group) }

/-- The team of highest linear index among some. -/
def State.highest (s : State) (ts : List Nat) : Option Nat :=
  ts.foldl (fun best t => match best with
    | none => some t
    | some u => if (s.team u).linear ≤ (s.team t).linear then some t else some u) none

/-- A suspended team of another share migrates to a cluster with room (R78). -/
def State.takeSuspended (s : State) (k i : Nat) : Option State :=
  let ts := s.teamIds.filter fun t =>
    let x := s.team t
    x.inst == i && (x.status == .suspended || x.status == .spilled) && x.share != k && !s.visionBusy t &&
      (coresOf k).any fun c => s.canTake t c
  match s.highest ts with
  | none => none
  | some t => ((coresOf k).find? fun c => s.canTake t c).map fun c => s.startMigrate t c

/-- A running team of a core that holds two or more of an instance with a team still waiting is signalled to migrate to a core
of the cluster that holds none (R78). -/
def State.spreadCore (s : State) (k : Nat) : State :=
  let idle := (coresOf k).find? fun c => (s.residents c).isEmpty && !(s.teamIds.any fun t =>
    (s.team t).sent == .migrate && (s.team t).target == c)
  match idle with
  | none => s
  | some c =>
    let here (i d : Nat) : List Nat := (s.signallable k).filter fun t => (s.team t).inst == i && (s.team t).core == d
    let ts := (s.ranked k).flatMap fun i =>
      if s.hasWaiting k i && !(s.inst i).redundant then
        (coresOf k).flatMap fun d => if 2 ≤ (here i d).length then
          ((s.highest (here i d)).toList).filter fun t => !s.visionBusy t && s.canTake t c else []
      else []
    match ts with
    | [] => s
    | t :: _ => s.modTeam t fun x => { x with sent := .migrate, target := c }

/-- Unplaced teams of a share that another agent could take: those transferred to it, and its own of highest index. -/
def Inst.spare (x : Inst) (sh : Share) : List (Nat × Nat) :=
  (sh.extra ++ if sh.next < sh.stop then [shareIndex (x.sharePos sh.cluster) x.ways (sh.stop - 1)] else []).map fun n => (n, sh.cluster)

/-- The highest-indexed unplaced team of the shares of other clusters, and its cluster (R78). -/
def Inst.donation (x : Inst) (k : Nat) : Option (Nat × Nat) :=
  ((x.shares.filter (·.cluster != k)).flatMap x.spare).foldl (fun best n => match best with
    | none => some n
    | some b => if b.1 < n.1 then some n else some b) none

/-- Rebalancing (R78): a cluster with nothing waiting takes the highest-indexed unplaced team of another share. -/
def State.takeTransfer (s : State) (k : Nat) : List Nat → State
  | [] => s
  | i :: is =>
    let x := s.inst i
    match x.donation k, x.redundant || x.st == .failed, s.firstFit k i true with
    | some (idx, c), false, some _ =>
      (s.modInst i fun y => { y with shares := y.shares.map fun z =>
        if z.cluster == c then (if z.extra.contains idx then { z with extra := z.extra.erase idx } else { z with stop := z.stop - 1 })
        else if z.cluster == k then { z with extra := z.extra ++ [idx] } else z }).placeInst k i 1
    | none, false, _ => match s.takeSuspended k i with
      | some s => s
      | none => s.takeTransfer k is
    | _, _, _ => s.takeTransfer k is

/-- Bandstand's own local time unit has not reported: it takes scheduling decisions (02 R48). -/
def State.decides (s : State) : Bool := !s.lodge.ltuBad.contains .bandstand

/-- A decision of a cluster's agent (R56): fill free slots in rank order, then signal for the highest-ranked instance
whose team does not fit, then rebalance when nothing of its own waits (R78). -/
def State.agentDecide (s : State) (k : Nat) : State :=
  if s.lodge.ltuBad.contains (.cluster k) || s.lodge.ltuBad.contains (.ltu k) || !s.decides then s
  else
  let s := (s.ranked k).foldl (fun s i => s.placeInst k i 16) s
  match (s.ranked k).find? fun i => s.hasWaiting k i with
  | some i => (s.signalFor k i 16).spreadCore k
  | none => s.takeTransfer k (s.ranked k)

/-- A decision at every cluster of a mask. -/
def State.decideMask (s : State) (mask : Nat) : State :=
  ((List.range 28).filter fun k => bitsOf mask k 1 == 1).foldl (fun s k => s.agentDecide k) s

/-! ## The end of a team -/

/-- Whether the word a context was offered waits (07 R151). -/
def Team.waits (tm : Team) (c : Ctx) : Bool :=
  match c with
  | .c _ => tm.ctrl.waiting
  | .a _ g => (tm.groups.getD g {}).actx.waiting
  | .x _ g => (tm.groups.getD g {}).xctx.waiting
  | .m _ => tm.mctx.waiting

/-- Whether a recorded phase is that of a context waiting on the barrier: its team is neither retired nor stopped and its word still
waits (09 R219, R221). -/
def Team.recWaits (tm : Team) (r : BarRec) : Bool := tm.status.live && r.waiting && tm.waits r.ctx

/-- An operation of the M stream whose post goes to a barrier. -/
def postsTo (b : Nat) (i : Instr) : Bool :=
  match i.mat? with
  | some (_, w) => w.postEn && w.postB.toNat == b
  | none => false

/-- The posts of issued M words to an invalidated barrier make no arrival (12 R307). -/
def losePost (b : Nat) (o : MOp) : MOp := if postsTo b o.instr then { o with postGone := true } else o
def RecRun.losePost (b : Nat) (r : RecRun) : RecRun :=
  { r with loopOp := r.loopOp.map fun p => if postsTo b p.instr then { p with gone := true } else p }

/-- Make a barrier uninitialised: every context waiting on it is found by its next evaluation (09 R221), and posts issued and not
retired are lost. -/
def State.invalBarrier (s : State) (core b : Nat) : State :=
  let s := s.modCore core fun c => { c with barriers := setAt none c.barriers b none }
  let here (o : MOp) : MOp := if (s.team o.team).core == core then losePost b o else o
  let cs := s.cores.map fun (c : Core) => ({ c with mops := c.mops.map here } : Core)
  { s with cores := cs, teams := s.teams.map fun tm =>
      if tm.core == core then { tm with
        barRecs := tm.barRecs.map fun (r : BarRec) => if r.bar == b && tm.recWaits r then { r with gone := true } else r
        mops := tm.mops.map (losePost b)
        mctx := { tm.mctx with run := tm.mctx.run.map (RecRun.losePost b) } }
      else tm }

/-- Invalidate the barriers a team owns on its core (09 R221, 22 R484). -/
def State.invalOwned (s : State) (t : Nat) : State :=
  let core := (s.team t).core
  (List.range 128).foldl (fun s b => match (s.core core).barriers.getD b none with
    | some x => if x.owner = t then s.invalBarrier core b else s
    | none => s) s

/-- Return a team's private regions to the pool and discard its private L1 bytes (13 R318, R322). -/
def State.freePrivate (s : State) (t : Nat) : State :=
  let pid := (s.inst (s.team t).inst).card.pid
  let mine := (s.team t).groups.filterMap (·.priv)
  let p := s.part pid
  let s := { s with l1 := s.l1.filter fun b => !(b.priv && b.pid == pid && mine.any fun r =>
    decide (p.privBase.toNat * 2 ^ 15 + r * p.wpage * 32768 ≤ b.va) &&
    decide (b.va < p.privBase.toNat * 2 ^ 15 + (r + 1) * p.wpage * 32768)) }
  s.modPart pid fun p => { p with privUsed := p.privUsed.filter fun r => !mine.contains r }

/-- Drop a team's unretired array operations, on its core or a core that pulls its record (12 R313), and those it holds parked. -/
def State.dropOps (s : State) (t : Nat) : State :=
  let cs := s.cores.map fun (c : Core) => ({ c with mops := c.mops.filter fun (o : MOp) => o.team != t } : Core)
  ({ s with cores := cs }).modTeam t fun x => { x with mops := [] }

/-- End the pull of a team's record (03 R85): the tiles go back to the owner's, and the puller releases its own. -/
def State.endPull (s : State) (t : Nat) : State :=
  let copies := (s.cores.filter (·.pulled == some t)).flatMap (·.copies)
  let s := s.modTeam t fun tm => { tm with tiles := copies.foldl (fun (ts : List (List W32)) p => setAt [] ts p.1 p.2) tm.tiles }
  { s with cores := s.cores.map fun (c : Core) =>
      if c.pulled = some t then ({ c with pulled := none, copies := [] } : Core) else c }

/-- Whether a team has operations issued and not retired. -/
def State.hasOps (s : State) (t : Nat) : Bool :=
  !(s.team t).mops.isEmpty || s.cores.any fun c => c.mops.any fun o => o.team == t

def abortCtx (c : CtxState) : CtxState :=
  { c with waiting := false, run := c.run.map fun r => if r.st == .retired then r else { r with st := .aborted }, resume := [] }

/-- The channels of a team that ends stop in their command and fetch no other (21 R476). -/
def endChans (t : Nat) (c : Core) : Core :=
  { c with chans := c.chans.map fun (h : Chan) => if h.owner = some t then ({ h with ending := true, next := none } : Chan) else h }

/-- A team ends by a trap: its operations that have not started are discarded, and the oldest of an array, started two cycles after its
issue at the earliest, completes (12 R290, R313; log 98). -/
def State.endOps (s : State) (t : Nat) : State :=
  let started (c : Core) : List MOp := (c.mops.take 1).filter fun o => o.team == t && decide (o.issued + 2 ≤ s.cycle)
  let cs := s.cores.map fun (c : Core) => ({ c with mops := started c ++ c.mops.filter fun (o : MOp) => o.team != t } : Core)
  ({ s with cores := cs }).modTeam t fun x => { x with mops := [] }

/-- Every context of a team stops at once: records ABORTED, matrix operations discarded, slots freed (20 R455, 21 R476). -/
def State.stopTeam (s : State) (t : Nat) : State :=
  let s := (((s.endOps t).endPull t).invalOwned t).freePrivate t
  let s := { s with pending := s.pending.filter (·.ctx.team != t) }
  let cs := s.cores.map (endChans t)
  let ks := s.clusters.map fun (k : Cluster) => ({ k with rasters := k.rasters.filter fun (r : Raster) => r.team != t } : Cluster)
  let s := { s with cores := cs, clusters := ks }
  let s := s.modTeam t fun x =>
    { x with status := .stopped, pins := [], sent := .none, signal := .none, held := [], instHeld := [],
             groups := x.groups.map (fun (g : Group) => ({ g with actx := abortCtx g.actx, xctx := abortCtx g.xctx, outst := [], smps := [], traces := [] } : Group)),
             mctx := abortCtx x.mctx, ctrl := { x.ctrl with ended := true } }
  s.dropAllPins t

/-- Discard an instance's ready-table entries and log their count (02 R63). -/
def State.discardReady (s : State) (i : Nat) : State :=
  let p := (s.inst i).card.pid
  let n := (s.clusters.map fun c => (c.ready.filter (·.inst == i)).length).sum +
    ((s.part p).savedReady.filter (·.2.inst == i)).length
  if n = 0 then s
  else
    let cs := s.clusters.map fun (c : Cluster) => ({ c with ready := c.ready.filter (·.inst != i) } : Cluster)
    let s := ({ s with clusters := cs }).modPart p fun x => { x with savedReady := x.savedReady.filter (·.2.inst != i) }
    s.logInst i { cause := 0x20A, kind := 0, data := n }

/-- Store lines a revision holds: a child's reservation (19 R437), the lines kept for a redundant copy (20 R465). -/
def Revision.lines (r : Revision) : Nat := if r.whole then r.copies.length + r.ancestors.length else r.reserved

/-- Revisions and accumulators of an instance that ends (19 R439, 11 R283). -/
def State.dropInstState (s : State) (i : Nat) : State :=
  let s := (s.revs.filter (·.inst == i)).foldl (fun (s : State) r =>
    s.modPart r.pid fun p => { p with revFree := p.revFree + r.lines }) s
  { s with revs := s.revs.filter (·.inst != i), accums := s.accums.filter (·.inst != i) }

/-- The counter post and MSI-X signal of an ended instance are due: the post is made now (22 R486). -/
def State.postCompletion (s : State) (i : Nat) (failed : Bool) : State :=
  let x := s.inst i
  if x.posted then s
  else
    let s := s.modInst i fun y => { y with posted := true }
    let s := (s.discardReady i).dropInstState i
    if bitsOf x.card.flags 5 1 = 0 then s
    else match s.counterAdd x.card.pid 0 x.card.completionCounter (if failed then 0x100000000 else 1) with
      | .inr s => s
      | .inl c =>
        let s := s.logInst i { cause := c, kind := 3, stream := 7, data := 0 }
        { s with belv := s.belv ++ [.postFault x.job] }

/-- When the last live instance of a withdrawing card has ended, the card returns to not accepted and the withdraw's result
is posted (02 R46). -/
def State.checkWithdraw (s : State) (j : Nat) : State :=
  let jb := s.job j
  let live := s.insts.any fun x => x.job == j && !(x.st == .done || x.st == .failed)
  match jb.withdrawing with
  | some (page, seq) =>
    if live then s
    else
      let s := s.modJob j fun y => { y with accepted := false, withdrawing := none }
      let p : SubPage := s.pages.getD page {}
      let p : SubPage := { p with results := p.results ++ [{ seq := seq, code := 0, op := 1, job := j }],
                                  prep := p.prep.filter (·.seq != seq) }
      { s with pages := setAt {} s.pages page p }
  | none => s

/-- The update instant of a sampled instance that moves no rung (04 R105). -/
def State.noUpdate (s : State) (i : Nat) : State :=
  let x := s.inst i
  if x.sampled.isNone then s
  else s.modJob x.job fun j => { j with rungs := (x.number, j.ctlRung) :: j.rungs, lastMove := 3, lastInst := x.id.setWidth 16 }

/-- What the clusters have charged an instance that ends is no charge of its fallback team, whose budget is fresh (21 R476). -/
def State.dropCharges (s : State) (i : Nat) : State :=
  { s with clusters := s.clusters.map fun (c : Cluster) => ({ c with charge := c.charge.filter (·.inst != i) } : Cluster) }

/-- An instance ends FAILED: every team stops at once, its ready entries are discarded (02 R63), a withdrawn card has one live
instance less (02 R46, R52), and the failed post follows unless a fallback team runs (22 R486). -/
def State.failInstance (s : State) (i : Nat) (fallback : Bool) : State :=
  let x := s.inst i
  let s := (s.instTeams i).foldl (fun s t => s.stopTeam t) s
  let s := s.modInst i fun y => { y with st := .failed, pendingCause := none, heldCause := none }
  let s := ((s.noUpdate i).discardReady i).dropCharges i
  let s := if fallback && decide (x.card.fallbackRecord < 0xFFFF) then
      let t := s.teams.length
      let s := s.dropInstState i
      let s := s.setTeam t { inst := i, fallback := true, status := .waiting, launchRec := x.fallbackRec,
                             launchIdx := x.card.fallbackRecord }
      s.modInst i fun y => { y with fallbackTeam := some t, reported := 0, overBudget := false }
    else s.postCompletion i true
  let s := s.checkWithdraw x.job
  s.decideMask x.card.clusterMask

/-- An instance is HELD for Belvedere: its teams stop at once and Belvedere is interrupted (02 R53, 21 R482). An instance that holds
no team any more waits in RETIRING for Belvedere's choice (02 R53, R60). -/
def State.holdInstance (s : State) (i : Nat) (r : Raise) : State :=
  let x := s.inst i
  let s := (s.instTeams i).foldl (fun s t => s.stopTeam t) s
  let s := s.modInst i fun y =>
    { y with st := if y.st == .retiring then .retiring else .held, heldCause := some r, pendingCause := none }
  let s := { s with belv := s.belv ++ [BelvMsg.escalate r.cause x.job x.id] }
  s.decideMask x.card.clusterMask

/-! ## Instance-level causes (02 R502) -/

/-- The disposition nibble of a cause's class (01 R24). -/
def Card.nibble (c : Card) (cause : Cause) : Nat := bitsOf c.disposition (4 * (cause.toNat / 64)) 4

/-- An instance-level cause raised at a local time. -/
def instRaise (c : Cause) (time : Nat) : Raise := { cause := c, stream := 7, lanes := 0, time := time }

/-- Log a cause of an instance with no team (20 R458). -/
def State.logInstCause (s : State) (i kind : Nat) (c : Cause) : State := s.logInst i { stream := 7, cause := c, kind := kind }

/-- A cause that ends an instance takes effect at once. -/
def State.endAtOnce (s : State) (i code : Nat) (r : Raise) : State :=
  let s := s.logInstCause i 2 r.cause
  match code with
  | 5 => s.holdInstance i r
  | 2 => s.failInstance i true
  | _ => s.failInstance i false

/-- A cause that waits for a checkpoint of an instance takes effect at once when no team of the instance holds a slot of an active
bank any more (R502). -/
def State.endPending (s : State) (i : Nat) : State :=
  match (s.inst i).pendingCause with
  | none => s
  | some r =>
    if (s.instTeams i).any s.holdsSlot then s
    else (s.modInst i fun x => { x with pendingCause := none }).endAtOnce i ((s.inst i).card.nibble r.cause) r

/-- The same for every instance. -/
def State.endAllPending (s : State) : State :=
  (List.range s.insts.length).foldl (fun (s : State) i => s.endPending i) s

/-- A team has left its slots: its cluster reports its instance's charge (02 R58), and a cause that waited may take effect. -/
def State.leftCluster (s : State) (t : Nat) : State :=
  (s.modCluster (clusterOf (s.team t).core) fun c =>
    { c with charge := c.charge.map fun e => if e.inst = (s.team t).inst then { e with left := true } else e }).endPending (s.team t).inst

end Sys2Proof.Machine
end

