-- ==== Sys2Proof/Machine/Ops.lean ====
section
/-!
DEFINITION. The named operations every meaning ends in: taking an exception (raising a cause and applying its disposition,
20 R446 to R462) and the return from it, parking at a checkpoint (21 R468), the kernel-iteration boundary (07 R160), and the
completion of a word.
-/
namespace Sys2Proof.Machine

/-! ## Queues (07 R155 to R157, 20 R461) -/

/-- Filled slots its consumer sees: those an idempotent iteration has filled are held back (R461). -/
def Que.visible (q : Que) : Nat := q.f - q.heldFill

/-- Free slots its producer sees: slots advanced past and not filled count as filled (11 R273), popped slots an idempotent
iteration holds count as filled (R461). -/
def Que.room (q : Que) : Nat := q.depth - q.f - q.resv - q.heldPop

/-- Move the head by `k` slots (07 R156). -/
def Que.pop (q : Que) (k : Nat) (held : Bool) : Que :=
  { q with head := (q.head + k) % q.depth, f := q.f - k, heldPop := if held then q.heldPop + k else q.heldPop }

/-- Move the tail by `k` slots, filled at once (07 R156). -/
def Que.push (q : Que) (k : Nat) (held : Bool) : Que :=
  { q with tail := (q.tail + k) % q.depth, f := q.f + k, heldFill := if held then q.heldFill + k else q.heldFill }

/-- Slots advanced past become filled in order once nothing is still to land in them (11 R273). -/
def Que.settle (q : Que) (held : Bool) : Nat → Que
  | 0 => q
  | n + 1 =>
    if q.resv = 0 then q
    else if (q.slots.getD ((q.head + q.f) % q.depth) {}).pend = 0 then
      ({ q with resv := q.resv - 1, f := q.f + 1, heldFill := if held then q.heldFill + 1 else q.heldFill }).settle held n
    else q

/-- The pops, and the fills, of an idempotent iteration become visible at its boundary (R461). -/
def Que.releasePop (q : Que) : Que := { q with heldPop := 0 }
def Que.releaseFill (q : Que) : Que := { q with heldFill := 0 }

/-- Undo the pops of an iteration (R462). -/
def Que.undoPop (q : Que) : Que :=
  { q with head := (q.head + q.depth - q.heldPop % q.depth) % q.depth, f := q.f + q.heldPop, heldPop := 0 }

/-- Undo the fills of an iteration, held or still landing (R462). -/
def Que.undoFill (q : Que) : Que :=
  let k := q.heldFill + q.resv
  let tail := (q.tail + q.depth - k % q.depth) % q.depth
  let slots := q.slots.map fun (x : QSlot) => { x with pend := 0 }
  { q with tail := tail, f := q.f - q.heldFill, heldFill := 0, resv := 0,
           slots := if k = 0 then slots else setAt {} slots tail { slots.getD tail {} with stale := false } }

/-- The same for a ring (20 R461, R462). -/
def Ring.undoPop (r : Ring) : Ring :=
  { r with head := (r.head + r.count - r.heldPop) % r.count, f := r.f + r.heldPop, heldPop := 0, claimed := 0, resv := 0 }
def Ring.undoFill (r : Ring) : Ring :=
  { r with tail := (r.tail + r.count - r.heldFill) % r.count, f := r.f - r.heldFill, heldFill := 0 }

def Team.mapRings (t : Team) (f : Ring → Ring) : Team := { t with rings := t.rings.map fun (r : Option Ring) => r.map f }

def Group.modQueue (g : Group) (n : Nat) (f : Que → Que) : Group := { g with queues := setAt {} g.queues n (f (g.queues.getD n {})) }

/-- Queues whose head, and whose tail, a stream moves (07 R155). -/
def popsOf (st : Stream) (q : Nat) : Bool :=
  match st with
  | .x => q < 8 || (12 ≤ q && q < 16)
  | .a => 8 ≤ q && q < 12
  | _ => false
def fillsOf (st : Stream) (q : Nat) : Bool :=
  match st with
  | .x => 8 ≤ q && q < 12
  | .a => q < 8
  | _ => false

/-- Queues whose fills an idempotent A iteration holds: its load queues, and the delivery queues its requests fill (R461). -/
def heldFillsOf (st : Stream) (q : Nat) : Bool := fillsOf st q || (st == .a && decide (12 ≤ q))

/-- Take the slots of dropped requests off the tail of a queue (20 R462). -/
def Que.unfill (q : Que) (ids : List Nat) : Nat → Que
  | 0 => q
  | n + 1 =>
    let last := (q.tail + q.depth - 1) % q.depth
    if q.f ≠ 0 ∧ q.resv = 0 ∧ ids.contains (q.slots.getD last {}).source then
      ({ q with tail := last, f := q.f - 1 }).unfill ids n
    else q

/-- The vision requests of an iteration are squashed (R462): unfilled slots go with `undoFill`, delivered rounds here. -/
def Group.squashVision (g : Group) : Group :=
  let ids := (g.traces.filter (·.inIter)).map (·.id)
  let qs := g.queues.map fun q => q.unfill ids 16
  { g with smps := [], traces := g.traces.filter (!·.inIter), queues := qs }

/-- Faults of requests that no longer exist leave the fault service. -/
def State.dropStale (s : State) : State :=
  { s with pending := s.pending.filter fun p => match p.who with
    | .smp t g q slot => (s.group t g).smps.any fun r => r.q == q && r.slot == slot
    | .trace t g id => (s.group t g).traces.any fun r => r.id == id
    | _ => true }

def Group.mapQueues (g : Group) (f : Nat → Que → Que) : Group :=
  { g with queues := (List.range g.queues.length).map fun n => f n (g.queues.getD n {}) }

/-- Whether the word being issued belongs to an iteration of an IDEMPOTENT record (20 R459, R461). -/
def State.idempotent (s : State) (c : Ctx) : Bool :=
  match (s.ctxState c).run with
  | some r => bitsOf r.lr.flags 4 1 == 1 && r.st == .kernel
  | none => false

/-! ## Raising a cause -/

/-- REGION_PC of a context: the open C region, or the first kernel word of an idempotent iteration (20 R448). -/
def State.regionPc (s : State) (c : Ctx) : Nat :=
  match c with
  | .c t => match (s.team t).ctrl.region with
    | some r => r.pc
    | none => 0
  | _ =>
    if s.idempotent c then
      match (s.ctxState c).run with
      | some r => (s.inst (s.team c.team).inst).image.codeAddr (streamCode c.stream) r.lr.kerOff (if c.stream == .m then 8 else 4)
      | none => 0
    else 0

/-- The lanes a word of the issuing context acts for (05 R132, 10 R236, R262): the predicate of a patch word, within LIVE in X;
all lanes for C and M. -/
def State.issueLanes (s : State) : W32 :=
  let w := (s.iw.words.headD 0).toNat
  let g := s.group s.cur.team s.cur.group
  let pred := if bitsOf w 31 1 = 1 then g.pReg (bitsOf w 16 4) else 0xFFFFFFFF#32
  match s.cur with
  | .a _ _ => pred
  | .x _ _ => pred &&& g.live
  | _ => 0xFFFFFFFF#32

/-- A raise at the word being issued, before disposition (20 R448, R449). -/
def State.raiseAt (s : State) (cause : Cause) (lanes : W32 := s.issueLanes) (vaddr : Nat := 0) (sector : Nat := 0) : Raise :=
  { cause := cause, ctx := some s.cur, stream := streamCode s.cur.stream, pc := s.iw.pc, lanes := lanes, sector := sector,
    vaddr := vaddr, regionPc := s.regionPc s.cur, group := s.cur.frameGroup, time := s.now }

/-- A raise from a memory error. -/
def State.raiseErr (s : State) (e : MErr) (lanes : W32 := s.issueLanes) : Raise :=
  { (s.raiseAt e.cause lanes e.vaddr e.sector) with serviceable := e.serviceable, kind := e.kind }

/-- The trap frame of a raise (R448). VADDR is zero but in the cases R448 names and for 0x102 (R467); TIME is the local time at
the raise, also of a cause held meanwhile. -/
def State.frameOf (s : State) (t : Nat) (r : Raise) : TrapFrame :=
  let x := s.inst (s.team t).inst
  { cause := r.cause, stream := BitVec.ofNat 3 r.stream, pc := BitVec.ofNat 64 r.pc, lanes := r.lanes,
    sector := BitVec.ofNat 48 r.sector, vaddr := if r.shown || r.cause == 0x102 then BitVec.ofNat 64 r.vaddr else 0, regionPc := BitVec.ofNat 64 r.regionPc,
    group := BitVec.ofNat 8 r.group, team := BitVec.ofNat 32 (s.team t).linear, jobInst := x.id,
    jobIndex := BitVec.ofNat 13 x.job, time := BitVec.ofNat 64 r.time }

/-- Park a context on a page fault for the partition's fault service (13 R330 to R332). -/
def State.parkFault (s : State) (t : Nat) (c : Ctx) (r : Raise) : State :=
  let pid := (s.inst (s.team t).inst).card.pid
  let p : Pending := { part := pid, ctx := c, raise := r }
  let s := { s with pending := s.pending ++ [p] }
  match c with
  | .c t => s.modCtrl t fun k => { k with parked := true }
  | c => s.modCtx c fun x => { x with parked := true }

/-- Stop a context at its word (20 R455, R456). -/
def State.stopCtx (s : State) (c : Ctx) : State := s.modCtx c fun x => { x with stopped := true }

/-- Enter HANDLER_RECORD (20 R455): the C stream's next word is saved, and control enters the handler's entry word. -/
def State.enterHandler (s : State) (t : Nat) (r : Raise) : State :=
  let x := s.inst (s.team t).inst
  let s := match r.ctx with
    | some c => s.stopCtx c
    | none => s
  s.modTeam t fun tm =>
    let k := tm.ctrl
    { tm with
      frame := s.frameOf t r
      handler := some { trapped := r.ctx, boundary := r.boundary, savedPc := k.pc, savedSeg := k.seg, savedRegion := k.region,
                        savedRec := k.recIdx, savedBound := k.bound, savedSpan := k.spanStart,
                        savedTicket := k.ticket, savedLate := k.late, taken := { r with logged := true, reported := true }, entered := s.cycle }
      ctrl := { k with pc := x.image.codeAddr 0 x.handlerRec.proOff 4, seg := none, region := none,
                       recIdx := x.card.handlerRecord, bound := x.handlerRec.bound, spanStart := s.cycle,
                       waiting := false, ticket := none, joining := none, atCheckpoint := false, fresh := true, late := false } }

/-- Log an occurrence of a cause in a team, once (20 R458); DATA is the frame PC. -/
def State.logRaise (s : State) (t kind : Nat) (r : Raise) : State :=
  if r.logged then s
  else s.logInst (s.team t).inst { stream := r.stream, cause := r.cause, kind := kind, team := (s.team t).linear, data := r.pc }

/-- End the team's instance under STOP, SKIP or FALLBACK; a fallback team's end posts the failed instance (21 R476). -/
def State.endByCause (s : State) (t : Nat) (fallback : Bool) : State :=
  let i := (s.team t).inst
  if (s.team t).fallback then
    let s := (s.stopTeam t).postCompletion i true
    s.decideMask (s.inst i).card.clusterMask
  else s.failInstance i fallback

/-! ## Kernel iterations (07 R160) -/

/-- Trip product of a record: kernel iterations due (01 R37). -/
def RecRun.total (r : RecRun) : Nat := r.trips.foldl (· * ·) 1

/-- Whether iteration number `it` (counted from 1) completes a full cycle of every trip level below `level` (01 R38). -/
def completesCycle (trips : List Nat) (it level : Nat) : Bool := it % (trips.take level).foldl (· * ·) 1 == 0

/-- Whether the iteration under way is the last (02 R54, 10 R257). -/
def RecRun.lastIter (r : RecRun) : Bool := r.refillStopped || decide (r.total ≤ r.iter + 1)

/-- Whether an iteration has passed its bound and 0x203 was not raised in it (01 R42, 07 R160). -/
def RecRun.overBound (r : RecRun) (cycle : Nat) : Bool := !r.late && decide (r.lr.bound < cycle - r.spanStart)

/-- Apply the strides of a record after iteration `it` (01 R38). -/
def applyStrides (trips : List Nat) (it : Nat) : List Nat → Group → Group
  | [], g => g
  | e :: es, g =>
    let reg := bitsOf e 0 5
    let step : Int := if bitsOf e 31 1 = 1 then (bitsOf e 8 24 : Int) - 2 ^ 24 else bitsOf e 8 24
    let g := if reg ≠ 0 ∧ completesCycle trips it (bitsOf e 5 3) then
        g.setG reg (g.gReg reg + BitVec.ofInt 64 step) else g
    applyStrides trips it es g

/-- Queue and ring movements of an iteration become visible (20 R461). -/
def State.releaseHeld (s : State) (c : Ctx) : State :=
  match c with
  | .a t g => (s.modGroup t g fun x => 
        { (x.mapQueues fun n q => if popsOf .a n then q.releasePop else if heldFillsOf .a n then (q.settle false 16).releaseFill else q) with
          traces := x.traces.map fun r => { r with inIter := false } })
      |>.modTeam t (·.mapRings fun y => { y with heldFill := 0 })
  | .x t g => s.modGroup t g fun x => x.mapQueues fun n q =>
      if popsOf .x n then q.releasePop else if fillsOf .x n then q.releaseFill else q
  | .m t => s.modTeam t (·.mapRings fun y => { y with heldPop := 0 })
  | .c _ => s

/-- Whether every context of a signalled team has stopped (21 R468). -/
def Team.atPark (tm : Team) : Bool :=
  let stopped (c : CtxState) : Bool := c.quiet || c.parked || c.stopped
  tm.status == .running && tm.signal != .none && (tm.ctrl.atCheckpoint || tm.ctrl.ended || tm.ctrl.parked) &&
    tm.groups.all (fun g => g.parked || (stopped g.actx && stopped g.xctx)) && stopped tm.mctx

/-- A signalled team whose contexts have all stopped parks (21 R468): it has reached its checkpoint with a pre-emption pending,
and its cluster's agent takes a decision (02 R56). -/
def State.checkPark (s : State) (t : Nat) : State :=
  if (s.team t).atPark then (s.modTeam t fun x => { x with status := .parked }).agentDecide (clusterOf (s.team t).core)
  else s

/-- A record retires (02 R54). -/
def State.retireRun (s : State) (c : Ctx) : State :=
  (s.modRun c fun r => { r with st := .retired, pos := 0 }).checkPark c.team

/-- Move a record to its epilogue, or to RETIRED when it has none. -/
def State.toEpilogue (s : State) (c : Ctx) (r : RecRun) : State :=
  if r.epi.isEmpty then s.retireRun c
  else s.modRun c fun x => { x with st := .epilogue, pos := 0 }

/-- Step 3 of the boundary (07 R160): EPILOGUE, PARKED, or the next iteration. A checkpoint boundary starts the cycle count of
the team's control record again (01 R39). -/
def State.boundaryNext (s : State) (c : Ctx) : State :=
  match (s.ctxState c).run with
  | none => s
  | some r =>
    let s := s.releaseHeld c
    let ckpt := bitsOf r.lr.flags 2 1 == 1
    let s := if ckpt then s.modCtrl c.team fun k => { k with spanStart := s.cycle, late := false } else s
    if r.lastIter then
      (s.modRun c fun x => { x with iter := x.iter + 1, count := 0, sig := 0, replayed := false }).toEpilogue c r
    else
      let park := ckpt && (s.team c.team).signal != .none
      (s.modRun c fun x => { x with iter := x.iter + 1, pos := 0, count := 0, sig := 0, spanStart := s.cycle, late := false,
                                    gen0 := s.genOf c, replayed := false, st := if park then .parked else .kernel }).checkPark c.team

/-! ## Replay (20 R462) -/

/-- Causes that a replay may absorb (20 R462). -/
def qualifies (c : Cause) : Bool := (0x140 ≤ c.toNat && c.toNat ≤ 0x145) || c == 0x180 || c == 0x181

/-- Whether the raise is the first qualifying cause of its region instance. -/
def State.canReplay (s : State) (t : Nat) (r : Raise) : Bool :=
  qualifies r.cause &&
  match r.ctx with
  | some (.c _) => match (s.team t).ctrl.region with
    | some g => !g.replayed
    | none => false
  | some c => match (s.ctxState c).run with
    | some run => bitsOf run.lr.flags 4 1 == 1 && run.st == .kernel && !run.replayed
    | none => false
  | none => false

/-- The single replay of an idempotent region (20 R462). -/
def State.replay (s : State) (t : Nat) (r : Raise) : State :=
  let s := s.logInst (s.team t).inst
    { stream := r.stream, cause := 0x149, kind := 0, team := (s.team t).linear, data := r.regionPc }
  match r.ctx with
  | some (.c _) =>
    s.modTeam t fun tm => match tm.ctrl.region with
      | some g => { tm with c := g.c, lc := g.lc, genC := g.gen,
                            ctrl := { tm.ctrl with pc := g.pc, stack := g.stack, region := some { g with replayed := true } } }
      | none => tm
  | some c =>
    let s := match c with
      | .a u g => (s.modGroup u g fun x => { (x.mapQueues (fun n q =>
            if popsOf .a n then q.undoPop else if heldFillsOf .a n then q.undoFill else q)).squashVision with outst := [] })
          |>.modTeam u (·.mapRings Ring.undoFill)
      | .x u g => s.modGroup u g fun x => x.mapQueues fun n q =>
            if popsOf .x n then q.undoPop else if fillsOf .x n then q.undoFill else q
      | .m u => (s.dropOps u).modTeam u (·.mapRings Ring.undoPop)
      | .c _ => s
    let s := match (s.ctxState c).run with
      | some run => s.setGen c run.gen0
      | none => s
    let s := { s with pending := s.pending.filter fun p => !(p.who == FaultBy.ctx && p.ctx == c) }.dropStale
    (s.modCtx c fun x => { x with resume := [], parked := false }).modRun c fun x =>
      { x with pos := 0, count := 0, sig := 0, replayed := true, st := .issued, loopLeft := 0, loopOp := none }
  | none => s

/-! ## Disposition (01 R24 to R26, 20 R455) -/

/-- The core whose array runs a team's M words: the puller of its record, or its own (03 R85). -/
def State.arrayOf (s : State) (t : Nat) : Nat :=
  match s.cores.findIdx? fun c => c.pulled == some t with
  | some c => c
  | none => (s.team t).core

/-- Add an operation to an array's queue. -/
def State.pushOp (s : State) (o : MOp) : State := s.modCore (s.arrayOf o.team) fun c => { c with mops := c.mops ++ [o] }

/-- Whether the word at a record's position is the last of the last replay of an `mloop` (R309). -/
def RecRun.loopEnds (r : RecRun) : Bool := r.loopOp.isSome && r.loopLeft == 0 && r.pos + 1 == r.loopStart + r.loopLen

/-- The record as it was when the `mloop` of a post was about to issue (12 R312). -/
def RecRun.atLoop (r : RecRun) (p : LoopPost) : RecRun :=
  { r with pos := r.loopStart - 1, count := p.count, sig := p.sig, loopLeft := 0, loopLen := 0, loopOp := none }

/-- The post of an `mloop` follows the last word of its loop into the array: it is made once every operation the loop issued has
retired, and holds no place in the queue (12 R309; log 99). -/
def State.loopPost (s : State) (t : Nat) : State :=
  match (s.team t).mctx.run with
  | none => s
  | some r =>
    if r.loopEnds then
      let s := match r.loopOp with
        | some p => s.pushOp { team := t, instr := p.instr, info := p.info, runBefore := some (r.atLoop p), latchBefore := p.latch,
                               waitBefore := p.wait, issued := s.cycle, marker := true, postGone := p.gone }
        | none => s
      s.modRun (.m t) fun x => { x with loopOp := none }
    else s

/-- The position after `n` words, back to the start of an `mloop` that has replays left (12 R309). -/
def RecRun.step (r : RecRun) (n : Nat) : RecRun :=
  if r.loopLeft > 0 ∧ r.pos + n = r.loopStart + r.loopLen then { r with pos := r.loopStart, loopLeft := r.loopLeft - 1 }
  else { r with pos := r.pos + n }

/-- The word or boundary at which a cause takes EVENT has no effect and its context continues with the next word, also where the
word waited (01 R24, 07 R158). -/
def State.skip (s : State) (r : Raise) (words : Nat) (next : Nat) : State :=
  match r.ctx with
  | some (.c t) => s.modCtrl t fun k => { k with pc := next, waiting := false, ticket := none, joining := none }
  | some c =>
    if r.boundary then s.boundaryNext c
    else if !(s.ctxState c).resume.isEmpty then s.modCtx c fun x => { x with resume := x.resume.drop 1, waiting := false }
    else
      let s := match c with
        | .m t => s.loopPost t
        | _ => s
      (s.modCtx c fun x => { x with waiting := false }).modRun c fun x => x.step words
  | none => s

/-- Apply a disposition code to a raise in a team (01 R24). -/
def State.dispose (s : State) (t code : Nat) (r : Raise) (words next : Nat) : State :=
  match code with
  | 4 => (s.logRaise t 1 r).skip r words next
  | 1 => (s.logRaise t 2 r).enterHandler t r
  | 2 => ((s.logRaise t 2 r).modTeam t fun x => { x with frame := s.frameOf t r }).endByCause t true
  | 5 => ((s.logRaise t 2 r).modTeam t fun x => { x with frame := s.frameOf t r }).holdInstance (s.team t).inst r
  | _ => ((s.logRaise t 2 r).modTeam t fun x => { x with frame := s.frameOf t r }).endByCause t false

/-- Report uncorrectable data to Belvedere, once (20 R454); the controller quarantines the line (15 R367, 20 R467). -/
def State.reportData (s : State) (t : Nat) (r : Raise) : State :=
  if r.reported then s
  else if r.cause.toNat / 64 = 5 ∨ r.cause = 0x102 then
    let x := s.inst (s.team t).inst
    let s := { s with belv := s.belv ++ [.uncorrectable r.cause r.sector (s.team t).core (some (x.job, x.id))] }
    if r.cause = 0x140 ∨ r.cause = 0x102 then s.quarantine r.sector else s
  else s

/-- Whether a disposition code ends the instance (01 R26). -/
def endsInst (code : Nat) : Bool := code != 1 && code != 4

/-- Of the causes of one cycle (01 R26): whether a cause takes effect although a handler has been entered in this cycle, before
any word of the handler has issued. It ends the instance, or takes EVENT and does not compete, or takes HANDLER with the lower
code. -/
def State.sameCycle (s : State) (t : Nat) (h : Handler) (r : Raise) : Bool :=
  let code := (s.inst (s.team t).inst).card.nibble r.cause
  h.entered == s.cycle && (s.team t).ctrl.fresh && (code != 1 || decide (r.cause.toNat < h.taken.cause.toNat))

/-- The entry into a handler is taken back: the C stream is at its saved word again, and the cause that entered is held, its
context stopped. -/
def State.unenter (s : State) (t : Nat) (h : Handler) : State :=
  s.modTeam t fun tm =>
    { tm with handler := none, held := h.taken :: tm.held,
              ctrl := { tm.ctrl with pc := h.savedPc, seg := h.savedSeg, region := h.savedRegion, recIdx := h.savedRec,
                                     bound := h.savedBound, spanStart := h.savedSpan, ticket := h.savedTicket, late := h.savedLate } }

/-- Taking an exception: a cause raised in a team. A serviceable page fault parks its context (13 R330); the first
qualifying cause of an idempotent region is replayed (20 R462); while a handler runs, a cause of another context is held
(20 R456) unless both were raised in one cycle (01 R26); a cause inside the handler or in a fallback team takes STOP (01 R26);
every other cause takes the nibble of its class. `words` and `next` say where the context goes on under EVENT. Which of two
contexts' words issues first in a cycle is the schedule's choice (log 1): a cause that ends the instance leaves no later word of
the cycle to raise another. -/
def State.raise (s : State) (t : Nat) (r : Raise) (words next : Nat) : State :=
  let tm := s.team t
  let card := (s.inst tm.inst).card
  match r.ctx, r.serviceable && (s.part card.pid).fltEnable with
  | some c, true => s.parkFault t c r
  | _, _ =>
    let s := s.reportData t r
    if s.canReplay t r then s.replay t r
    else match tm.handler with
    | some h =>
      if r.ctx == some (.c t) then s.dispose t 0 r words next
      else if s.sameCycle t h r then
        (if card.nibble r.cause = 1 then s.unenter t h else s).dispose t (card.nibble r.cause) r words next
      else
        let s := match r.ctx with
          | some c => s.stopCtx c
          | none => s
        s.modTeam t fun x => { x with held := x.held ++ [{ r with reported := true }] }
    | none =>
      if tm.fallback then s.dispose t 0 r words next
      else s.dispose t (card.nibble r.cause) r words next

/-- Two causes of one boundary, that of the lower code first (01 R26): EVENT does not compete; a cause that ends the instance goes
before one that takes HANDLER; of two that end it the lower code takes effect and the other is logged; of two that take HANDLER
the lower code is served first and the other held. A replay takes precedence over both (07 R160). -/
def State.raisePair (s : State) (t : Nat) (q r : Raise) : State :=
  let code (x : Raise) : Nat := if (s.team t).fallback then 0 else (s.inst (s.team t).inst).card.nibble x.cause
  if s.canReplay t q then s.raise t q 0 0
  else if (s.team t).handler.isSome then (s.raise t q 0 0).raise t r 0 0
  else if code q = 4 then (s.logRaise t 1 q).raise t r 0 0
  else if code r = 4 then (s.logRaise t 1 r).raise t q 0 0
  else if endsInst (code q) && endsInst (code r) then (s.raise t q 0 0).logRaise t 3 r
  else if endsInst (code r) then s.raise t r 0 0
  else if endsInst (code q) then s.raise t q 0 0
  else (s.raise t q 0 0).modTeam t fun x => { x with held := x.held ++ [r] }

/-! ## The return from a handler (09 R226, 20 R455, R456) -/

/-- The held cause with the lowest code, and the others in their order. -/
def takeLowest : List Raise → Option (Raise × List Raise)
  | [] => none
  | r :: rs => match takeLowest rs with
    | none => some (r, [])
    | some (q, qs) => if r.cause.toNat ≤ q.cause.toNat then some (r, rs) else some (q, r :: qs)

/-- `eret`: the trapping context continues at its trapping word, or at step 3 of its boundary once no other cause of that boundary is
held, and the C stream at its saved PC; then the held cause with the lowest code is delivered (R456). An instance-level cause
names the word the C stream would issue next (R448). -/
def State.leaveHandler (s : State) (t : Nat) (h : Handler) : State :=
  let s := s.modTeam t fun tm =>
    { tm with handler := none,
              ctrl := { tm.ctrl with pc := h.savedPc, seg := h.savedSeg, region := h.savedRegion, recIdx := h.savedRec,
                                     bound := h.savedBound, spanStart := h.savedSpan, waiting := false, ticket := h.savedTicket, joining := none,
                                     late := h.savedLate } }
  let s := match h.trapped with
    | some (.c _) => s
    | some c =>
      if (s.team t).held.any fun q => q.ctx == some c then s
      else
        let s := s.modCtx c fun x => { x with stopped := false }
        if h.boundary then s.boundaryNext c else s
    | none => s
  match takeLowest ((s.team t).held ++ (s.team t).instHeld) with
  | none => s
  | some (r, rest) =>
    let s := s.modTeam t fun x => { x with held := rest, instHeld := [] }
    let s := match r.ctx with
      | some c => s.modCtx c fun x => { x with stopped := false }
      | none => s
    if r.ctx.isSome then s.raise t r 1 (s.team t).ctrl.pc
    else s.enterHandler t { r with pc := (s.team t).ctrl.pc }

/-! ## Checkpoints of the C stream (02 R502, 07 R161, 21 R468) -/

/-- The held instance-level cause of lowest code enters the handler of a team that runs none (02 R502, 01 R26); its occurrence was
logged when it was raised. -/
def State.deliverHeld (s : State) (t : Nat) : State :=
  match (s.team t).handler, takeLowest (s.team t).instHeld with
  | none, some (r, rs) =>
    let r := { r with pc := (s.team t).ctrl.pc }
    ((s.modTeam t fun x => { x with instHeld := rs }).modCtrl t fun k => { k with due := false }).enterHandler t r
  | _, _ => s.modCtrl t fun k => { k with due := false }

/-- An instance-level cause reaches a team at its C stream's checkpoint (02 R502). -/
def State.deliverInst (s : State) (t : Nat) : State :=
  let i := (s.team t).inst
  match (s.inst i).pendingCause with
  | none => s.deliverHeld t
  | some r =>
    let r := { r with pc := (s.team t).ctrl.pc, stream := 7, lanes := 0, group := 0xFF }
    let s := s.modInst i fun x => { x with pendingCause := none }
    s.dispose t ((s.inst i).card.nibble r.cause) r 0 (s.team t).ctrl.pc

/-- The C stream is at a checkpoint: with a stop signal it stops here; pending instance-level causes are delivered. -/
def State.checkpoint (s : State) (t : Nat) : State :=
  let s := s.deliverInst t
  if (s.team t).signal != .none then
    (s.modCtrl t fun k => { k with atCheckpoint := true }).checkPark t
  else s

/-! ## Completing a word -/

/-- What an instruction word does: it completes, it transfers control, it waits, or it raises a cause. -/
inductive Eff where
  /-- the word has its effect and the context goes on with the next word -/
  | done (s : State)
  /-- the word has its effect and the C stream continues at an address -/
  | goto (s : State) (pc : Nat)
  /-- the word has its effect, which says where the C stream goes on -/
  | left (s : State)
  /-- the word waits and issues again (07 R151, 09 R193) -/
  | wait (s : State)
  /-- the word raises a cause -/
  | trap (s : State) (r : Raise)
  deriving DecidableEq, Repr

/-- A cause at the word, with nothing changed. -/
def State.trapWith (s : State) (cause : Cause) : Eff := .trap s (s.raiseAt cause)

/-- Count and sign the words of the issued instruction (07 R162 to R164). -/
def State.countWords (s : State) : State :=
  if s.iw.resumed then s
  else match s.cur with
    | .c t => s.modCtrl t fun k =>
        { k with seg := k.seg.map fun g => { g with count := g.count + s.iw.words.length, sig := sigWords false g.sig s.iw.words } }
    | c => s.modRun c fun r =>
        { r with count := r.count + s.iw.words.length, sig := sigWords (c.stream == .m) r.sig s.iw.words, lastPc := s.iw.pc }

/-- A mismatch of count or signature is reported to Belvedere (20 R463). -/
def State.reportMismatch (s : State) (core record expected computed : Nat) : State :=
  { s with belv := s.belv ++ [.mismatch core record expected computed] }

/-- A boundary cause of a context: raised at the iteration's last kernel word (07 R160). -/
def State.boundaryRaise (s : State) (c : Ctx) (r : RecRun) (cause : Cause) : Raise :=
  { (s.raiseAt cause) with
    boundary := true, ctx := some c, stream := streamCode c.stream, pc := r.lastPc, regionPc := s.regionPc c, group := c.frameGroup,
    lanes := match c with
      | .x t g => (s.group t g).live
      | _ => 0xFFFFFFFF#32 }

/-- What the check of count and signature finds: the cause, the expected and the computed value. The count is compared before the
signature (01 R42). -/
def RecRun.checkFails (r : RecRun) : Option (Cause × Nat × Nat) :=
  if bitsOf r.lr.flags 5 1 = 0 then none
  else if r.count ≠ r.lr.expectCount then some (0x180, r.lr.expectCount, r.count)
  else if r.sig.toNat ≠ r.lr.expectSig then some (0x181, r.lr.expectSig, r.sig.toNat)
  else none

/-- The strides of a record after its iteration (01 R38). -/
def State.strides (s : State) (c : Ctx) (r : RecRun) : State :=
  match c with
  | .a t g => s.modGroup t g (applyStrides r.trips (r.iter + 1) r.lr.strides)
  | _ => s

/-- Whether the C stream of a team has passed its bound since its last checkpoint and 0x203 was not raised since (01 R39). -/
def State.overC (s : State) (t : Nat) : Bool :=
  let k := (s.team t).ctrl
  !k.ended && !k.late && decide (k.bound < s.cycle - k.spanStart)

/-- Fetch the C word at an address (05 R113, 13 R326): through the core's instruction cache, which holds 32 KiB; outside section 0
is 0x040. -/
def State.fetchWord (s : State) (t pc : Nat) : Sum MErr (W32 × State) :=
  let tm := s.team t
  let x := s.inst tm.inst
  let sec := x.image.sections.getD 0 (0, 0)
  let base := x.image.base + sec.1
  if pc < base ∨ base + sec.2 ≤ pc then .inl { cause := 0x040, kind := .fetch }
  else match s.translate tm.core none x.card.pid pc .fetch with
    | .inl e => .inl e
    | .inr (pa, s) =>
      match (s.core tm.core).icache.find? fun w => w.rev == tm.rev && w.pa == pa with
      | some w => .inr (w.word, s)
      | none =>
        match s.failAt tm.rev pc pa with
        | some c => .inl { cause := c, sector := if c.toNat / 64 = 5 then sectorOf pa else 0, kind := .fetch }
        | none =>
          let w : W32 := BitVec.ofNat 32 (natOfBytes (s.homeBytes tm.rev pc pa 4))
          .inr (w, s.modCore tm.core fun c => { c with icache := ({ rev := tm.rev, pa := pa, word := w } :: c.icache).take 8192 })

/-- The address of the C word after a word: past the literal word of a `seg` (05 R115). -/
def wordAfter (pc : Nat) (w : W32) : Nat := if w.toNat / 2 ^ 24 = 0x67 then pc + 8 else pc + 4

/-- The address of the C word after the one at an address. -/
def State.nextC (s : State) (t pc : Nat) : Nat :=
  match s.fetchWord t pc with
  | .inr (w, _) => wordAfter pc w
  | .inl _ => pc + 4

/-- 0x203 at the word the C stream would issue next. -/
def State.raiseOverC (s : State) (t : Nat) : State :=
  let pc := (s.team t).ctrl.pc
  s.raise t { cause := 0x203, ctx := some (.c t), pc := pc, regionPc := s.regionPc (.c t), time := s.now } 1 (s.nextC t pc)

/-- A checkpoint boundary that the C stream reaches past its bound ends a span that was too long (01 R39): `before` is the state
the boundary was found in. A boundary that did not reach step 3 ended no span. -/
def State.endSpanC (s : State) (before : State) (c : Ctx) : State :=
  match (before.ctxState c).run, (s.ctxState c).run with
  | some r, some r' =>
    if bitsOf r.lr.flags 2 1 == 1 && r'.iter != r.iter && before.overC c.team then s.raiseOverC c.team else s
  | _, _ => s

/-- The boundary of a kernel iteration after its last word issued (07 R160): strides, count and signature, the bound (an epilogue
counts towards the last iteration), then step 3. A mismatch and an overrun of one iteration are causes of one cycle. A mismatch
that is replayed leaves the strides unapplied: the replayed iteration starts as the iteration did, and its own boundary applies
them (20 R459, R462; log 76). -/
def State.boundary (s : State) (c : Ctx) : State :=
  match (s.ctxState c).run with
  | none => s
  | some r =>
    let t := c.team
    let report (s : State) (x : Cause × Nat × Nat) : State := s.reportMismatch (s.team t).core r.idx x.2.1 x.2.2
    let late := r.overBound s.cycle && !(r.lastIter && !r.epi.isEmpty)
    State.endSpanC (before := s) (c := c) <| match r.checkFails, late with
    | some x, _ =>
      let q := s.boundaryRaise c r x.1
      if s.canReplay t q then (report s x).raise t q 0 0
      else
        let s := report (s.strides c r) x
        if late then s.raisePair t q (s.boundaryRaise c r 0x203) else s.raise t q 0 0
    | none, true => (s.strides c r).raise t (s.boundaryRaise c r 0x203) 0 0
    | none, false => (s.strides c r).boundaryNext c

/-- An iteration of an IDEMPOTENT record starts and ends once its outstanding words have landed and its matrix operations have retired
(log 22: a choice of timing that keeps an iteration's movements its own, 20 R461). -/
def State.holdsBoundary (s : State) (c : Ctx) (r : RecRun) : Bool :=
  bitsOf r.lr.flags 4 1 == 1 && match c with
    | .a t g => !(s.group t g).outst.isEmpty || !(s.group t g).smps.isEmpty
    | .m t => s.hasOps t
    | _ => false

/-- Advance an A, X or M record past `n` words, through an `mloop` (12 R309), to the end of its body. -/
def State.advanceRun (s : State) (c : Ctx) (n : Nat) : State :=
  match (s.ctxState c).run with
  | none => s
  | some r =>
    let pos := (r.step n).pos
    let s := s.modRun c fun x => x.step n
    match r.st with
    | .prologue =>
      if pos < r.pro.length || s.holdsBoundary c r then s
      else s.modRun c fun x => { x with st := .kernel, pos := 0, count := 0, sig := 0, gen0 := s.genOf c }
    | .kernel => if pos < r.ker.length || s.holdsBoundary c r then s else s.boundary c
    | .epilogue =>
      if pos < r.epi.length then s
      else if r.overBound s.cycle then
        (s.retireRun c).raise c.team (s.raiseAt 0x203) 0 0
      else s.retireRun c
    | _ => s

/-- The group a place of storage is noted under: tiles and the scratchpad are the team's. -/
def Store.group (r : Store) (g : Nat) : Nat :=
  match r with
  | .tile _ => 0
  | .scratch _ => 0
  | _ => g

/-- Storage that a completed word has wholly overwritten is sound again (20 R450). -/
def State.repair (s : State) : State :=
  if s.badStore.isEmpty then s
  else { s with badStore := s.badStore.filter fun b =>
    !(b.1 == s.cur.team && b.2.1 == b.2.2.group s.cur.group && s.iw.writes.contains b.2.2) }

/-- The state after an instruction's effect (07 R162, 09 R193, R194). A resumed word of a resume list is not counted again
and moves no position (20 R453). -/
def Eff.commit (e : Eff) (cur : Ctx) (iw : IssueInfo) : State :=
  match e with
  | .done s =>
    let s := s.repair.countWords.modCtx cur fun x => { x with waiting := false }
    match cur with
    | .c t => s.modCtrl t fun k => { k with pc := iw.next, waiting := false, ticket := none, joining := none }
    | c => if iw.resumed then s.modCtx c fun x => { x with resume := x.resume.drop 1 }
      else s.advanceRun c iw.words.length
  | .goto s pc =>
    let s := s.repair.countWords
    match cur with
    | .c t => s.modCtrl t fun k => { k with pc := pc, waiting := false, ticket := none, joining := none }
    | _ => s
  | .left s => s
  | .wait s =>
    match cur with
    | .c t => (s.modCtrl t fun k => { k with waiting := true }).checkpoint t
    | c => s.modCtx c fun x => { x with waiting := true }
  | .trap s r => s.raise cur.team r iw.words.length iw.next

/-- The cause of storage a word would read that is uncorrectable (20 R450): 0x145 for queue storage, else 0x144. -/
def State.storeCause (s : State) : Option Cause :=
  (s.iw.reads.find? fun r => s.badStore.contains (s.cur.team, r.group s.cur.group, r)).map fun r =>
    match r with
    | .queue _ _ => 0x145
    | _ => 0x144

/-- Whether a context is inside an idempotent region (20 R459). -/
def State.regionOpen (s : State) (c : Ctx) : Bool :=
  match c with
  | .c t => (s.team t).ctrl.region.isSome
  | c => s.idempotent c

/-- Whether the issuing context is one that runs its instruction: the fault `noContext` otherwise. -/
def State.issuing (s : State) : Bool := s.canIssue s.cur

/-- A raise at the last word of the chain (05 R134). -/
def State.raiseLast (s : State) (cause : Cause) : Raise :=
  { (s.raiseAt cause) with pc := s.iw.pc + 4 * (s.iw.words.length - 1) }

/-- What precedes the effect of a stream word, in the order of 00 R12 and 05 R135: the decoding cause 0x041 that `decode` finds
(the field violations known only at issue), 0x042 outside the streams the word is legal in, the opcode's own field conditions
(`fields`), a word an idempotent region forbids (0x04E, 20 R460), and uncorrectable storage it would read (20 R450). -/
def State.wordCause (s : State) (legal : List Stream) (decode fields : State → Option Raise) : Option Raise :=
  match decode s with
  | some r => some r
  | none =>
    if !legal.contains s.cur.stream then some (s.raiseLast 0x042)
    else match fields s with
      | some r => some r
      | none =>
        if s.iw.forbidden && (s.regionOpen s.cur) then some (s.raiseAt 0x04E)
        else s.storeCause.map fun c => s.raiseAt c

/-- 0x041 for a literal field of a word outside the values its opcode allows (00 R12, 05 R135). -/
def badField (bad : Bool) (s : State) : Option Raise := if bad then some (s.raiseAt 0x041) else none

/-- Run a meaning of a stream instruction: its first cause, or its effect. -/
def State.word (s : State) (legal : List Stream) (f : State → Eff)
    (decode fields : State → Option Raise := fun _ => none) : Outcome :=
  if !s.issuing then .fault .noContext
  else match s.wordCause legal decode fields with
    | some r => .next ((Eff.trap s r).commit s.cur s.iw)
    | none => .next ((f s).commit s.cur s.iw)

end Sys2Proof.Machine
end

