-- ==== Sys2Proof/Machine/CoreMem.lean ====
section
/-!
DEFINITION. Memory accesses of a core's contexts: the checks of 09 R192, watch windows (14 R351, R352), loads and stores
through the L1, atomics at their point of coherence (13 R318, 18 R417 to R420) with promotion (R427, R428).
-/
namespace Sys2Proof.Machine

/-! ## Watch windows (14 R351, R352) -/

/-- Partition of a team. -/
def State.pidOf (s : State) (t : Nat) : Nat := (s.inst (s.team t).inst).card.pid

/-- The armed windows of core channels: core, channel, partition, first address, length, DONE. -/
def State.windows (s : State) : List (Nat × Nat × Nat × Nat × Nat × Nat) :=
  (List.range s.cores.length).flatMap fun k =>
    (List.range 8).filterMap fun c =>
      let x := (s.core k).chan c
      if x.armed then some (k, c, s.pidOf x.wmTeam, x.wmBase, x.wmLen, x.wmDone) else none

/-- Whether a line of a partition overlaps an armed window: no L1 holds it (R351). -/
def State.inWindow (s : State) (pid va : Nat) : Bool :=
  s.windows.any fun w => match w with
    | (_, _, p, base, len, _) => p == pid && decide (lineOf va < base + len) && decide (base < lineOf va + 128)

/-- Whether a line overlaps the window of an ingress channel's latest frame (R357). -/
def State.inIngress (s : State) (pa : Nat) : Bool :=
  s.lodge.ingress.any fun g => g.winLen != 0 && decide (lineOf pa < g.winBase + g.winLen) && decide (g.winBase < lineOf pa + 128)

/-- Whether no L1 holds a line. -/
def State.uncached (s : State) (pid va pa : Nat) : Bool := s.inWindow pid va || s.inIngress pa

/-- Whether bytes `lo` to `hi` of a window's space hold one between base + DONE and base + length (R352). -/
def holdsRange (base len done lo hi : Nat) : Bool := decide (max lo (base + done) < min hi (base + len))

/-- Whether a window holds a request at physical addresses: by the sectors of the window the addresses map to. -/
def State.holdsPhys (s : State) (w : Nat × Nat × Nat × Nat × Nat × Nat) (pa n : Nat) : Bool :=
  match w with
  | (_, _, p, base, len, done) =>
    (List.range ((pa + n + 31) / 32 - pa / 32)).any fun k =>
      match s.vaIn p base len ((pa / 32 + k) * 32) with
      | some v => holdsRange base len done v (v + 32)
      | none => false

/-- Whether a page is being moved: every access to it waits (13 R337). -/
def State.moving (s : State) (pa : Nat) : Bool := s.lodge.moves.any fun m => m.1 == pa / 2 ^ 15

/-- What an access to a page that is being moved waits for, in place of a channel. -/
def movingPage : Nat × Nat := (1000, 0)

/-- The window of a list, or the page move, that holds an access of a partition: by its addresses, or by the physical addresses they
share with the window (R352). -/
def State.heldIn (s : State) (ws : List (Nat × Nat × Nat × Nat × Nat × Nat)) (pid va n : Nat) : Option (Nat × Nat) :=
  if ws.isEmpty && s.lodge.moves.isEmpty then none
  else
    let pa := match s.walk 1000 pid va with
      | .inr (e, _) => some (e.pa + (va - e.va))
      | .inl _ => none
    match ws.find? fun w => match w with
      | (_, _, p, base, len, done) => (p == pid && holdsRange base len done (sectorOf va) (sectorOf (va + n - 1) + 32)) ||
          pa.any fun a => s.holdsPhys w a n with
    | some w => some (w.1, w.2.1)
    | none => if pa.any s.moving then some movingPage else none

/-- The channel an access waits for (R352): its sector holds a byte between base + DONE and base + length. -/
def State.heldBy (s : State) (pid va n : Nat) : Option (Nat × Nat) := s.heldIn s.windows pid va n

/-- Whether an access by physical address waits (R352: a request from any requester). -/
def State.heldPhys (s : State) (pa n : Nat) : Bool := s.windows.any (fun w => s.holdsPhys w pa n) || s.moving pa

/-! ## Watch windows end (R352) -/

/-- Requests held on a channel's window complete with an abort completion: their words raise 0x148. -/
def State.withdrawHeld (s : State) (core ch : Nat) : State :=
  let mark (o : Outst) : Outst := if o.heldOn = some (core, ch) then { o with withdrawn := true } else o
  let markChan (h : Chan) : Chan := if h.heldOn = some (core, ch) then { h with withdrawn := true } else h
  let ts := s.teams.map fun (tm : Team) =>
    ({ tm with
      ctrl := { tm.ctrl with withdrawn := tm.ctrl.withdrawn || tm.ctrl.heldOn == some (core, ch) }
      groups := tm.groups.map fun (g : Group) => ({ g with outst := g.outst.map mark } : Group) } : Team)
  let cs := s.cores.map fun (c : Core) => ({ c with chans := c.chans.map markChan } : Core)
  let hs := s.lodge.holds.map fun (h : Hold) => if h.chan = (core, ch) then ({ h with withdrawn := true } : Hold) else h
  { s with teams := ts, cores := cs, lodge.holds := hs }

/-- Note that a unit or a word waits on a window; forget it; whether its window has ended under it (R352). -/
def State.hold (s : State) (who : Holder) (w : Nat × Nat) : State :=
  { s with lodge.holds := { who := who, chan := w } :: s.lodge.holds.filter (·.who != who) }
def State.unhold (s : State) (who : Holder) : State := { s with lodge.holds := s.lodge.holds.filter (·.who != who) }
def State.holdLost (s : State) (who : Holder) : Bool := s.lodge.holds.any fun h => h.who == who && h.withdrawn

/-- Disarm a channel's window. -/
def State.disarm (s : State) (core ch : Nat) : State :=
  if ((s.core core).chan ch).armed then
    (s.modChan core ch fun h => { h with armed := false, wmLen := 0, wmDone := 0 }).withdrawHeld core ch
  else s

/-- The windows a team armed are disarmed when it ends. -/
def State.disarmTeam (s : State) (t : Nat) : State :=
  ((s.windows.filter fun w => ((s.core w.1).chan w.2.1).wmTeam == t).foldl (fun (s : State) w => s.disarm w.1 w.2.1) s)

/-! ## Plain accesses -/

/-- Result of an access: its value and the new state, a wait on a watch window, or an error. -/
inductive MRes (α : Type) where
  | ok (a : α) (s : State)
  | wait (chan : Nat × Nat)
  | err (e : MErr)

/-- Who accesses an address for a team. -/
def State.accOf (s : State) (t va : Nat) : Acc :=
  { core := (s.team t).core, rev := s.revAt revDepth (s.team t).rev va, pid := s.pidOf t, priv := s.inPool (s.pidOf t) va }

/-- The address checks of R192: bits [63:51], alignment, translation. -/
def State.checkAddr (s : State) (t : Nat) (reg : Option TlbOwner) (va size : Nat) (kind : AccessKind) : Sum MErr (Nat × State) :=
  if 2 ^ 51 ≤ va then .inl { cause := 0x101, vaddr := va, kind := kind }
  else if va % size ≠ 0 then .inl { cause := 0x0C1, vaddr := va, kind := kind }
  else s.translate (s.team t).core reg (s.pidOf t) va kind

/-- A home failure as an error of an access. VADDR is zero for data that fail (20 R448). -/
def failErr (c : Cause) (_va pa : Nat) : MErr :=
  { cause := c, sector := if c.toNat / 64 = 5 then sectorOf pa else 0 }

/-- Read translated bytes for a context of a core: through its L1, or at home when a watch window covers the line. -/
def State.coreRead (s : State) (t va pa n : Nat) : MRes (List Byte) :=
  let a := s.accOf t va
  match s.heldBy a.pid va n with
  | some c => .wait c
  | none =>
    if s.uncached a.pid va pa then
      match s.failAt a.rev va pa with
      | some c => .err (failErr c va pa)
      | none => .ok (s.homeBytes a.rev va pa n) (s.touchAcc a.rev va pa n)
    else match s.l1Fail a va pa n with
      | some e => .err e
      | none => let r := s.l1Read a va pa n; .ok r.1 r.2

/-- Write translated bytes for a context of a core: into its L1, at home under a watch window, or as a register write. -/
def State.coreWrite (s : State) (t va pa : Nat) (bs : List Byte) : MRes Unit :=
  let a := s.accOf t va
  match s.physTarget pa with
  | .window off =>
    let w : RegWrite := { off := off, data := BitVec.ofNat 64 (natOfBytes bs), bytes := bs.length }
    .ok () { s with lodge.regQueue := s.lodge.regQueue ++ [w] }
  | _ =>
    match s.heldBy a.pid va bs.length with
    | some c => .wait c
    | none =>
      if s.uncached a.pid va pa then .ok () (s.homeWriteBytes a.pid a.rev va pa bs)
      else .ok () (s.l1Write a va pa bs)

/-! ## Scopes and atomics -/

/-- Whether a scope code is .clu or wider (0 .grp, 1 .team, 2 .clu, 3 .dev, 4 .sys). -/
def wideScope (scope : Nat) : Bool := decide (2 ≤ scope)
/-- Whether an order code has a release side, an acquire side (0 .rlx, 1 .acq, 2 .rel, 3 .ar). -/
def relOrder (o : Nat) : Bool := o == 2 || o == 3
def acqOrder (o : Nat) : Bool := o == 1 || o == 3

/-- The scope actions of the release and acquire sides (13 R318). -/
def State.releaseAt (s : State) (core scope : Nat) : State := if wideScope scope then s.releaseCore core else s
def State.acquireAt (s : State) (core scope : Nat) : State := if wideScope scope then s.acquireCore core else s

/-- A read performed at the home of an address (R417): the core's own dirty bytes of the line go home first, and the line
leaves the L1. -/
def State.homeReadAt (s : State) (t va pa n : Nat) : MRes (List Byte) :=
  let a := s.accOf t va
  match s.heldBy a.pid va n with
  | some c => .wait c
  | none =>
    match s.physTarget pa, s.failAt a.rev va pa with
    | .window off, _ =>
      let r := windowRead s (off / 8 * 8)
      .ok (bytesOfNat n (r.1.toNat / 2 ^ (off % 8 * 8))) r.2
    | _, some c => .err (failErr c va pa)
    | _, none =>
      let s := (s.flushLine a.core pa).touchAcc a.rev va pa n
      .ok (s.homeBytes a.rev va pa n) s

/-- A write performed at the home of an address (R417). -/
def State.homeWriteAt (s : State) (t va pa : Nat) (bs : List Byte) : MRes Unit :=
  let a := s.accOf t va
  match s.physTarget pa, s.heldBy a.pid va bs.length with
  | .window _, _ => s.coreWrite t va pa bs
  | _, some c => .wait c
  | _, none => .ok () ((s.flushLine a.core pa).homeWriteBytes a.pid a.rev va pa bs)

/-- A read-modify-write at the home of an address (R420): the old value. The core's own dirty bytes of the line go home and
the line leaves the L1; a registered line of another core is recalled (R428). `f` gives the new value, none for no write. -/
def State.atomicHome (s : State) (t va pa n : Nat) (f : Nat → Option Nat) : MRes Nat :=
  let a := s.accOf t va
  match s.heldBy a.pid va n with
  | some c => .wait c
  | none =>
    match s.physTarget pa, s.failAt a.rev va pa with
    | .window off, _ =>
      let r := windowRead s (off / 8 * 8)
      let old := bitsOf r.1.toNat (off % 8 * 8) (8 * n)
      (match f old with
      | some v => .ok old { r.2 with lodge.regQueue :=
          r.2.lodge.regQueue ++ [RegWrite.mk off (BitVec.ofNat 64 v) n] }
      | none => .ok old r.2)
    | _, some c => .err (failErr c va pa)
    | _, none =>
      let s := ((s.flushLine a.core pa).recall a.core pa).touchAcc a.rev va pa n
      let old := natOfBytes (s.homeBytes a.rev va pa n)
      match f old with
      | some v => .ok old (s.homeWriteBytes a.pid a.rev va pa (bytesOfNat n v))
      | none => .ok old s

/-- A read-modify-write in the core's L1 (.grp and .team, R318). -/
def State.atomicL1 (s : State) (t va pa n : Nat) (f : Nat → Option Nat) : MRes Nat :=
  match s.coreRead t va pa n with
  | .wait c => .wait c
  | .err e => .err e
  | .ok bs s =>
    let old := natOfBytes bs
    match f old with
    | none => .ok old s
    | some v => match s.coreWrite t va pa (bytesOfNat n v) with
      | .ok _ s => .ok old s
      | .wait c => .wait c
      | .err e => .err e

/-- An atomic with its order at its scope (R318). -/
def State.atomicAt (s : State) (t va pa n scope order : Nat) (f : Nat → Option Nat) : MRes Nat :=
  let core := (s.team t).core
  if !wideScope scope then s.atomicL1 t va pa n f
  else
    let s := if relOrder order then s.releaseCore core else s
    match s.atomicHome t va pa n f with
    | .ok v s => .ok v (if acqOrder order then s.acquireCore core else s)
    | .wait c => .wait c
    | .err e => .err e

/-- Entries of the promotion table of a die. -/
def State.promoCount (s : State) (die : Nat) : Nat := (s.promo.filter fun p => homeDie p.line == die).length

/-- Register a line for a core (R428). -/
def State.register (s : State) (core pa : Nat) : State :=
  let p : Promo := { line := lineOf pa, core := core }
  { s with promo := if s.promo.contains p then s.promo else p :: s.promo,
           recalled := s.recalled.filter (· != p) }

/-- A promoted atomic at .team (R428): in the L1 with its line registered; after a recall, or with the table full, at home as
an .ar at .dev. One that registers the line starts from the line's bytes at home, and with an acquire side it acts as an acquire at
the wider scope (R427). -/
def State.atomicPrm (s : State) (t va pa n order : Nat) (f : Nat → Option Nat) : MRes Nat :=
  let core := (s.team t).core
  let p : Promo := { line := lineOf pa, core := core }
  let mine := s.promo.contains p
  let full := !mine && decide (4096 ≤ s.promoCount (homeDie pa))
  if full || s.recalled.contains p then
    match s.atomicAt t va pa n 3 3 f with
    | .ok v s => .ok v (if full then s else s.register core pa)
    | .wait c => .wait c
    | .err e => .err e
  else
    let s := if mine then s else (s.flushLine core pa).recall core pa
    match s.atomicL1 t va pa n f with
    | .ok v s => .ok v ((if acqOrder order && !mine then s.acquireCore core else s).register core pa)
    | .wait c => .wait c
    | .err e => .err e

/-! ## C words over memory (09 R192, R193) -/

/-- A C word that waits on a watch window (14 R352). -/
def State.waitOn (s : State) (t : Nat) (c : Nat × Nat) : Eff := .wait (s.modCtrl t fun k => { k with heldOn := some c })

/-- A C word ends with an error of its access. -/
def State.errEff (s : State) (e : MErr) : Eff := .trap s (s.raiseErr e)

/-- Continue a C word after an access; a window withdrawn meanwhile is 0x148 (14 R352). -/
def State.withMem {α : Type} (s : State) (t : Nat) (r : MRes α) (k : α → State → Eff) : Eff :=
  if (s.team t).ctrl.withdrawn then
    let s := s.modCtrl t fun k => { k with withdrawn := false, heldOn := none }
    s.trapWith 0x148
  else match r with
    | .wait c => s.waitOn t c
    | .err e => s.errEff e
    | .ok a s => k a (s.modCtrl t fun k => { k with heldOn := none })

/-- Continue a C word after the address checks of an access. -/
def State.withAddr (s : State) (t va size : Nat) (kind : AccessKind) (k : Nat → State → Eff) : Eff :=
  match s.checkAddr t none va size kind with
  | .inl e => s.errEff e
  | .inr (pa, s) => k pa s

/-- Read `n` bytes for a C word, 8 bytes at a time from an 8-byte aligned address; used for tables a word names. -/
def State.readUnits (s : State) (t va : Nat) : Nat → MRes (List Byte)
  | 0 => .ok [] s
  | n + 1 =>
    match s.checkAddr t none va 8 .read with
    | .inl e => .err e
    | .inr (pa, s) =>
      match s.coreRead t va pa 8 with
      | .wait c => .wait c
      | .err e => .err e
      | .ok bs s =>
        match s.readUnits t (va + 8) n with
        | .ok rest s => .ok (bs ++ rest) s
        | .wait c => .wait c
        | .err e => .err e

/-! ## Sampler caches (16 R386) -/

/-- Fill a line of a cluster's sampler cache from the home; bytes the home cannot give, or a watch window
holds, stay out (16 R386, 14 R352). -/
def State.sampFill (s : State) (k pid rev va pa : Nat) : State :=
  let s := s.touchAcc rev (lineOf va) (lineOf pa) 128
  { s with samp := (List.range 128).foldl (fun l j =>
      let a := lineOf pa + j
      if l.any (fun b => b.cluster == k && b.pid == pid && b.rev == rev && b.pa == a) || (s.failAt rev (lineOf va + j) a).isSome ||
          (s.heldBy pid (lineOf va + j) 1).isSome then l
      else { cluster := k, rev := rev, pid := pid, pa := a, val := s.homeByte rev (lineOf va + j) a } :: l) s.samp }

end Sys2Proof.Machine
end

