-- ==== Sys2Proof/Machine/Hotness.lean ====
section
/-!
DEFINITION. Hotness and page migration (13 R334 to R338, 22 R493): notifications, the shadow table, the moves in progress, and
the access counters of compatibility mode.
-/
namespace Sys2Proof.Machine

/-! ## Pages and the shadow table (R336, R337) -/

/-- Moves of a page (of 32 KiB, by number) in the current window. -/
def State.pageMoves (s : State) (page : Nat) : Nat := ((s.lodge.moved.find? (·.page == page)).map (·.moves)).getD 0

/-- Whether a page is pinned-shared. -/
def State.pinnedPage (s : State) (page : Nat) : Bool := decide (s.lodge.migLimit.toNat ≤ s.pageMoves page)

/-- Whether a page of a 64 KiB block is pinned-shared. -/
def State.pinnedBlock (s : State) (block : Nat) : Bool := s.pinnedPage (2 * block) || s.pinnedPage (2 * block + 1)

/-- Address of a block's shadow entry. -/
def State.shadowAddr (s : State) (block : Nat) : Nat := s.lodge.shadowBase.toNat + block * 8

/-- Rewrite a block's shadow entry with the given compatibility count, and with MOVES, PINNED and HOME as they stand. -/
def State.writeShadow (s : State) (block count : Nat) : State :=
  let a := s.shadowAddr block
  let e := at_ (min count 0xFFFF) 48 + at_ ((s.pageMoves (2 * block) + s.pageMoves (2 * block + 1)) % 256) 40 +
    flag (s.pinnedBlock block) 39 + at_ (s.pageHome (2 * block) % 4) 37
  s.physWrite a (bytesOfNat 8 e)

/-- COMPAT_COUNT of a block. -/
def State.shadowCount (s : State) (block : Nat) : Nat :=
  let a := s.shadowAddr block
  bitsOf (natOfBytes (s.homeBytes 0 a a 8)) 48 16

def State.touchShadow (s : State) (block : Nat) : State := s.writeShadow block (s.shadowCount block)

/-! ## Notifications (R335) -/

/-- Threshold counter value of a notification. -/
def State.hotThresh (s : State) : Nat := bitsOf s.lodge.hotCtl.toNat 48 16

/-- A notification into the ring; one that finds the ring full (`ev.busy`) is dropped. The layout of its 16 bytes is free
(log 32). -/
def State.notifyHot (s : State) (block requester count : Nat) : State :=
  let pinned := s.pinnedBlock block
  if s.ev.busy then { s with lodge.hotCtl := s.lodge.hotCtl ||| 4 }
  else
    let a := bitsOf s.lodge.hotCtl.toNat 11 37 * 2048 + s.lodge.hotNext % 256 * 16
    let s := s.physWrite a ((List.range 16).map fun k => Config.hotByte block requester count pinned k)
    { s with lodge.hotNext := s.lodge.hotNext + 1, out := s.out ++ [.hotness block requester count pinned] }

/-- The migration engine moves the pages of a block towards a package (AUTO), but for pinned-shared ones. -/
def State.autoMove (s : State) (block requester : Nat) : State :=
  if !s.lodge.hotCtl.getLsbD 0 || s.lodge.migWindow == 0 || decide (4 ≤ requester) then s
  else
    let ps := [2 * block, 2 * block + 1].filter fun p =>
      !s.pinnedPage p && s.pageHome p != requester && !s.lodge.moves.any (·.1 == p)
    { s with lodge.moves := s.lodge.moves ++ ps.map fun p => (p, requester, false) }

/-- A counter of a block reaches the threshold. -/
def State.hotBlock (s : State) (block requester count : Nat) : State := (s.notifyHot block requester count).autoMove block requester

/-! ## Compatibility mode (R335) -/

/-- An evicted first-level entry adds its counter to the shadow entry of its block. -/
def State.evictEntry (s : State) (e : TlbEntry) : State :=
  match s.compatMode, e.owner with
  | true, .core _ =>
    let block := e.pa / 65536
    let old := s.shadowCount block
    let sum := min (old + e.count) 0xFFFF
    let s := s.writeShadow block sum
    if old < s.hotThresh ∧ s.hotThresh ≤ sum then s.hotBlock block s.pkg.toNat sum else s
  | _, _ => s

/-- The `n`-th cached translation of the package is dropped (R328). -/
def State.evictTlb (s : State) (n : Nat) : State :=
  match s.tlb[n]? with
  | none => s
  | some e => ({ s with tlb := s.tlb.eraseIdx n }).evictEntry e

/-! ## Moves (R337, R338; 22 R493) -/

/-- Record a page's home and moves. -/
def State.setPage_ (s : State) (page home moves : Nat) : State :=
  { s with lodge.moved := { page := page, home := home, moves := moves } :: s.lodge.moved.filter (·.page != page) }

/-- The first move in progress ends: the L2 keeps no line of the page, the new home is recorded, and a requested move sets DONE. -/
def State.moveComplete (s : State) : State :=
  match s.lodge.moves with
  | [] => s
  | (page, target, asked) :: rest =>
    let s := { s with lodge.moves := rest, lodge.l2 := s.lodge.l2.filter (·.line / 2 ^ 15 != page),
                      lodge.migReq := if asked then s.lodge.migReq ||| 0x10 else s.lodge.migReq }
    (s.setPage_ page target (s.pageMoves page + 1)).touchShadow (page / 2)

def execPageMoveComplete (s : State) : Outcome := .next s.moveComplete

/-- The window that holds a time, by its start. -/
def State.migStart (s : State) : Nat :=
  let len := s.lodge.migWindow.toNat * 1024
  if len = 0 then s.lodge.migWinStart else s.now / len * len

/-- A migration window starts: counters clear, pinned-shared pages are released. -/
def State.migWindowStart (s : State) : State :=
  if s.lodge.migWindow = 0 ∨ s.migStart = s.lodge.migWinStart then s
  else
    let blocks := (s.lodge.moved.map (·.page / 2)).eraseDups
    let cs := s.lodge.ctls.map fun (c : MemCtl) => { c with blocks := [] }
    let ms := s.lodge.moved.map fun (m : MovedPage) => { m with moves := 0 }
    let s := { s with lodge.migWinStart := s.migStart, lodge.ctls := cs, lodge.moved := ms }
    blocks.foldl (fun (s : State) b => s.touchShadow b) s

def execMigrationWindowStart (s : State) : Outcome := .next s.migWindowStart

end Sys2Proof.Machine
end

