-- ==== Sys2Proof/Machine/Issue.lean ====
section
/-!
DEFINITION. The fetch and decoding of the next word of a context, with the storage it reads and overwrites (05 R112 to R115, 07 R151,
R159, 20 R450).
-/
namespace Sys2Proof.Machine

/-! ## The storage a word reads and overwrites (20 R450) -/

/-- A register of the direct words of a stream. -/
def directStore (st : Stream) (n : Nat) : Option Store :=
  match st with
  | .c => if n = 0 then none else some (.c n)
  | .a => if n = 0 ∨ 32 ≤ n then none else some (.g n)
  | .x => if n = 0 ∨ 32 ≤ n then none else some (.s n)
  | .m => none

/-- The source register fields of a direct word (05 R116, 06 R142). -/
def directReads (w : Nat) : List Nat :=
  let op := w / 2 ^ 24
  let d := bitsOf w 18 6
  let a := bitsOf w 12 6
  let b := bitsOf w 6 6
  if op ≤ 0x17 ∨ (0x24 ≤ op ∧ op ≤ 0x26) ∨ (0x28 ≤ op ∧ op ≤ 0x2A) ∨ op = 0x2C then [a, b]
  else if op = 0x27 ∨ (0x52 ≤ op ∧ op ≤ 0x55) then [a, b, d]
  else if op ≤ 0x1F ∨ op = 0x2B ∨ op = 0x2D ∨ op = 0x2E then [a]
  else if 0x21 ≤ op ∧ op ≤ 0x23 then [d]
  else if 0x31 ≤ op ∧ op ≤ 0x36 then [d, a]
  else if op = 0x41 ∨ op = 0x42 ∨ op = 0x47 ∨ op = 0x4E ∨ op = 0x57 ∨ op = 0x5B ∨ op = 0x5C ∨ op = 0x5D ∨ op = 0x5F then [a, b]
  else if op = 0x51 then [d, a]
  else if op = 0x38 ∨ op = 0x3A ∨ op = 0x3B ∨ op = 0x40 ∨ op = 0x43 ∨ op = 0x44 ∨ op = 0x45 ∨ (0x48 ≤ op ∧ op ≤ 0x4D) ∨
    op = 0x50 ∨ op = 0x5E ∨ op = 0x60 ∨ op = 0x64 ∨ op = 0x6B then [a]
  else []

/-- A source operand of a template row. -/
def tplStore (st : Stream) (g : Group) (src : Byte) : Option Store :=
  let n := indexOf src
  match kindOf src with
  | 0 => some (if st == .x then .v n else .i n)
  | 1 => some (.queue n (Team.queue g n).head)
  | 2 => directStore st n
  | _ => none

/-- The storage an entry names outside its source fields: the selector predicate of `vsel`, the live registers of `defer`, the tile of
`mread`, the compare register of `acas` (10 R243, R256, R258; 11 R282). -/
def auxReads (op : Nat) (t : Tpl) : List Store :=
  let aux := t.aux.toNat
  if op = 0x10 then (if bitsOf aux 16 4 = 0 then [] else [.p (bitsOf aux 16 4)])
  else if op = 0x47 then (List.range (bitsOf aux 16 4)).map fun k => .v (indexOf t.srcA + k)
  else if op = 0x48 then [.tile (bitsOf aux 16 3)]
  else if op = 0x60 then [.i (bitsOf aux 26 3)]
  else []

/-- The storage an instruction reads. -/
def storesRead (i : Instr) (st : Stream) (g : Group) (w : Nat) : List Store :=
  match i.tpl? with
  | some (op, t, p) =>
    let u := tUse op t
    auxReads op t ++ ((if u.a && op != 0x47 then [tplStore st g t.srcA] else []) ++ (if u.b then [tplStore st g t.srcB] else []) ++
      (if u.c then [tplStore st g t.srcC] else []) ++ (if p = 0 then [] else [some (Store.p p.toNat)])).filterMap id
  | none => if st == .m then [] else (directReads w).filterMap (directStore st)

/-- The storage an instruction wholly overwrites: a direct destination, or a vector destination written in every lane. -/
def storesWritten (i : Instr) (st : Stream) (g : Group) (w : Nat) : List Store :=
  match i.tpl? with
  | some (op, t, p) =>
    if p = 0 ∧ g.live = 0xFFFFFFFF#32 ∧ (tUse op t).d then
      (match t.dstKind.toNat with
      | 0 => [if st == .x then .v t.dstIdx.toNat else .i t.dstIdx.toNat]
      | 1 => [.queue t.dstIdx.toNat (Team.queue g t.dstIdx.toNat).tail]
      | 2 => (directStore st t.dstIdx.toNat).toList
      | _ => [.p t.dstIdx.toNat])
    else []
  | none =>
    let op := w / 2 ^ 24
    if st == .m ∨ op = 0x27 ∨ (0x21 ≤ op ∧ op ≤ 0x23) ∨ 0x2E ≤ op then []
    else (directStore st (bitsOf w 18 6)).toList

/-- Words an idempotent region forbids (20 R460): by the D-space opcode of a C word; atomics, `ldf` with CLR, `bar.arrive` and
`qadv` in A; `defer`, `itemnext`, `bar.arrive` and `qadv` in X; a post and `mreq` in M. -/
def idemForbidden (i : Instr) (st : Stream) (w : Nat) : Bool :=
  let op := w / 2 ^ 24
  match st with
  | .c => !(op ≤ 0x3C || op == 0x50 || op == 0x51 || op == 0x56 || op == 0x61 || op == 0x63 || op == 0x65 || op == 0x66 ||
      op == 0x67 || op == 0x6A)
  | .m => match i.mat? with
    | some (op, m) => m.postEn || op == 3
    | none => false
  | _ => match i.tpl? with
    | some (op, t, _) =>
      (0x59 ≤ op && op ≤ 0x61) || (op == 0x52 && t.aux.getLsbD 26) || op == 0x47 || op == 0x4A
    | none => op == 0x58 || op == 0x2F

/-! ## Fetch -/

/-- The instruction offered to a context, or the state in which the fetch ended without one. -/
inductive Issued where
  | run (i : Instr) (s : State)
  | stop (s : State)
  deriving DecidableEq, Repr

/-- A fetch error as a cause at the word; 0x040 has no VADDR. -/
def State.fetchRaise (s : State) (e : MErr) : Raise := s.raiseErr e

/-- The causes of entry found at the first word of a control record: a stale GEN_PIN (01 R28), then the bound against
PREEMPT_LIMIT.ITER (21 R473). -/
def State.entryCause (s : State) (t : Nat) : Option Cause :=
  let k := (s.team t).ctrl
  if !k.fresh then none
  else if k.pinStale then some 0x283
  else if s.preIter < k.bound then some 0x204
  else none

/-- Raise a cause found at entry; under EVENT the record is not started and the context stays idle (01 R24). A stale GEN_PIN is
raised once, at the team's first word (01 R28). -/
def State.raiseEntry (s : State) (t : Nat) (c : Cause) : State :=
  let s := if c = 0x283 then s.modCtrl t fun k => { k with pinStale := false } else s
  let event := !(s.team t).fallback && (s.team t).handler.isNone && (s.inst (s.team t).inst).card.nibble c == 4
  let s := s.raise t (s.raiseAt c) 1 (s.team t).ctrl.pc
  if event then s.modCtrl t fun k => { k with ended := true } else s

/-- The next word of a C context. -/
def State.issueC (s : State) (t : Nat) : Issued :=
  let k := (s.team t).ctrl
  let s := { s with cur := .c t, iw := { pc := k.pc, next := k.pc + 4 } }
  match (s.team t).craise, (s.team t).handler with
  | r :: rs, none =>
    .stop ((s.modTeam t fun x => { x with craise := rs }).raise t
      { r with ctx := some (.c t), stream := 0, pc := k.pc, lanes := 0xFFFFFFFF#32, group := 0xFF,
               regionPc := s.regionPc (.c t), time := s.now } 1 (s.nextC t k.pc))
  | _, _ =>
    if k.due then .stop (s.deliverHeld t)
    else match s.entryCause t with
    | some c => .stop (s.raiseEntry t c)
    | none =>
      match s.fetchWord t k.pc with
      | .inl e => .stop (s.raise t (s.fetchRaise e) 1 (k.pc + 4))
      | .inr (w, s) =>
        let s := s.modCtrl t fun k => { k with fresh := false }
        let i := (decodeWords .c 0 (fun _ => none) [w]).1
        .run i { s with iw := { pc := k.pc, next := wordAfter k.pc w, words := [w.setWidth 64],
                                reads := storesRead i .c {} w.toNat, writes := storesWritten i .c {} w.toNat,
                                forbidden := idemForbidden i .c w.toNat } }

/-- The words of a record's current body. -/
def RecRun.body (r : RecRun) : List W64 :=
  match r.st with
  | .prologue => r.pro
  | .kernel => r.ker
  | .epilogue => r.epi
  | _ => []

/-- Word offset of a record's current body in its section. -/
def RecRun.bodyOff (r : RecRun) : Nat :=
  match r.st with
  | .prologue => r.lr.proOff
  | .epilogue => r.lr.epiOff
  | _ => r.lr.kerOff

/-- The instruction at a record's position in its body and its number of words. -/
def State.nextWord (s : State) (c : Ctx) (r : RecRun) : Instr × Nat :=
  let tm := s.team c.team
  let ws := r.body.drop r.pos
  if c.stream == .m then (decodeMatrix (ws.headD 0), 1)
  else decodeWords c.stream (tm.group c.group).vregs (fun n => tm.tpl.getD n none) (ws.map fun (w : W64) => w.setWidth 32)

/-- Whether a core reads uncorrectable storage it is not asked for: decode does not depend on data. The next word or chain
of an A, X or M context, from its resume list (20 R453) or its loop buffer (07 R159). -/
def State.issueRun (s : State) (c : Ctx) : Issued :=
  let tm := s.team c.team
  let g := tm.group c.group
  let x := s.ctxState c
  match x.resume with
  | o :: _ => .run o.instr { s with cur := c, iw := { o.info with resumed := true } }
  | [] =>
    match x.run with
    | none => .stop s
    | some r =>
      let st := c.stream
      let width := if st == .m then 8 else 4
      let ws := r.body.drop r.pos
      let pc := (s.inst tm.inst).image.codeAddr (streamCode st) (r.bodyOff + r.pos) width
      let s := { s with cur := c, iw := { pc := pc, next := pc + width } }
      if ws.isEmpty then .stop (s.advanceRun c 0)
      else match st, g.araise, tm.handler with
      | .a, q :: qs, none =>
        .stop ((s.modGroup c.team c.group fun y => { y with araise := qs }).raise c.team
          { q with ctx := some c, stream := 1, pc := pc, group := c.group, regionPc := s.regionPc c, time := s.now } 1 0)
      | _, _, _ =>
        let d := s.nextWord c r
        .run d.1 { s with iw := { pc := pc, next := pc + width * d.2, words := ws.take d.2,
                                  reads := storesRead d.1 st g (ws.headD 0).toNat,
                                  writes := storesWritten d.1 st g (ws.headD 0).toNat,
                                  forbidden := idemForbidden d.1 st (ws.headD 0).toNat } }

/-- The next word of a context that can issue. -/
def State.issueNext (s : State) (c : Ctx) : Issued :=
  match c with
  | .c t => s.issueC t
  | c => s.issueRun c

/-- Whether the word a context was offered waits (07 R151). -/
def State.waits (s : State) (c : Ctx) : Bool := (s.team c.team).waits c

/-- After a turn of a context: a word that did not wait has issued, and its core is no longer without an issued word (13 R333). -/
def State.noteIssued (s : State) (c : Ctx) : State :=
  if s.waits c then s else s.modCore (s.team c.team).core fun k => { k with idle := 0 }

/-- Whether an instruction is an event row, which no stream issues. -/
def eventRow (i : Instr) : Bool :=
  match i with
  | .reservedEncoding _ _ => false
  | _ => i.tpl?.isNone && i.mat?.isNone && (encodeDirect i).isNone

end Sys2Proof.Machine
end

