-- ==== Sys2Proof/Machine/Blocks.lean ====
section
/-!
DEFINITION. Matrix operand blocks: packed element streams (08 R171), scaled values (08 R172, R173), block layouts and sizes
(12 R294, R295, R302), chunk accumulation (08 R186, R187; 12 R298) and the blocks that `mreq` and `mst` write (12 R303, R306).
-/
namespace Sys2Proof.Machine

/-! ## Scales (08 R172, R173) -/

/-- Whether a code carries scales. -/
def scaled (code : Nat) : Bool := (14 ≤ code && code ≤ 25) || code = 28 || code = 29 || code = 30

/-- Elements of a scale group, for lines of `k` elements. -/
def groupSize (code k : Nat) : Nat :=
  match code with
  | 21 => 64
  | 24 => 64
  | 22 => 128
  | 25 => 128
  | 28 => 16
  | 30 => k
  | _ => 32

/-- Bytes of a scale entry; 0 for a code without scales. -/
def entryBytes (code : Nat) : Nat :=
  if 14 ≤ code ∧ code ≤ 19 then 1
  else if 20 ≤ code ∧ code ≤ 25 then 4
  else match code with
    | 28 => 1
    | 29 => 2
    | 30 => 4
    | _ => 0

/-- The scale of an entry. -/
def scaleVal (code entry : Nat) : Val :=
  if 14 ≤ code ∧ code ≤ 19 then e8m0Val (entry % 256)
  else if code = 28 then e4m3.decode (entry % 128)
  else if code = 30 then fp32.decode (entry % 2 ^ 32)
  else fp16.decode (entry % 2 ^ 16)

/-- The zero point of an entry. -/
def zeroPoint (code entry : Nat) : Nat :=
  if 20 ≤ code ∧ code ≤ 22 then entry / 2 ^ 16 % 256
  else if 23 ≤ code ∧ code ≤ 25 then entry / 2 ^ 16 % 16
  else 0

/-- A value by a power of two. -/
def Val.shift (v : Val) (k : Int) : Val :=
  match v with
  | .fin n m e => .fin n m (e + k)
  | v => v

/-- The element before its scale: less its zero point, MXINT8 in units of 2⁻⁶. -/
def bareVal (code elem entry : Nat) : Val :=
  if 20 ≤ code ∧ code ≤ 25 then .ofInt ((elem : Int) - zeroPoint code entry)
  else if code = 19 then ((elemOf code).val elem).shift (-6)
  else (elemOf code).val elem

/-- The exact value of an element of a block with its scale entry (08 R173). -/
def scaledVal (code elem entry : Nat) : Val :=
  let v := bareVal code elem entry
  if !scaled code then v
  else match scaleVal code entry, v with
    | .nan, _ => .nan
    | .inf _, .fin n m _ => if m = 0 then .nan else .inf n
    | .inf _, v => v
    | .fin _ _ _, .nan => .nan
    | .fin _ _ _, .inf n => .inf n
    | sc, v => mulVal sc v

/-! ## Blocks (12 R294, R295) -/

/-- The next 64-byte boundary. -/
def align64 (n : Nat) : Nat := ceilDiv n 64 * 64

/-- Bytes of the element plane and metadata of a block. -/
def planeBytes (sparse : Bool) (code : Nat) : Nat :=
  if sparse then align64 (512 * elemBits code) + 1024 else 1024 * elemBits code

/-- Offset of the scale plane. -/
def scaleOff (sparse : Bool) (code : Nat) : Nat := align64 (planeBytes sparse code)

/-- BlockBytes of a format (R295): 64 lines of 128 elements. -/
def blockBytes (sparse : Bool) (code : Nat) : Nat :=
  if scaled code then scaleOff sparse code + 64 * (128 / groupSize code 128) * entryBytes code
  else planeBytes sparse code

/-- Element `k` of a line given as a number. -/
def elemAt (b raw k : Nat) : Nat := raw / 2 ^ (k * b) % 2 ^ b

/-- A slice of bytes as a number. -/
def sliceNat (bs : List Byte) (off n : Nat) : Nat := natOfBytes ((bs.drop off).take n)

/-- The lines of a block of `lines` lines of `k` elements: exact values. -/
def denseLines (code lines k : Nat) (bs : List Byte) : List (List Val) :=
  let b := elemBits code
  let g := groupSize code k
  let so := align64 (lines * k * b / 8)
  (List.range lines).map fun l =>
    let raw := sliceNat bs (l * (k * b / 8)) (k * b / 8)
    let scales := (List.range (k / g)).map fun j => sliceNat bs (so + (l * (k / g) + j) * entryBytes code) (entryBytes code)
    (List.range k).map fun i => scaledVal code (elemAt b raw i) (scales.getD (i / g) 0)

/-- The lines of a sparse A block in its dense form: pruned positions are +0 (R294, 08 R189). -/
def sparseLines (code : Nat) (bs : List Byte) : List (List Val) :=
  let b := elemBits code
  let g := groupSize code 128
  let mo := align64 (512 * b)
  let so := scaleOff true code
  (List.range 64).map fun l =>
    let raw := sliceNat bs (l * (8 * b)) (8 * b)
    let meta_ := sliceNat bs (mo + l * 16) 16
    let scales := (List.range (128 / g)).map fun j => sliceNat bs (so + (l * (128 / g) + j) * entryBytes code) (entryBytes code)
    (List.range 128).map fun i =>
      let grp := i / 4
      let p0 := meta_ / 2 ^ (4 * grp) % 4
      let p1 := meta_ / 2 ^ (4 * grp + 2) % 4
      let sc := scales.getD (i / g) 0
      if i % 4 = p0 then scaledVal code (elemAt b raw (2 * grp)) sc
      else if i % 4 = p1 then scaledVal code (elemAt b raw (2 * grp + 1)) sc
      else .zero

/-- Lines and columns exchanged. -/
def transposeLines (n : Nat) (ls : List (List Val)) : List (List Val) :=
  (List.range n).map fun i => ls.map fun l => l.getD i .zero

/-! ## Accumulation (08 R186, R187) -/

/-- One product: with FP32 (code 0) rounded first (R186). -/
def product (fa fb : Nat) (x y : Val) : Val :=
  if fa = 0 ∨ fb = 0 then fp32.decode (fp32.round .rne false 0 (mulVal x y)) else mulVal x y

/-- The integer a finite value stands for. -/
def intOfVal : Val → Int
  | .fin n m e => signedInt n m * 2 ^ e.toNat
  | _ => 0

/-- The accumulator element as a value, in an accumulate format (0 FP32, 1 INT32, 2 FP16). -/
def accVal (accf : Nat) (w : W32) : Val :=
  match accf with
  | 1 => .ofInt w.toInt
  | 2 => fp16.decode (w.toNat % 2 ^ 16)
  | _ => fp32.decode w.toNat

/-- Accumulate a chunk's products into an element (R187). -/
def accumulate (accf : Nat) (acc : W32) (ps : List Val) : W32 :=
  match accf with
  | 1 => acc + BitVec.ofInt 32 ((ps.map intOfVal).sum)
  | 2 => BitVec.ofNat 32 (fp16.round .rne false 0 (sumVals .rne (accVal 2 acc :: ps)))
  | _ => BitVec.ofNat 32 (fp32.round .rne false 0 (sumVals .rne (accVal 0 acc :: ps)))

/-- One chunk of 16 positions for a band of rows of a tile (12 R298, R300). -/
def chunkStep (fa fb accf : Nat) (a b : List (List Val)) (q lo hi : Nat) (tile : List W32) : List W32 :=
  let cut (l : List Val) : List Val := (l.drop (16 * q)).take 16
  let as_ := a.map cut
  let bs := b.map cut
  (List.range 4096).map fun i =>
    let old := tile.getD i 0
    if lo ≤ i / 64 ∧ i / 64 < hi then
      accumulate accf old (List.zipWith (product fa fb) (as_.getD (i / 64) []) (bs.getD (i % 64) []))
    else old

/-- Steps of a V-core (R300): block, chunk, band of 16 rows. `blocks` are the operand blocks; `n` steps from step `k`. -/
def mmaSteps (fa fb accf : Nat) (blocks : List (List (List Val) × List (List Val))) (k : Nat) : Nat → List W32 → List W32
  | 0, tile => tile
  | n + 1, tile =>
    let blk := blocks.getD (k / 32) ([], [])
    let j := k % 4
    mmaSteps fa fb accf blocks (k + 1) n (chunkStep fa fb accf blk.1 blk.2 (k / 4 % 8) (16 * j) (16 * j + 16) tile)

/-! ## Written blocks (12 R303, R306) -/

/-- Elements packed little-endian into bytes (08 R171). -/
def packElems (b : Nat) (ws : List Nat) : List Byte :=
  bytesOfNat (ceilDiv (ws.length * b) 8) (ws.foldr (fun w n => w % 2 ^ b + n * 2 ^ b) 0)

/-- EMAX of an MX code (R303). -/
def mxEmax (code : Nat) : Int :=
  match code with
  | 14 => 8
  | 15 => 15
  | 16 => 4
  | 17 => 2
  | 18 => 2
  | _ => 0

/-- Exponent of the largest magnitude of a group, none when all are zero. -/
def groupExp (vs : List Val) : Option Int :=
  vs.foldl (fun best v => match v with
    | .fin _ m e =>
      if m = 0 then best
      else
        let x : Int := e + bitLen m - 1
        match best with
        | none => some x
        | some y => some (max x y)
    | _ => best) none

/-- A group of 32 in an MX code: scale and elements (R303). -/
def mxGroup (code : Nat) (mode : RMode) (vs : List Val) : Nat × List Nat :=
  if vs.any fun v => match v with
    | .fin _ _ _ => false
    | _ => true then (0xFF, vs.map fun _ => 0)
  else
    let x : Int := match groupExp vs with
      | none => -127
      | some e => clampInt (e - mxEmax code) (-127) 127
    ((x + 127).toNat, vs.map fun v => (elemOf code).write mode true 0 (v.shift ((if code = 19 then 6 else 0) - x)))

/-- Cut a list into groups of 32. -/
def groups32 : Nat → List Val → List (List Val)
  | 0, _ => []
  | n + 1, vs => vs.take 32 :: groups32 n (vs.drop 32)

/-- The bytes of a block of lines written in a destination code (R303): element plane, then at the next 64-byte boundary the
scale plane of an MX code. -/
def writeLines (code : Nat) (mode : RMode) (sat : Bool) (ls : List (List Val)) : List Byte :=
  if 14 ≤ code ∧ code ≤ 19 then
    let gs := ls.map fun l => (groups32 (l.length / 32) l).map (mxGroup code mode)
    let plane := gs.flatMap fun l => packElems (elemBits code) (l.flatMap (·.2))
    plane ++ List.replicate (align64 plane.length - plane.length) 0 ++ gs.flatMap fun l => l.map fun g => BitVec.ofNat 8 g.1
  else ls.flatMap fun l => packElems (elemBits code) (l.map fun v => (elemOf code).write mode sat 0 v)

/-- The destination codes of `mreq` (R303) and of `mst` (R306). -/
def reqCode (d : Nat) : Bool := d ≤ 19 || d = 26 || d = 27 || d = 31
def mstCode (d : Nat) : Bool := d ≤ 19 || d = 26

end Sys2Proof.Machine
end

