-- ==== Sys2Proof/Machine/Flags.lean ====
section
/-!
DEFINITION. The relations and class masks of compare instructions. The device keeps no arithmetic status flags (08 R176);
what a compare computes goes to a register or a predicate.
-/
namespace Sys2Proof.Machine

/-- The relations of `fcmp` and `vfcmp` (09 R199): 0 EQ, 1 LT, 2 LE, 3 UN, 4 NE. -/
def floatRel (rel : Nat) (a b : Val) : Bool :=
  let un := a == .nan || b == .nan
  match rel with
  | 0 => !un && eqVal a b
  | 1 => !un && ltVal a b
  | 2 => !un && (ltVal a b || eqVal a b)
  | 3 => un
  | _ => un || !eqVal a b

/-- The relations of `vcmp` (10 R243): 0 eq, 1 ne, 2 lt, 3 le, 4 gt, 5 ge. -/
def intRel (rel : Nat) (x y : Int) : Bool :=
  match rel with
  | 0 => x == y
  | 1 => x != y
  | 2 => decide (x < y)
  | 3 => decide (x ≤ y)
  | 4 => decide (y < x)
  | _ => decide (y ≤ x)

/-- The class mask of `vfclass` (10 R249). -/
def floatClass (f : FloatFmt) (w : Nat) : Nat :=
  match f.decode w with
  | .nan => 0x100
  | .inf true => 0x001
  | .inf false => 0x080
  | .fin n m _ =>
    if m = 0 then (if n then 0x008 else 0x010)
    else if f.isSubnormal w then (if n then 0x004 else 0x020)
    else if n then 0x002 else 0x040

end Sys2Proof.Machine
end

