-- ==== Sys2Proof/Machine/Scalar.lean ====
section
/-!
DEFINITION. The scalar families of the C, A and X streams: integer, immediate and long-immediate words (09 R195 to R197)
and scalar binary32 (09 R198 to R200).
-/
namespace Sys2Proof.Machine

/-- The streams of the integer families and of scalar binary32 (06 R142). -/
def intStreams : List Stream := [.c, .a, .x]
def floatStreams : List Stream := [.c, .x]

/-- `d := f(a, b)` on 64-bit register values. -/
def binaryInt (s : State) (d a b : BitVec 6) (f : W64 → W64 → W64) : Outcome :=
  s.word intStreams fun s => .done (s.writeFrom d [a, b] (f (s.readReg a) (s.readReg b)))

/-- `d := f(a, imm)` with imm12 sign-extended (05 R117). -/
def immInt (s : State) (d a : BitVec 6) (imm : BitVec 12) (f : W64 → W64 → W64) : Outcome :=
  s.word intStreams fun s => .done (s.writeFrom d [a] (f (s.readReg a) (imm.signExtend 64)))

/-- `d := f(a, n)` for the immediate shifts, n 0 to 63. -/
def shiftInt (s : State) (d a sh : BitVec 6) (f : W64 → W64 → W64) : Outcome :=
  s.word intStreams fun s => .done (s.writeFrom d [a] (f (s.readReg a) (sh.setWidth 64)))

/-- A truth value as a register value. -/
def boolReg (b : Bool) : W64 := if b then 1 else 0

/-! The operations of R195. -/

def opMulh (a b : W64) : W64 := BitVec.ofInt 64 (a.toInt * b.toInt / 2 ^ 64)
def opMulhu (a b : W64) : W64 := BitVec.ofNat 64 (a.toNat * b.toNat / 2 ^ 64)
/-- Signed quotient truncated toward zero; division by zero gives -1. -/
def opDiv (a b : W64) : W64 := if b = 0 then -1 else BitVec.ofInt 64 (a.toInt.tdiv b.toInt)
def opDivu (a b : W64) : W64 := if b = 0 then -1 else a / b
/-- Signed remainder with the sign of `a`; by zero it is `a`. -/
def opRem (a b : W64) : W64 := if b = 0 then a else BitVec.ofInt 64 (a.toInt.tmod b.toInt)
def opRemu (a b : W64) : W64 := if b = 0 then a else a % b
def opShl (a b : W64) : W64 := a <<< (b.toNat % 64)
def opShr (a b : W64) : W64 := a >>> (b.toNat % 64)
def opSar (a b : W64) : W64 := a.sshiftRight (b.toNat % 64)
def opMin (a b : W64) : W64 := if a.slt b then a else b
def opMax (a b : W64) : W64 := if a.slt b then b else a
def opMinu (a b : W64) : W64 := if a.ult b then a else b
def opMaxu (a b : W64) : W64 := if a.ult b then b else a

def execAdd (d a b : BitVec 6) (s : State) : Outcome := binaryInt s d a b (· + ·)
def execSub (d a b : BitVec 6) (s : State) : Outcome := binaryInt s d a b (· - ·)
def execMul (d a b : BitVec 6) (s : State) : Outcome := binaryInt s d a b (· * ·)
def execMulh (d a b : BitVec 6) (s : State) : Outcome := binaryInt s d a b opMulh
def execMulhu (d a b : BitVec 6) (s : State) : Outcome := binaryInt s d a b opMulhu
def execDiv (d a b : BitVec 6) (s : State) : Outcome := binaryInt s d a b opDiv
def execDivu (d a b : BitVec 6) (s : State) : Outcome := binaryInt s d a b opDivu
def execRem (d a b : BitVec 6) (s : State) : Outcome := binaryInt s d a b opRem
def execRemu (d a b : BitVec 6) (s : State) : Outcome := binaryInt s d a b opRemu
def execAnd (d a b : BitVec 6) (s : State) : Outcome := binaryInt s d a b (· &&& ·)
def execOr (d a b : BitVec 6) (s : State) : Outcome := binaryInt s d a b (· ||| ·)
def execXor (d a b : BitVec 6) (s : State) : Outcome := binaryInt s d a b (· ^^^ ·)
def execShl (d a b : BitVec 6) (s : State) : Outcome := binaryInt s d a b opShl
def execShr (d a b : BitVec 6) (s : State) : Outcome := binaryInt s d a b opShr
def execSar (d a b : BitVec 6) (s : State) : Outcome := binaryInt s d a b opSar
def execMin (d a b : BitVec 6) (s : State) : Outcome := binaryInt s d a b opMin
def execMax (d a b : BitVec 6) (s : State) : Outcome := binaryInt s d a b opMax
def execMinu (d a b : BitVec 6) (s : State) : Outcome := binaryInt s d a b opMinu
def execMaxu (d a b : BitVec 6) (s : State) : Outcome := binaryInt s d a b opMaxu
def execSlt (d a b : BitVec 6) (s : State) : Outcome := binaryInt s d a b fun x y => boolReg (x.slt y)
def execSltu (d a b : BitVec 6) (s : State) : Outcome := binaryInt s d a b fun x y => boolReg (x.ult y)
def execSeq (d a b : BitVec 6) (s : State) : Outcome := binaryInt s d a b fun x y => boolReg (x == y)
def execSne (d a b : BitVec 6) (s : State) : Outcome := binaryInt s d a b fun x y => boolReg (x != y)

def execAddi (d a : BitVec 6) (imm : BitVec 12) (s : State) : Outcome := immInt s d a imm (· + ·)
def execAndi (d a : BitVec 6) (imm : BitVec 12) (s : State) : Outcome := immInt s d a imm (· &&& ·)
def execOri (d a : BitVec 6) (imm : BitVec 12) (s : State) : Outcome := immInt s d a imm (· ||| ·)
def execXori (d a : BitVec 6) (imm : BitVec 12) (s : State) : Outcome := immInt s d a imm (· ^^^ ·)
def execSlti (d a : BitVec 6) (imm : BitVec 12) (s : State) : Outcome := immInt s d a imm fun x y => boolReg (x.slt y)
def execShli (d a sh : BitVec 6) (s : State) : Outcome := shiftInt s d a sh opShl
def execShri (d a sh : BitVec 6) (s : State) : Outcome := shiftInt s d a sh opShr
def execSari (d a sh : BitVec 6) (s : State) : Outcome := shiftInt s d a sh opSar

/-! Long immediates (R197): part of the register replaced, the other bits kept. -/

/-- Replace bits `[lo+w-1:lo]` of a value. -/
def setBits (x : W64) (lo w : Nat) (v : Nat) : W64 :=
  BitVec.ofNat 64 (x.toNat / 2 ^ (lo + w) * 2 ^ (lo + w) + v * 2 ^ lo + x.toNat % 2 ^ lo)

/-- The destination field read as a source: the register a long immediate keeps bits of. -/
def State.readDst (s : State) (d : BitVec 6) : W64 := s.readReg d

def execLimm (d : BitVec 6) (imm : BitVec 18) (s : State) : Outcome :=
  s.word intStreams fun s => .done (s.writeFrom d [] (imm.signExtend 64))
def execLimmh (d : BitVec 6) (imm : BitVec 18) (s : State) : Outcome :=
  s.word intStreams fun s => .done (s.writeFrom d [d] (setBits (s.readDst d) 18 18 imm.toNat))
def execLimmx (d : BitVec 6) (imm : BitVec 18) (s : State) : Outcome :=
  s.word intStreams fun s => .done (s.writeFrom d [d] (setBits (s.readDst d) 36 18 imm.toNat))
def execLimmt (d : BitVec 6) (imm : BitVec 10) (s : State) : Outcome :=
  s.word intStreams fun s => .done (s.writeFrom d [d] (setBits (s.readDst d) 54 10 imm.toNat))

def execNop (s : State) : Outcome := s.word intStreams fun s => .done s

/-! ## Scalar binary32 (R198 to R200) -/

/-- A float element with FPCTL.FLUSH applied to the source (08 R180). -/
def flushIn (flush : Bool) (f : FloatFmt) (w : Nat) : Nat := if flush then f.flush (w % 2 ^ f.width) else w % 2 ^ f.width

/-- A binary32 source: bits [31:0] of its register. -/
def State.f32Src (s : State) (n : BitVec 6) : Val :=
  fp32.decode (flushIn (s.team s.cur.team).fpFlush fp32 (s.readReg n).toNat)

/-- The rounding mode of a word's mode code: code 7 is FPCTL.MODE (08 R177). -/
def State.mode (s : State) (code : BitVec 3) : RMode := rmodeOf code.toNat (s.team s.cur.team).fpMode.toNat

/-- The draw of a scalar word that rounds in SR, and the state with the generator stepped once (08 R179, 09 R198). -/
def State.scalarDraw (s : State) (m : RMode) : Nat × State :=
  if m == .sr then
    let g := genStep (s.genOf s.cur)
    (g.toNat, s.setGen s.cur g)
  else (0, s)

/-- A float result: rounded, FLUSH applied to a subnormal result, upper bits zero (R198). -/
def State.f32Result (s : State) (d : BitVec 6) (srcs : List (BitVec 6)) (sat : Bool) (code : BitVec 3) (x : RMode → Val) : Eff :=
  let m := s.mode code
  let u := s.scalarDraw m
  let r := fp32.round m sat u.1 (x m)
  .done (u.2.writeFrom d srcs (BitVec.ofNat 64 (flushIn (s.team s.cur.team).fpFlush fp32 r)))

def execFadd (d a b : BitVec 6) (sat : Bool) (mode : BitVec 3) (s : State) : Outcome :=
  s.word floatStreams fun s => s.f32Result d [a, b] sat mode fun m => sumVals m [s.f32Src a, s.f32Src b]
def execFsub (d a b : BitVec 6) (sat : Bool) (mode : BitVec 3) (s : State) : Outcome :=
  s.word floatStreams fun s => s.f32Result d [a, b] sat mode fun m => sumVals m [s.f32Src a, (s.f32Src b).neg]
def execFmul (d a b : BitVec 6) (sat : Bool) (mode : BitVec 3) (s : State) : Outcome :=
  s.word floatStreams fun s => s.f32Result d [a, b] sat mode fun _ => mulVal (s.f32Src a) (s.f32Src b)
def execFfma (d a b : BitVec 6) (sat : Bool) (mode : BitVec 3) (s : State) : Outcome :=
  s.word floatStreams fun s => s.f32Result d [a, b, d] sat mode fun m =>
    sumVals m [mulVal (s.f32Src a) (s.f32Src b), s.f32Src d]

/-- `fmin` and `fmax` do not round: the chosen operand, or the canonical NaN (08 R175). -/
def State.f32Pick (s : State) (d a b : BitVec 6) (x : Val) : Eff :=
  .done (s.writeFrom d [a, b] (BitVec.ofNat 64 (fp32.round .rne false 0 x)))

def execFmin (d a b : BitVec 6) (s : State) : Outcome :=
  s.word floatStreams fun s => s.f32Pick d a b (minVal (s.f32Src a) (s.f32Src b))
def execFmax (d a b : BitVec 6) (s : State) : Outcome :=
  s.word floatStreams fun s => s.f32Pick d a b (maxVal (s.f32Src a) (s.f32Src b))
def execFcmp (d a b : BitVec 6) (rel : BitVec 3) (s : State) : Outcome :=
  s.word floatStreams fun s => .done (s.writeFrom d [a, b] (boolReg (floatRel rel.toNat (s.f32Src a) (s.f32Src b))))

/-- The types of `fcvt` (R200). -/
def fcvtType (t : Nat) : Elem :=
  match t with
  | 0 => .float fp32
  | 1 => .float fp16
  | 2 => .float bf16
  | 3 => .int { width := 32, signed := true }
  | 4 => .int { width := 32, signed := false }
  | 5 => .int { width := 64, signed := true }
  | _ => .int { width := 64, signed := false }

/-- The source value of a conversion, FLUSH applied to a float source; an integer zero has the mode's sign (08 R175). -/
def cvtSrc (flush : Bool) (m : RMode) (el : Elem) (w : Nat) : Val :=
  match el with
  | .float f => f.decode (flushIn flush f w)
  | el => exactZero m (el.val w)

/-- The element of a conversion's result, FLUSH applied to a float result. -/
def cvtDst (flush : Bool) (el : Elem) (m : RMode) (sat : Bool) (u : Nat) (x : Val) : Nat :=
  match el with
  | .float f => flushIn flush f (f.round m sat u x)
  | el => el.write m sat u x

/-- A conversion result in its register: INT32 sign-extended, the others zero-extended (R200). -/
def fcvtReg (dst r : Nat) : W64 := if dst = 3 then (BitVec.ofNat 32 r).signExtend 64 else BitVec.ofNat 64 r

def execFcvt (d a : BitVec 6) (src dst : BitVec 3) (sat : Bool) (mode : BitVec 3) (s : State) : Outcome :=
  s.word floatStreams (fields := badField (src == dst || src == 7 || dst == 7 || (decide (3 ≤ src.toNat) && decide (3 ≤ dst.toNat)))) fun s =>
    let m := s.mode mode
    let u := s.scalarDraw m
    let flush := (s.team s.cur.team).fpFlush
    let x := cvtSrc flush m (fcvtType src.toNat) (s.readReg a).toNat
    .done (u.2.writeFrom d [a] (fcvtReg dst.toNat (cvtDst flush (fcvtType dst.toNat) m sat u.1 x)))

end Sys2Proof.Machine
end

