-- ==== Sys2Proof/Machine/Control.lean ====
section
/-!
DEFINITION. The C stream: control flow (09 R201, R202), loop registers and tables (R203 to R208), memory and atomics (R215,
R216), barriers (R218 to R221), slot counters and the ready table (R222, R223), and system words (R226 to R230, R232).
-/
namespace Sys2Proof.Machine

/-- A word of the C stream alone; `bad` says that a literal field is outside the values its opcode allows. -/
def cWord (s : State) (f : State → Nat → Eff) (bad : Bool := false) : Outcome :=
  s.word [.c] (fun s => f s s.cur.team) (fields := badField bad)

/-! ## Control flow (R201, R202) -/

/-- Transfer control: a target outside section 0 or not a multiple of 4 raises 0x041 and nothing changes (05 R113). `s'` is
the state with the word's other effects. -/
def State.jumpTo (s s' : State) (t : Nat) (target : Int) : Eff :=
  let x := s.inst (s.team t).inst
  let sec := x.image.sections.getD 0 (0, 0)
  let base := x.image.base + sec.1
  if target % 4 ≠ 0 ∨ target < base ∨ (base + sec.2 : Nat) ≤ target then s.trapWith 0x041
  else .goto s' target.toNat

/-- The target of a branch: PC + 4 × offset (05 R117). -/
def State.relTarget (s : State) (off : Int) : Int := (s.iw.pc : Int) + 4 * off

/-- A branch on a condition of two registers. -/
def branch (s : State) (a b : BitVec 6) (off : BitVec 12) (taken : W64 → W64 → Bool) : Outcome :=
  cWord s fun s t =>
    if taken ((s.team t).cReg a) ((s.team t).cReg b) then s.jumpTo s t (s.relTarget off.toInt) else .done s

def execB (off : BitVec 24) (s : State) : Outcome := cWord s fun s t => s.jumpTo s t (s.relTarget off.toInt)
def execBeq (a b : BitVec 6) (off : BitVec 12) (s : State) : Outcome := branch s a b off (· == ·)
def execBne (a b : BitVec 6) (off : BitVec 12) (s : State) : Outcome := branch s a b off (· != ·)
def execBlt (a b : BitVec 6) (off : BitVec 12) (s : State) : Outcome := branch s a b off fun x y => x.slt y
def execBge (a b : BitVec 6) (off : BitVec 12) (s : State) : Outcome := branch s a b off fun x y => !x.slt y
def execBltu (a b : BitVec 6) (off : BitVec 12) (s : State) : Outcome := branch s a b off fun x y => x.ult y
def execBgeu (a b : BitVec 6) (off : BitVec 12) (s : State) : Outcome := branch s a b off fun x y => !x.ult y
def execJr (a : BitVec 6) (s : State) : Outcome := cWord s fun s t => s.jumpTo s t ((s.team t).cReg a).toNat

def execBrx (a n : BitVec 6) (s : State) : Outcome :=
  cWord s fun s t => s.jumpTo s t (s.relTarget (1 + min ((s.team t).cReg a).toNat (n.toNat - 1) : Nat))

/-- `loop`: a count of zero stays zero and falls through. -/
def execLoop (a : BitVec 6) (off : BitVec 12) (s : State) : Outcome :=
  cWord s (bad := a == 0) fun s t =>
    let v := (s.team t).cReg a
    if v = 0 then .done s
    else
      let s' := s.modTeam t (·.setC a (v - 1))
      if v = 1 then .done s' else s.jumpTo s' t (s.relTarget off.toInt)

/-- A call (R202): depth 16 is 0x048; c62 and the return stack take PC + 4. -/
def State.callTo (s : State) (t : Nat) (target : Int) : Eff :=
  if 16 ≤ (s.team t).ctrl.stack.length then s.trapWith 0x048
  else
    let ra := BitVec.ofNat 64 (s.iw.pc + 4)
    let s' := (s.modTeam t (·.setC 62 ra)).modCtrl t fun k => { k with stack := ra :: k.stack }
    s.jumpTo s' t target

def execCall (off : BitVec 24) (s : State) : Outcome := cWord s fun s t => s.callTo t (s.relTarget off.toInt)
def execCallr (a : BitVec 6) (s : State) : Outcome := cWord s fun s t => s.callTo t ((s.team t).cReg a).toNat

def execRet (s : State) : Outcome :=
  cWord s fun s t =>
    match (s.team t).ctrl.stack with
    | [] => s.trapWith 0x049
    | ra :: rest =>
      let s' := (s.modTeam t (·.setC 62 (rest.headD 0))).modCtrl t fun k => { k with stack := rest }
      s.jumpTo s' t ra.toNat

/-! ## Loop registers and tables (R203 to R207) -/

/-- `c[a] + imm12`, the operand of the table words. -/
def Team.cSum (tm : Team) (a : BitVec 6) (imm : BitVec 12) : W64 := tm.cReg a + imm.signExtend 64

def execLset (n a : BitVec 6) (imm : BitVec 12) (s : State) : Outcome :=
  cWord s (bad := decide (8 ≤ n.toNat)) fun s t =>
    .done (s.modTeam t fun tm => { tm with lc := setAt 0 tm.lc n.toNat ((tm.cSum a imm).setWidth 32) })

/-- Bytes of a section of a team's image, read at home in the team's revision. -/
def State.sectionBytes (s : State) (t sec off n : Nat) : Sum MErr (List Byte) :=
  let x := s.inst (s.team t).inst
  s.engineReadMem x.card.pid (s.team t).rev (x.image.base + (x.image.sections.getD sec (0, 0)).1 + off) n .read

/-- Size of a section. -/
def State.sectionSize (s : State) (t sec : Nat) : Nat := ((s.inst (s.team t).inst).image.sections.getD sec (0, 0)).2

/-- A format declaration (01 R32): its code when valid. Bits [6:5], which the rule calls zero, are not looked at (log 79: no rule says
what becomes of a declaration that sets them). -/
def fmtDecl (b : Byte) : Option (BitVec 5) := if b.getLsbD 7 then some (b.setWidth 5) else none

def execFmtset (n a : BitVec 6) (imm : BitVec 12) (s : State) : Outcome :=
  cWord s (bad := !(decide (n.toNat < 16) || (n == 63 && a == 0 && imm == 0))) fun s t =>
    let v := (s.team t).cSum a imm
    if n.toNat < 16 then
      if 31 < v.toNat then s.trapWith 0x041
      else .done (s.modTeam t fun tm => { tm with ft := setAt none tm.ft n.toNat (some (v.setWidth 5)) })
    else match s.sectionBytes t 6 0 (min 16 (s.sectionSize t 6)) with
      | .inl e => s.errEff e
      | .inr bs => .done (s.modTeam t fun tm => { tm with ft := (List.range 16).map fun k => fmtDecl (bs.getD k 0) })

/-- Whether every A and X (and M) record of a team is RETIRED, PARKED or ABORTED (05 R126, R205). -/
def Team.axQuiet (tm : Team) : Bool := tm.groups.all fun g => g.actx.quiet && g.xctx.quiet
def Team.amQuiet (tm : Team) : Bool := tm.mctx.quiet && tm.groups.all fun g => g.actx.quiet

/-- A ring from a declaration entry (01 R33). -/
def ringDecl (bs : List Byte) : Ring :=
  { base := natOfBytes (bs.take 4), slotBytes := natOfBytes ((bs.drop 4).take 2), count := (bs.getD 6 0).toNat }

def execMbset (n : BitVec 6) (k : BitVec 12) (s : State) : Outcome :=
  cWord s (bad := decide (8 ≤ n.toNat) || decide (8 ≤ k.toNat)) fun s t =>
    if s.sectionSize t 5 < 8 * k.toNat + 8 then s.trapWith 0x041
    else match s.sectionBytes t 5 (8 * k.toNat) 8 with
      | .inl e => s.errEff e
      | .inr bs =>
        let r := (bs.getD 7 0).toNat
        if r < 128 ∨ r % 8 ≠ n.toNat then s.trapWith 0x041
        else if !(s.team t).amQuiet then .wait s
        else .done (s.modTeam t fun tm => { tm with rings := setAt none tm.rings n.toNat (some (ringDecl bs)) })

/-- `tpload` (R206, 05 R125, R126): the block replaces the valid bits and the entries it holds. -/
def execTpload (a : BitVec 6) (imm : BitVec 12) (s : State) : Outcome :=
  cWord s fun s t =>
    let n := ((s.team t).cSum a imm).toNat
    if s.sectionSize t 4 < (n + 1) * 1040 then s.trapWith 0x041
    else if !(s.team t).axQuiet then .wait s
    else match s.sectionBytes t 4 (n * 1040) 1040 with
      | .inl e => s.errEff e
      | .inr bs =>
        let valid := natOfBytes (bs.take 8)
        .done (s.modTeam t fun tm =>
          { tm with tplBlock := n, tpl := (List.range 64).map fun k =>
              if bitsOf valid k 1 = 1 then some (BitVec.ofNat 128 (natOfBytes ((bs.drop (16 + 16 * k)).take 16))) else none })

/-- Groups of a mask, lowest first. -/
def maskGroups (m : Nat) : List Nat := (List.range 16).filter fun g => bitsOf m g 1 == 1

/-- Whether a mask names only groups of a team (R207, R208): bits [63:16] zero and none at or above GRID.GROUPS. -/
def Team.maskOk (tm : Team) (m : Nat) : Bool := decide (m < 2 ^ 16) && (maskGroups m).all fun g => decide (g < tm.groups.length)

/-- A queue as `qcfg` leaves it (07 R155). -/
def freshQueue (depth : Nat) : Que := if depth = 0 then {} else { depth := depth, slots := List.replicate depth {} }

/-- Configured depths of a group with one queue given another depth (03 R69). -/
def Group.depths (g : Group) (q depth : Nat) : Nat :=
  ((List.range 16).map fun k => if k = q then depth else (Team.queue g k).depth).sum

def execQcfg (q a : BitVec 6) (imm : BitVec 12) (s : State) : Outcome :=
  cWord s (bad := decide (16 ≤ q.toNat) || imm == 1 || decide (16 < imm.toNat)) fun s t =>
    let tm := s.team t
    let m := (tm.cReg a).toNat
    let depth := imm.toNat
    let gs := maskGroups m
    if !tm.maskOk m then s.trapWith 0x041
    else if gs.any fun g => decide (16 < (tm.group g).depths q.toNat depth) then s.trapWith 0x088
    else if !(gs.all fun g => (tm.group g).actx.idle && (tm.group g).xctx.idle) then .wait s
    else .done (s.modTeam t fun tm => gs.foldl (fun (tm : Team) g => tm.modGroup g fun x =>
      { (x.modQueue q.toNat fun _ => freshQueue depth) with
        smps := x.smps.filter (·.q != q.toNat), traces := x.traces.filter (·.q != q.toNat) }) tm).dropStale

/-! ## Records (R208, 01 R35 to R41, 21 R473) -/

/-- Whether the stride entries of a record are valid (01 R38). -/
def strideOk (depth e : Nat) : Bool := bitsOf e 0 5 == 0 || decide (bitsOf e 5 3 < depth)

/-- Whether a trip field is valid (01 R37). -/
def tripOk (f : Nat) : Bool := bitsOf f 15 1 == 0 || bitsOf f 3 12 == 0

/-- Whether a body lies in a section. -/
def bodyOk (im : Image) (sec off len width : Nat) : Bool := decide ((off + len) * width ≤ (im.sections.getD sec (0, 0)).2)

/-- Whether a record keeps 01 R35 to R40 for a stream. The entry word of a control record lies in section 0 also where PRO_LEN is 0
(log 80). -/
def recordFields (im : Image) (st : Nat) (r : LoopRec) : Bool :=
  let depth := bitsOf r.flags 6 3
  let flag (n : Nat) : Bool := bitsOf r.flags n 1 == 1
  let width := if st = 2 then 8 else 4
  decide (r.flags < 2 ^ 9) && bitsOf r.flags 0 2 == st && decide (1 ≤ r.bound) && decide (r.bound ≤ 2 ^ 24) && r.reserved == 0 &&
  (flag 5 || (r.expectCount == 0 && r.expectSig == 0)) &&
  (if st = 3 then
    depth == 0 && !flag 5 && !flag 3 && r.kerOff == 0 && r.epiOff == 0 && r.kerLen == 0 && r.epiLen == 0 &&
    r.trips.all (· == 0) && r.strides.all (· == 0) && bodyOk im 0 r.proOff (max 1 r.proLen) 4
  else
    decide (1 ≤ depth) && decide (depth ≤ 6) && decide (1 ≤ r.kerLen) &&
    (r.trips.take depth).all tripOk && (r.trips.drop depth).all (· == 0) &&
    (if st = 0 then r.strides.all (strideOk depth) else r.strides.all (· == 0)) &&
    (st == 1 || !flag 3) &&
    decide (r.proLen + r.kerLen + r.epiLen ≤ if st = 2 then 256 else 512) &&
    bodyOk im (st + 1) r.proOff r.proLen width && bodyOk im (st + 1) r.kerOff r.kerLen width &&
    bodyOk im (st + 1) r.epiOff r.epiLen width)

/-- Whether a record may be issued: its fields, and not both IDEMPOTENT and REFILL (20 R460). -/
def recordValid (im : Image) (st : Nat) (r : LoopRec) : Bool := recordFields im st r && bitsOf r.flags 3 2 != 3

/-- Read a record of a team's image. -/
def State.readRecord (s : State) (t idx : Nat) : Sum MErr LoopRec :=
  match s.sectionBytes t 7 (idx * 64) 64 with
  | .inl e => .inl e
  | .inr bs => .inr (parseRecord bs)

/-- The PREEMPT_LIMIT check of an A, X or M record (21 R473). -/
def State.iterOk (s : State) (r : RecRun) : Bool :=
  if bitsOf r.lr.flags 2 1 = 1 then decide (r.lr.bound ≤ s.preIter) else decide (r.lr.bound * r.total ≤ s.preIter)

/-- Issue a record to contexts (R208): all checks, then every context enters ISSUED; a record with a zero trip retires at
once (01 R37). LIVE of an X context becomes all ones and no lane holds an item (10 R236, R257). -/
def State.runRecord (s : State) (t st idx : Nat) (cs : List Ctx) (extra : LoopRec → Bool) : Eff :=
  let x := s.inst (s.team t).inst
  if !(cs.all fun c => (s.ctxState c).idle && (s.ctxState c).resume.isEmpty) then .wait s
  else if x.image.recordCount ≤ idx then s.trapWith 0x041
  else match s.readRecord t idx with
    | .inl e => s.errEff e
    | .inr r =>
      if !recordValid x.image st r || !extra r then s.trapWith 0x041
      else
        let run := entryRun (s.team t).lc idx r s.cycle
        if !s.iterOk run then s.trapWith 0x204
        else
          let run := if run.total = 0 then { run with st := .retired } else run
          .done (cs.foldl (fun s c =>
            let s := s.modCtx c fun y => { y with run := some run, stopped := false }
            match c with
            | .x u g => s.modGroup u g fun x => { x with live := 0xFFFFFFFF#32, items := [] }
            | _ => s) s)

def execRuna (a b : BitVec 6) (s : State) : Outcome :=
  cWord s fun s t =>
    let tm := s.team t
    let m := (tm.cReg b).toNat
    if !tm.maskOk m ∨ 2 ^ 16 ≤ (tm.cReg a).toNat then s.trapWith 0x041
    else s.runRecord t 0 (tm.cReg a).toNat ((maskGroups m).map fun g => .a t g) fun _ => true

def execRunx (a b : BitVec 6) (s : State) : Outcome :=
  cWord s fun s t =>
    let tm := s.team t
    let m := (tm.cReg b).toNat
    if !tm.maskOk m ∨ 2 ^ 16 ≤ (tm.cReg a).toNat then s.trapWith 0x041
    else s.runRecord t 1 (tm.cReg a).toNat ((maskGroups m).map fun g => .x t g)
      fun r => bitsOf r.flags 3 1 == 0 || tm.tile.isSome

/-- A `runm` issued after `mend` raises 0x041 (12 R310). It waits for the earlier record and its operations (log 24); then a pull of that record ends. -/
def execRunm (a : BitVec 6) (s : State) : Outcome :=
  cWord s fun s t =>
    let tm := s.team t
    if 2 ^ 16 ≤ (tm.cReg a).toNat ∨ tm.mEnded then s.trapWith 0x041
    else if s.hasOps t || !tm.mctx.idle || !tm.mctx.resume.isEmpty then .wait s
    else (s.endPull t).runRecord t 2 (tm.cReg a).toNat [.m t] fun _ => true

/-! ## Memory and atomics (R215 to R217) -/

def execCld (d a : BitVec 6) (imm : BitVec 12) (s : State) : Outcome :=
  cWord s fun s t =>
    let va := ((s.team t).cSum a imm).toNat
    s.withAddr t va 8 .read fun pa s =>
      s.withMem t (s.coreRead t va pa 8) fun bs s => .done (s.modTeam t (·.setC d (BitVec.ofNat 64 (natOfBytes bs))))

def execCst (d a : BitVec 6) (imm : BitVec 12) (s : State) : Outcome :=
  cWord s fun s t =>
    let va := ((s.team t).cSum a imm).toNat
    s.withAddr t va 8 .write fun pa s =>
      s.withMem t (s.coreWrite t va pa (bytesOfNat 8 ((s.team t).cReg d).toNat)) fun _ s => .done s

/-- The operations of `camo` (R216, 06 R143); none where a `cas` does not match. -/
def camoOp (op : BitVec 3) (old b d : W64) : Option W64 :=
  match op.toNat with
  | 0 => some (old + b)
  | 1 => some (opMin old b)
  | 2 => some (opMax old b)
  | 3 => some (old &&& b)
  | 4 => some (old ||| b)
  | 5 => some (old ^^^ b)
  | 6 => some b
  | _ => if old = d then some b else none

/-- An atomic of the C stream at a scope. -/
def camo (s : State) (d a b : BitVec 6) (op : BitVec 3) (scope order : Nat) (prm : Bool) : Outcome :=
  cWord s fun s t =>
    let tm := s.team t
    let va := (tm.cReg a).toNat
    let f (old : Nat) : Option Nat := (camoOp op (BitVec.ofNat 64 old) (tm.cReg b) (tm.cReg d)).map (·.toNat)
    s.withAddr t va 8 .atomic fun pa s =>
      s.withMem t (if prm then s.atomicPrm t va pa 8 order f else s.atomicAt t va pa 8 scope order f) fun old s =>
        .done (s.modTeam t (·.setC d (BitVec.ofNat 64 old)))

def execCamoTeam (d a b : BitVec 6) (op : BitVec 3) (ord : BitVec 2) (prm : Bool) (s : State) : Outcome :=
  camo s d a b op 1 ord.toNat prm
def execCamoClu (d a b : BitVec 6) (op : BitVec 3) (ord : BitVec 2) (s : State) : Outcome := camo s d a b op 2 ord.toNat false
def execCamoDev (d a b : BitVec 6) (op : BitVec 3) (ord : BitVec 2) (s : State) : Outcome := camo s d a b op 3 ord.toNat false
def execCamoSys (d a b : BitVec 6) (op : BitVec 3) (ord : BitVec 2) (s : State) : Outcome := camo s d a b op 4 ord.toNat false

/-- The sampler-path part of a fence (18 R424): write-back at any scope, invalidation of the partition's lines in the sampler cache of
the team's cluster. The lines of other clusters leave too, since an `smp` that happens after the fence there takes its taps from fills made
after it; a line may leave a sampler cache at any time (16 R386). -/
def State.fenceSamp (s : State) (t : Nat) : State :=
  let core := (s.team t).core
  let s := s.releaseCore core
  { s with samp := s.samp.filter fun b => b.pid != s.pidOf t }

/-- `fence` in C and A (R217, 11 R268, 18 R422 to R424): waits until the context's earlier accesses are performed, then takes
the scope actions of 13 R318. With PRM it is promoted with the atomics beside it (R422, R427): its actions are those of device scope. -/
def execFence (samp : Bool) (ord : BitVec 2) (scope : BitVec 3) (prm : Bool) (s : State) : Outcome :=
  s.word [.c, .a] fun s =>
    let t := s.cur.team
    let core := (s.team t).core
    match s.cur with
    | .a t g => if (s.group t g).outst.isEmpty then act s t core else .wait s
    | _ => act s t core
where
  act (s : State) (t core : Nat) : Eff :=
    let at_ := if prm then max 3 scope.toNat else scope.toNat
    let s := if relOrder ord.toNat then s.releaseAt core at_ else s
    let s := if acqOrder ord.toNat then s.acquireAt core at_ else s
    .done (if samp then s.fenceSamp t else s)

/-! ## Barriers (R218 to R221) -/

def State.barrier (s : State) (core b : Nat) : Option Barrier := (s.core core).barriers.getD b none
def State.setBarrier (s : State) (core b : Nat) (x : Barrier) : State :=
  s.modCore core fun c => { c with barriers := setAt none c.barriers b (some x) }

/-- The core whose barrier an arrival or post of a core's agents reaches: the one its owner moved to, while the forwarding entry lives (03
R82; log 100). -/
def State.postCore (s : State) (core b : Nat) : Nat :=
  if (s.barrier core b).isSome then core
  else match s.lodge.forwards.find? fun f => f.core == core && ((s.barrier f.dest b).any fun x => x.owner == f.team) with
    | some f => f.dest
    | none => core

/-- The recorded phase of a context for a barrier. -/
def State.barRec (s : State) (c : Ctx) (b : Nat) : Option BarRec :=
  (s.team c.team).barRecs.find? fun r => r.ctx == c && r.bar == b

def State.setBarRec (s : State) (r : BarRec) : State :=
  s.modTeam r.ctx.team fun tm => { tm with barRecs := r :: tm.barRecs.filter fun q => !(q.ctx == r.ctx && q.bar == r.bar) }

def State.clearBarRec (s : State) (c : Ctx) (b : Nat) : State :=
  s.modTeam c.team fun tm => { tm with barRecs := tm.barRecs.filter fun q => !(q.ctx == c && q.bar == b) }

/-- An arrival: ARRIVED rises; at COUNT the phase completes (R218). -/
def Barrier.arrive (b : Barrier) : Barrier :=
  if b.count ≤ b.arrived + 1 then { b with arrived := 0, phase := b.phase + 1 } else { b with arrived := b.arrived + 1 }

/-- Clear the recorded phases of every context of a core for a barrier; a context that must still trap with 0x1C0 keeps its
record (R219, R221). -/
def State.clearBarRecs (s : State) (core b : Nat) : State :=
  { s with teams := s.teams.map fun tm =>
      if tm.core == core then { tm with barRecs := tm.barRecs.filter fun r => r.bar != b || r.gone } else tm }

/-- Whether a context waits on a barrier. -/
def State.barWaited (s : State) (core b : Nat) : Bool :=
  s.teams.any fun tm => tm.core == core && tm.barRecs.any fun r => r.bar == b && tm.recWaits r && !r.gone

def execBarInit (a b : BitVec 6) (s : State) : Outcome :=
  cWord s fun s t =>
    let tm := s.team t
    let n := (tm.cReg a).toNat
    let count := (tm.cReg b).toNat
    let core := tm.core
    if 128 ≤ n ∨ count = 0 ∨ 65535 < count then s.trapWith 0x041
    else
      let busy := match s.barrier core n with
        | some x => decide (0 < x.arrived) || s.barWaited core n
        | none => false
      if busy then s.trapWith 0x1C1
      else .done ((s.clearBarRecs core n).setBarrier core n { count := count, owner := t })

/-- An arrival of a context (R220). -/
def State.barArrive (s : State) (c : Ctx) (n : Nat) : Eff :=
  let core := s.postCore (s.team c.team).core n
  match s.barrier core n with
  | none => s.trapWith 0x1C8
  | some x =>
    let again := match s.barRec c n with
      | some r => r.arrived && r.phase == x.phase && !r.gone
      | none => false
    if again then s.trapWith 0x1C2
    else .done ((s.setBarRec { ctx := c, bar := n, phase := x.phase, arrived := true }).setBarrier core n x.arrive)

/-- One evaluation of a wait (R220, R221). -/
def State.barWait (s : State) (c : Ctx) (n : Nat) : Eff :=
  let core := (s.team c.team).core
  match s.barRec c n, s.barrier core n with
  | some r, b =>
    if r.gone then (s.clearBarRec c n).trapWith 0x1C0
    else match b with
      | none => s.trapWith 0x1C8
      | some x =>
        if x.phase = r.phase then .wait (s.setBarRec { r with waiting := true })
        else .done (s.setBarRec { r with waiting := false })
  | none, none => s.trapWith 0x1C8
  | none, some x => .wait (s.setBarRec { ctx := c, bar := n, phase := x.phase, arrived := false, waiting := true })

/-- Whether an A context has accesses that are not performed, a held `ldf` among them: an arrival releases them (18 R415, R416). -/
def State.openAccess (s : State) (c : Ctx) : Bool :=
  match c with
  | .a t g => (s.group t g).outst.any fun o => o.kind != .scratch
  | _ => false

def execBarArrive (n : BitVec 7) (s : State) : Outcome :=
  s.word [.c, .a, .x] fun s => if s.openAccess s.cur then .wait s else s.barArrive s.cur n.toNat
def execBarWait (n : BitVec 7) (s : State) : Outcome := s.word [.c, .a, .x] fun s => s.barWait s.cur n.toNat
def execBarInval (n : BitVec 7) (s : State) : Outcome :=
  cWord s fun s t => .done (s.invalBarrier (s.team t).core n.toNat)

/-! ## Slot counters and the ready table (R222, R223, 02 R62) -/

/-- Read 8 bytes at the point of coherence of a scope: in the L1, or at home past the core's own dirty bytes (18 R417). -/
def State.readAt (s : State) (t va pa n scope : Nat) : MRes (List Byte) :=
  if wideScope scope then s.homeReadAt t va pa n else s.coreRead t va pa n

def execCtrwait (a b : BitVec 6) (scope : BitVec 3) (s : State) : Outcome :=
  cWord s fun s t =>
    let tm := s.team t
    let va := (tm.cReg a).toNat
    s.withAddr t va 8 .read fun pa s' =>
      s'.withMem t (s'.readAt t va pa 8 scope.toNat) fun bs s'' =>
        if (tm.cReg b).toNat ≤ natOfBytes bs then .done (s''.acquireAt tm.core scope.toNat) else .wait s''

def execCtrpost (a b : BitVec 6) (scope : BitVec 3) (s : State) : Outcome :=
  cWord s fun s t =>
    let tm := s.team t
    let va := (tm.cReg a).toNat
    s.withAddr t va 8 .atomic fun pa s =>
      s.withMem t (s.atomicAt t va pa 8 scope.toNat 2 fun old => some ((old + (tm.cReg b).toNat) % 2 ^ 64)) fun _ s => .done s

def execPost (a b : BitVec 6) (s : State) : Outcome :=
  cWord s fun s t =>
    let tm := s.team t
    let k := clusterOf tm.core
    if 128 ≤ (s.cluster k).ready.length then .wait s
    else
      let e : ReadyEntry := { inst := tm.inst, copy := tm.copy, tag := (tm.cReg a).setWidth 32, value := tm.cReg b }
      .done (s.modCluster k fun c => { c with ready := c.ready ++ [e] })

/-- The matching entry with the smallest value. -/
def leastEntry (es : List ReadyEntry) : Option ReadyEntry :=
  es.foldl (fun best e => match best with
    | none => some e
    | some b => if e.value.toNat < b.value.toNat then some e else best) none

def execTake (d f a : BitVec 6) (s : State) : Outcome :=
  cWord s fun s t =>
    let tm := s.team t
    let k := clusterOf tm.core
    match leastEntry ((s.cluster k).ready.filter fun e =>
        e.inst == tm.inst && e.copy == tm.copy && e.tag == (tm.cReg a).setWidth 32) with
    | none => .done (s.modTeam t fun tm => (tm.setC d 0).setC f 0)
    | some e =>
      .done ((s.modCluster k fun c => { c with ready := c.ready.erase e }).modTeam t fun tm => (tm.setC d e.value).setC f 1)

/-! ## System words (R226 to R230, R232) -/

/-- `trap n` raises 0x340 + n. -/
def execTrap (n : BitVec 6) (s : State) : Outcome := cWord s fun s _ => s.trapWith (0x340 + n.setWidth 10)

/-- FPCTL (08 R180). -/
def Team.fpctl (tm : Team) : W64 :=
  BitVec.ofNat 64 (at_ tm.fpSeed.toNat 32 + flag tm.fpFlush 3 + tm.fpMode.toNat)

/-- The trap frame field of a selector (20 R448). -/
def TrapFrame.field (f : TrapFrame) (sel : Nat) : W64 :=
  match sel with
  | 0x020 => f.cause.setWidth 64
  | 0x021 => f.stream.setWidth 64
  | 0x022 => f.pc
  | 0x023 => f.lanes.setWidth 64
  | 0x024 => f.sector.setWidth 64
  | 0x025 => f.vaddr
  | 0x026 => f.regionPc
  | 0x027 => f.group.setWidth 64
  | 0x028 => f.team.setWidth 64
  | 0x029 => BitVec.ofNat 64 (at_ f.jobInst.toNat 32 + f.jobIndex.toNat)
  | _ => f.time

/-- A system register (R227); none for an unlisted selector. -/
def State.sysReg (s : State) (t sel : Nat) : Option W64 :=
  let tm := s.team t
  if sel ≤ 0x00B then some (s.special t none (40 + sel))
  else if sel = 0x010 then some tm.fpctl
  else if sel = 0x011 then some (BitVec.ofNat 64 tm.ctrl.stack.length)
  else if 0x020 ≤ sel ∧ sel ≤ 0x02A then some (if tm.handler.isSome then tm.frame.field sel else 0)
  else none

/-- The selectors of `sysr`. -/
def sysSelector (sel : Nat) : Bool := sel ≤ 0x00B || sel == 0x010 || sel == 0x011 || (0x020 ≤ sel && sel ≤ 0x02A)

def execSysr (d : BitVec 6) (sel : BitVec 12) (s : State) : Outcome :=
  cWord s (bad := !sysSelector sel.toNat) fun s t =>
    match s.sysReg t sel.toNat with
    | none => s.trapWith 0x041
    | some v => .done (s.modTeam t (·.setC d v))

/-- A write of FPCTL: MODE 6 and 7 leave MODE; every generator is seeded again (08 R179, R180). -/
def Team.setFpctl (tm : Team) (v : W64) : Team :=
  let seed : W32 := (v >>> 32).setWidth 32
  { tm with fpSeed := seed, fpFlush := v.getLsbD 3,
            fpMode := if bitsOf v.toNat 0 3 ≤ 5 then v.setWidth 3 else tm.fpMode,
            genC := genSeed seed 16,
            groups := (List.range tm.groups.length).map fun g => { tm.group g with gen := genSeed seed g } }

def execSysw (a : BitVec 6) (sel : BitVec 12) (s : State) : Outcome :=
  cWord s (bad := sel != 0x010) fun s t => .done (s.modTeam t fun tm => tm.setFpctl (tm.cReg a))

def execTime (d : BitVec 6) (s : State) : Outcome :=
  cWord s fun s t => .done (s.modTeam t (·.setC d (BitVec.ofNat 64 s.now)))

/-- The folded signature a literal word holds (07 R164). -/
def foldSig (sig : W32) : Nat := bitsOf (sig.toNat ^^^ (sig.toNat / 2 ^ 16)) 0 16

/-- The cause a segment's end raises (R164). -/
def Segment.check (g : Segment) : Option Cause :=
  if g.count % 2 ^ 16 ≠ bitsOf g.expect.toNat 16 16 then some 0x180
  else if foldSig g.sig ≠ bitsOf g.expect.toNat 0 16 then some 0x181
  else none

/-- End the open segment, if any, before a word's effect (R164); a mismatch is reported (20 R463). -/
def State.endSegment (s : State) (t : Nat) (k : State → Eff) : Eff :=
  match (s.team t).ctrl.seg with
  | none => k s
  | some g =>
    let s := s.modCtrl t fun k => { k with seg := none }
    match g.check with
    | none => k s
    | some c =>
      let s := s.reportMismatch (s.team t).core (s.team t).ctrl.recIdx
        (if c = 0x180 then bitsOf g.expect.toNat 16 16 else bitsOf g.expect.toNat 0 16)
        (if c = 0x180 then g.count % 2 ^ 16 else foldSig g.sig)
      s.trapWith c

/-- A word that is a C-stream checkpoint ends a span of cycles: one past the bound of the control record raises 0x203 at the word
(01 R39), which issues again after a handler. The mismatch of a segment that the word would end has the lower code and comes
first. -/
def State.inBound (s : State) (t : Nat) (k : Eff) : Eff :=
  if s.overC t && ((s.team t).ctrl.seg.bind Segment.check).isNone then
    .trap (s.modCtrl t fun k => { k with late := true }) (s.raiseAt 0x203)
  else k

/-- The word after the current one, at a C-stream checkpoint (R228, 02 R502, 21 R468): the cycle count of the control record
starts again, a stop signal stops the stream, and instance-level causes are delivered. -/
def State.passCheckpoint (s : State) (t : Nat) : Eff :=
  let s := { s.countWords with iw.words := [] }
  let s := s.modCtrl t fun k => { k with pc := s.iw.next, spanStart := s.cycle, late := false, waiting := false }
  let s := s.checkpoint t
  .goto s (s.team t).ctrl.pc

def execCkpt (s : State) : Outcome := cWord s fun s t => s.inBound t (s.endSegment t fun s => s.passCheckpoint t)

/-- `yield`: as `ckpt`; with a waiting team for its slot, the team parks. -/
def execYield (s : State) : Outcome :=
  cWord s fun s t => s.inBound t <| s.endSegment t fun s =>
    let s := if (s.team t).signal == .none && s.yieldTaker t then
        s.modTeam t fun x => { x with sent := .yield, signal := .yield }
      else s
    s.passCheckpoint t

def execRegion (open_ : Bool) (s : State) : Outcome :=
  cWord s fun s t =>
    let tm := s.team t
    if open_ = tm.ctrl.region.isSome then s.trapWith 0x041
    else
      let r : Region := { pc := s.iw.next, c := tm.c, lc := tm.lc, stack := tm.ctrl.stack, gen := tm.genC }
      .done (s.modCtrl t fun k => { k with region := if open_ then some r else none })

/-- `seg` (R230, 05 R115): ends the open segment and opens one with the literal word that follows. -/
def execSeg (s : State) : Outcome :=
  cWord s fun s t => s.endSegment t fun s =>
    match s.fetchWord t (s.iw.pc + 4) with
    | .inl e => .trap s { (s.raiseErr e) with pc := s.iw.pc + 4 }
    | .inr (w, s) =>
      let s := { (s.modCtrl t fun k => { k with seg := some { expect := w } }) with iw.words := [] }
      .goto s (s.iw.pc + 8)

end Sys2Proof.Machine
end

