-- ==== Sys2Proof/Machine/Ends.lean ====
section
/-!
DEFINITION. The end of a team (22 R484) and of an instance (22 R485 to R487, 02 R60).
-/
namespace Sys2Proof.Machine

/-! ## Completion of an instance (R485, 02 R60) -/

/-- A flag of a card (01 R22). -/
def Card.flag (c : Card) (n : Nat) : Bool := bitsOf c.flags n 1 == 1

/-- Whether an instance still has a team that is not placed. -/
def Inst.unplaced (x : Inst) : Bool := x.shares.any fun sh => decide (sh.next < sh.stop) || !sh.extra.isEmpty

/-- The sparsest rung of a pattern (04 R95). -/
def sparsest (pattern : Nat) : Nat := if pattern = 1 then 4 else 3

/-- The update of the rung by a sampled error `e` (04 R105). LAST_INST names the instance whose update instant came last (log 84). -/
def State.updateRung (s : State) (i : Nat) (e : W32) : State :=
  let x := s.inst i
  let j := s.job x.job
  let c := x.card
  let v := fp32.decode e.toNat
  let high := ltVal (fp32.decode c.threshHi) v
  let low := ltVal v (fp32.decode c.threshLo)
  let densest := bitsOf c.ladder 4 4
  let move : Nat := if high ∧ densest < j.ctlRung then 1 else if low ∧ !high ∧ j.ctlRung < sparsest c.pattern then 2 else 0
  let rung := if move = 1 then j.ctlRung - 1 else if move = 2 then j.ctlRung + 1 else j.ctlRung
  let limit := (high || low) && move == 0
  let s := s.modJob x.job fun j =>
    { j with ctlRung := rung, rungs := (x.number, rung) :: j.rungs, lastErr := e, lastInst := x.id.setWidth 16, lastMove := move,
             limit := j.limit || limit }
  if limit then s.logInst i { stream := 7, cause := 0x300, kind := 0, data := rung } else s

/-- The update instant of a sampled instance that reaches DONE: by its error, or with P = 0 no update (04 R105). -/
def State.updateInstant (s : State) (i : Nat) : State :=
  match (s.inst i).sampled, (s.inst i).error with
  | some _, some e => s.updateRung i e
  | _, _ => s.noUpdate i

/-- An instance reaches DONE: the update instant, then the completion post. -/
def State.reachDone (s : State) (i : Nat) : State :=
  let x := s.inst i
  ((((s.updateInstant i).modInst i fun y => { y with st := .done }).postCompletion i false).checkWithdraw x.job).decideMask x.card.clusterMask

/-- A late instance at its stamp (02 R60): EVENT counts it DONE, ESCALATE waits for Belvedere, FALLBACK runs its fallback team,
every other disposition counts it failed. -/
def State.endLate (s : State) (i : Nat) : State :=
  let x := s.inst i
  match x.card.nibble 0x200 with
  | 4 =>
    let s := if x.missed then s else (s.logInstCause i 1 0x200).modInst i fun y => { y with missed := true }
    s.reachDone i
  | 5 =>
    let s := (s.logInstCause i 2 0x200).modInst i fun y => { y with heldCause := some (instRaise 0x200 s.now) }
    { s with belv := s.belv ++ [BelvMsg.escalate 0x200 x.job x.id] }
  | 2 => (s.logInstCause i 2 0x200).failInstance i true
  | _ => (s.logInstCause i 2 0x200).failInstance i false

/-- The obligations before the stamp (R485, steps 1 to 3); an instance that waits for Belvedere's choice does not go on. -/
def Inst.obligationsMet (x : Inst) : Bool :=
  x.st == .retiring && x.heldCause.isNone && (!x.card.flag 7 || x.compared) && (!x.card.flag 3 || x.reconDone)

/-- The end of step 3: the completion stamp, then DONE or the disposition of a late instance, and the counter post. -/
def State.finishInstance (s : State) (i : Nat) : State :=
  let x := s.inst i
  if !x.obligationsMet || x.stamp.isSome || s.lodge.fatal then s
  else
    let s := s.modInst i fun y => { y with stamp := some s.now }
    if s.now ≤ x.deadline then s.reachDone i else s.endLate i

/-- A retired team may have been the last of its instance: it enters RETIRING (02 R53). -/
def State.checkRetiring (s : State) (i : Nat) : State :=
  let x := s.inst i
  if (x.st == .running || x.st == .suspended || x.st == .ready) && (s.instTeams i).isEmpty && !x.unplaced then
    (s.modInst i fun y => { y with st := .retiring }).finishInstance i
  else s

/-! ## Retirement of a team (R484) -/

/-- The channels of a retiring team: one in ERROR returns to IDLE (14 R340), windows disarm. -/
def freeChans (t : Nat) (c : Core) : Core :=
  { c with chans := c.chans.map fun (h : Chan) => if h.owner = some t then ({} : Chan) else h }

/-- A team retires: its dirty bytes go home, private bytes and regions, pins, barriers and slots are freed; a child is noted at
its parent; the agents decide again, and the instance may be complete. -/
def State.retireTeam (s : State) (t : Nat) : State :=
  let tm := s.team t
  let i := tm.inst
  let s := (((((s.releaseCore tm.core).freePrivate t).dropAllPins t).invalOwned t).endPull t).disarmTeam t
  let cs := s.cores.map (freeChans t)
  let s := { s with cores := cs }
  let s := s.modTeam t fun x =>
    { x with status := .retired, pins := [], sent := .none, signal := .none, handler := none, held := [], instHeld := [],
             tiles := [], scratch := [], full := [], ctrl := { x.ctrl with ended := true } }
  let s := match tm.parent with
    | some p => s.modTeam p fun x => { x with children := x.children.map fun (c : Child) =>
        if c.team = t then ({ c with retired := true } : Child) else c }
    | none => s
  let s := if tm.fallback then s.postCompletion i true else s
  let s := (s.leftCluster t).decideMask (s.inst i).card.clusterMask
  s.checkRetiring i

end Sys2Proof.Machine
end

