-- ==== Sys2Proof/Machine/Operands.lean ====
section
/-!
DEFINITION. The operands of template instances (05 R122 to R124, 07 R155, R156, 10 R235 to R240, 11 R269, R286): reading the
sources of an X or A word, the checks of format, destination kind, rounding, saturate and aux, the queue conditions, the
writing of destinations, queue movements, and taint (18 R429).
-/
namespace Sys2Proof.Machine

/-! ## Registers of a group -/

def Group.vReg (g : Group) (n : Nat) : Lanes := g.v.getD n []
def Group.iReg (g : Group) (n : Nat) : Lanes := g.i.getD n []

/-- The lanes of `old` with the lanes of a mask replaced. -/
def mergeLanes (mask : W32) (old new : Lanes) : Lanes := mkLanes fun l => if mask.getLsbD l then lane new l else lane old l

/-- A mask with the bits of another mask replaced. -/
def mergeMask (mask old new : W32) : W32 := (old &&& ~~~mask) ||| (new &&& mask)

/-- All lanes or none. -/
def allLanes (b : Bool) : W32 := if b then 0xFFFFFFFF#32 else 0

/-! ## Sources (10 R235, 11 R286) -/

/-- A source: its lanes and the lanes that carry a taint. -/
structure Src where
  lanes : Lanes := []
  taint : W32 := 0
  deriving DecidableEq, Repr

/-- The head slot of a queue. -/
def Que.headSlot (q : Que) : QSlot := q.slots.getD q.head {}
def Que.tailSlot (q : Que) : QSlot := q.slots.getD q.tail {}
def Que.modSlot (q : Que) (n : Nat) (f : QSlot → QSlot) : Que := { q with slots := setAt {} q.slots n (f (q.slots.getD n {})) }

/-- The 64-bit value of a kind-2 source of an X or A word (05 R120). -/
def State.scalarSrc (s : State) (n : Nat) : W64 :=
  match s.cur with
  | .x t g => s.fieldX t g n
  | .a t g => s.fieldA t g n
  | _ => 0

/-- A source of the issuing X or A context. -/
def State.readSrc (s : State) (src : Byte) (imm : W32) : Src :=
  let g := s.group s.cur.team s.cur.group
  let n := indexOf src
  match kindOf src with
  | 0 => if s.cur.stream == .x then ⟨g.vReg n, g.vTaint.getD n 0⟩ else ⟨g.iReg n, g.iTaint.getD n 0⟩
  | 1 => let q := Team.queue g n; ⟨q.headSlot.lanes, q.headSlot.taint⟩
  | 2 => ⟨splat ((s.scalarSrc n).setWidth 32), allLanes (s.regTaint (BitVec.ofNat 6 n))⟩
  | _ => ⟨splat imm, 0⟩

/-! ## Rules of an opcode (10 R238, R239) -/

/-- What an opcode accepts: format codes (none: the format field is unused), destination kinds, rounding, saturate, the aux
bits [28:0] it defines, and whether aux[24] is the unsigned flag. -/
structure TRule where
  fmts : List Nat := []
  dsts : List Nat := []
  rnd : Bool := false
  sat : Bool := false
  aux : Nat := 0
  u : Bool := false
  deriving DecidableEq, Repr

/-- The format code of an entry, read through ft when indirect (05 R124). -/
def State.format (s : State) (t : Tpl) : Option Nat :=
  if !t.ind then some t.fmt.toNat
  else
    let n := ((s.team s.cur.team).lcReg (bitsOf t.aux.toNat 29 3)).toNat
    if 15 < n then none else ((s.team s.cur.team).ft.getD n none).map (·.toNat)

/-- The zero-field rules of an opcode and the rules of an indirect format (R123, R124): decoding causes (R134). -/
def State.zeroFields (s : State) (r : TRule) (t : Tpl) : Bool :=
  (r.rnd || t.rnd == 0) && (r.sat || !t.sat) && (!r.fmts.isEmpty || (t.fmt == 0 && !t.ind)) &&
  (if t.ind then (s.format t).isSome else bitsOf t.aux.toNat 29 3 == 0)

/-- The opcode-specific field rules (R156, R238, R239): the format code in force when they hold. -/
def State.ruleCode (s : State) (op : Nat) (r : TRule) (t : Tpl) : Option Nat :=
  let aux := t.aux.toNat
  let defined := r.aux + (if r.u then 2 ^ 24 else 0) + (if t.ind then 7 * 2 ^ 29 else 0)
  let fieldsOk := (aux &&& (2 ^ 32 - 1 - defined)) == 0 && (r.dsts.isEmpty || r.dsts.contains t.dstKind.toNat) &&
    (!tSrcQueue op t || t.wait != 0)
  if !fieldsOk then none
  else if r.fmts.isEmpty then some 0
  else match s.format t with
    | none => none
    | some c => if r.fmts.contains c && (!r.u || !t.aux.getLsbD 24 || c == 8) then some c else none

/-- A cause at the last word of the chain (R134, R238). -/
def State.trapLast (s : State) (cause : Cause) : Eff :=
  .trap s (s.raiseLast cause)

/-! ## Queue conditions (07 R155, R156) -/

/-- The queues of an entry's sources with their advance bits, and its destination queue. -/
def srcQueues (op : Nat) (t : Tpl) : List (Nat × Bool) :=
  let u := tUse op t
  (if u.a && isQueue t.srcA then [(indexOf t.srcA, t.adv.getLsbD 0)] else []) ++
  (if u.b && isQueue t.srcB then [(indexOf t.srcB, t.adv.getLsbD 1)] else []) ++
  (if u.c && isQueue t.srcC then [(indexOf t.srcC, t.adv.getLsbD 2)] else [])

def dstQueue (op : Nat) (t : Tpl) : Option Nat :=
  if (tUse op t).d && t.dstKind == 1 then some t.dstIdx.toNat else none

/-- The queue conditions of an entry: 0x080, then readiness, then an advance of a full destination (0x081). A destination with no free
slot is not written: the word waits although its free count is 0 (07 R158; log 87). -/
def State.queueCheck (s : State) (op : Nat) (t : Tpl) (k : State → Eff) : Eff :=
  let g := s.group s.cur.team s.cur.group
  let q (n : Nat) : Que := Team.queue g n
  let srcs := (srcQueues op t).map (·.1)
  let dst := (dstQueue op t).toList
  if (srcs ++ dst).any (fun n => (q n).depth == 0) ||
      srcs.any (fun n => decide ((q n).depth < t.wait.toNat)) || dst.any (fun n => decide ((q n).depth < t.free.toNat)) then
    s.trapWith 0x080
  else if srcs.any (fun n => decide ((q n).visible < t.wait.toNat)) || dst.any (fun n => decide ((q n).room < t.free.toNat)) then
    .wait s
  else if dst.any fun n => t.adv.getLsbD 3 && (q n).room == 0 then s.trapWith 0x081
  else if dst.any fun n => (q n).room == 0 then .wait s
  else k s

/-! ## Destinations and movements (10 R237, R240) -/

/-- Pop the head of a source queue: a store queue's passed slot loses its lane mask (10 R237, 11 R278). -/
def Que.popHead (q : Que) (stream : Stream) (held : Bool) : Que :=
  let q := if stream == .a then q.modSlot q.head fun x => { x with mask := 0 } else q
  q.pop 1 held

/-- The advances of an entry's sources. -/
def State.popSources (s : State) (op : Nat) (t : Tpl) : State :=
  let held := s.idempotent s.cur
  ((srcQueues op t).filter (·.2)).foldl (fun s q =>
    s.modGroup s.cur.team s.cur.group (·.modQueue q.1 (·.popHead s.cur.stream held))) s

/-- Write the active lanes of a vector, index vector or store-queue destination. -/
def Group.writeLanes (g : Group) (stream : Stream) (kind idx : Nat) (act : W32) (vals : Lanes) (taint : W32) : Group :=
  if kind = 1 then
    g.modQueue idx fun q => q.modSlot q.tail fun x =>
      { x with lanes := mergeLanes act x.lanes vals, mask := x.mask ||| act, taint := mergeMask act x.taint taint }
  else if stream == .x then
    { g with v := setAt [] g.v idx (mergeLanes act (g.vReg idx) vals),
             vTaint := setAt 0 g.vTaint idx (mergeMask act (g.vTaint.getD idx 0) taint) }
  else
    { g with i := setAt [] g.i idx (mergeLanes act (g.iReg idx) vals),
             iTaint := setAt 0 g.iTaint idx (mergeMask act (g.iTaint.getD idx 0) taint) }

/-- Write bits of a predicate, for the lanes of a mask. -/
def Group.writePred (g : Group) (n : Nat) (mask bits taint : W32) : Group :=
  if n = 0 then g
  else { g.setP n (mergeMask mask (g.pReg n) bits) with pTaint := setAt 0 g.pTaint n (mergeMask mask (g.pTaint.getD n 0) taint) }

def State.modCurGroup (s : State) (f : Group → Group) : State := s.modGroup s.cur.team s.cur.group f

/-- The advance of a destination store queue (X). -/
def State.pushDst (s : State) (op : Nat) (t : Tpl) : State :=
  match dstQueue op t with
  | some n => if t.adv.getLsbD 3 then s.modCurGroup (·.modQueue n (·.push 1 (s.idempotent s.cur))) else s
  | none => s

/-! ## A template word -/

/-- What a template word computes from: its entry, format code, active lanes and sources. -/
structure TEnv where
  t : Tpl
  code : Nat
  act : W32
  a : Src
  b : Src
  c : Src
  deriving DecidableEq, Repr

/-- Taint of an element-wise result. -/
def TEnv.taint (e : TEnv) : W32 := e.a.taint ||| e.b.taint ||| e.c.taint
/-- Taint of a result that reads every lane. -/
def TEnv.taintAll (e : TEnv) : W32 := allLanes (e.taint != 0)
/-- A field of aux. -/
def TEnv.aux (e : TEnv) (lo n : Nat) : Nat := bitsOf e.t.aux.toNat lo n

/-- The active lanes of a patch predicate: within LIVE in X (10 R236), alone in A (11 R271). -/
def State.active (s : State) (p : BitVec 4) : W32 :=
  let g := s.group s.cur.team s.cur.group
  if s.cur.stream == .x then g.pReg p.toNat &&& g.live else g.pReg p.toNat

/-- Sources of an entry: unused ones are empty. -/
def State.envOf (s : State) (op : Nat) (t : Tpl) (p : BitVec 4) (code : Nat) : TEnv :=
  let u := tUse op t
  { t := t, code := code, act := s.active p,
    a := if u.a then s.readSrc t.srcA t.imm else {}, b := if u.b then s.readSrc t.srcB t.imm else {},
    c := if u.c then s.readSrc t.srcC t.imm else {} }

/-- The cause of a template word's zero-field rules. -/
def tplDecode (r : TRule) (t : Tpl) (s : State) : Option Raise := if s.zeroFields r t then none else some (s.raiseLast 0x041)

/-- The cause of its opcode-specific rules, with those of `ok`. -/
def tplFields (op : Nat) (r : TRule) (t : Tpl) (p : BitVec 4) (ok : TEnv → State → Bool) (s : State) : Option Raise :=
  match s.ruleCode op r t with
  | none => some (s.raiseLast 0x041)
  | some code => if ok (s.envOf op t p code) s then none else some (s.raiseLast 0x041)

/-- The effect of a template word whose rules hold: queue conditions, then `k`. -/
def State.tplEffect (s : State) (op : Nat) (r : TRule) (t : Tpl) (p : BitVec 4) (k : TEnv → State → Eff) : Eff :=
  match s.ruleCode op r t with
  | none => s.trapLast 0x041
  | some code => s.queueCheck op t fun s => k (s.envOf op t p code) s

/-- A template word of a stream: zero-field rules, opcode-specific conditions `ok`, queue conditions, then its effect. -/
def tplWord (st : Stream) (op : Nat) (r : TRule) (t : Tpl) (p : BitVec 4) (s : State) (ok : TEnv → State → Bool)
    (k : TEnv → State → Eff) : Outcome :=
  s.word [st] (fun s => s.tplEffect op r t p k) (tplDecode r t) (tplFields op r t p ok)

/-- Complete an X or A word: sources popped, destination queue advanced. -/
def State.finishTpl (s : State) (op : Nat) (t : Tpl) : Eff := .done ((s.popSources op t).pushDst op t)

/-- Write the active lanes of the destination and complete the word. -/
def State.putLanes (s : State) (op : Nat) (e : TEnv) (vals : Lanes) (taint : W32) : Eff :=
  (s.modCurGroup (·.writeLanes s.cur.stream e.t.dstKind.toNat e.t.dstIdx.toNat e.act vals taint)).finishTpl op e.t

/-- Write a comparison: bits of a predicate, or all ones and zeros in a vector (R243, R246). -/
def State.putCompare (s : State) (op : Nat) (e : TEnv) (f : Nat → Bool) : Eff :=
  if e.t.dstKind = 3 then (s.modCurGroup (·.writePred e.t.dstIdx.toNat e.act (mkMask f) e.taint)).finishTpl op e.t
  else s.putLanes op e (mkLanes fun l => if f l then 0xFFFFFFFF#32 else 0) e.taint

/-- Write an s register (R237). -/
def State.putScalar (s : State) (op : Nat) (e : TEnv) (v : W64) (taint : Bool) : Eff :=
  (s.modCurGroup fun g => (g.setS e.t.dstIdx.toNat v).setSTaint e.t.dstIdx.toNat taint).finishTpl op e.t

/-- The rounding mode of an entry. -/
def State.tplMode (s : State) (t : Tpl) : RMode := rmodeOf t.rnd.toNat (s.team s.cur.team).fpMode.toNat

/-- The draws of the lanes of a mask when the mode is SR, and the state with the generator stepped (08 R179). -/
def State.laneDraws (s : State) (m : RMode) (mask : W32) : Lanes × State :=
  if m == .sr then
    let d := genDraws (s.genOf s.cur) mask
    (d.2, s.setGen s.cur d.1)
  else ([], s)

end Sys2Proof.Machine
end

