-- ==== Sys2Proof/Machine/Xint.lean ====
section
/-!
DEFINITION. Vector integer words of the X stream (10 R241 to R244).
-/
namespace Sys2Proof.Machine

/-- The codes of the integer opcodes (R241). -/
def intCodes : List Nat := [8, 9, 10, 11, 26]

/-- The integer type of a code with the unsigned flag (R241). -/
def intType (code : Nat) (u : Bool) : IntFmt :=
  match elemOf code with
  | .int f => { f with signed := f.signed && !u }
  | _ => { width := 32, signed := !u }

/-- The integer type of an entry. -/
def TEnv.intFmt (e : TEnv) : IntFmt := intType e.code (e.t.aux.getLsbD 24)

/-- A result wrapped or clamped to a type and extended to its lane (R241). -/
def IntFmt.toLane (f : IntFmt) (sat : Bool) (r : Int) : W32 := BitVec.ofInt 32 (f.decode (f.narrow sat r))

/-- The integer lanes of a source. -/
def IntFmt.ofLane (f : IntFmt) (v : Lanes) (l : Nat) : Int := f.decode (lane v l).toNat

def intRule (sat : Bool) : TRule := { fmts := intCodes, dsts := [0, 1], sat := sat, u := true }

/-- An element-wise integer opcode: `f` gives the exact result from the type and the three operand values. -/
def intWord (op : Nat) (sat : Bool) (t : Tpl) (p : BitVec 4) (s : State) (f : IntFmt → Int → Int → Int → Int) : Outcome :=
  tplWord .x op (intRule sat) t p s (fun _ _ => true) fun e s =>
    let w := e.intFmt
    s.putLanes op e (mkLanes fun l =>
      w.toLane t.sat (f w (w.ofLane e.a.lanes l) (w.ofLane e.b.lanes l) (w.ofLane e.c.lanes l))) e.taint

/-- The bit pattern of a value in a type's width. -/
def IntFmt.pattern (f : IntFmt) (x : Int) : Nat := (x % (2 ^ f.width : Nat)).toNat

/-- A shift count: bits [31:0] of y modulo the width (R241). Every width is a power of two. -/
def shiftCount (f : IntFmt) (y : Int) : Nat := f.pattern y % f.width

/-- A bitwise operation on the patterns. -/
def bitwise (g : Nat → Nat → Nat) (f : IntFmt) (x y _ : Int) : Int := g (f.pattern x) (f.pattern y)

def execVadd (t : Tpl) (p : BitVec 4) (s : State) : Outcome := intWord 0x00 true t p s fun _ x y _ => x + y
def execVsub (t : Tpl) (p : BitVec 4) (s : State) : Outcome := intWord 0x01 true t p s fun _ x y _ => x - y
def execVmul (t : Tpl) (p : BitVec 4) (s : State) : Outcome := intWord 0x02 true t p s fun _ x y _ => x * y
def execVmulh (t : Tpl) (p : BitVec 4) (s : State) : Outcome :=
  intWord 0x03 false t p s fun f x y _ => x * y / (2 ^ f.width : Nat)
def execVmad (t : Tpl) (p : BitVec 4) (s : State) : Outcome := intWord 0x04 true t p s fun _ x y z => x * y + z
def execVand (t : Tpl) (p : BitVec 4) (s : State) : Outcome := intWord 0x05 false t p s (bitwise (· &&& ·))
def execVor (t : Tpl) (p : BitVec 4) (s : State) : Outcome := intWord 0x06 false t p s (bitwise (· ||| ·))
def execVxor (t : Tpl) (p : BitVec 4) (s : State) : Outcome := intWord 0x07 false t p s (bitwise (· ^^^ ·))
def execVshl (t : Tpl) (p : BitVec 4) (s : State) : Outcome :=
  intWord 0x08 true t p s fun f x y _ => x * (2 ^ shiftCount f y : Nat)
def execVshr (t : Tpl) (p : BitVec 4) (s : State) : Outcome :=
  intWord 0x09 false t p s fun f x y _ => (f.pattern x / 2 ^ shiftCount f y : Nat)
def execVsar (t : Tpl) (p : BitVec 4) (s : State) : Outcome :=
  intWord 0x0A false t p s fun f x y _ => x / (2 ^ shiftCount f y : Nat)
def execVmin (t : Tpl) (p : BitVec 4) (s : State) : Outcome := intWord 0x0B false t p s fun _ x y _ => min x y
def execVmax (t : Tpl) (p : BitVec 4) (s : State) : Outcome := intWord 0x0C false t p s fun _ x y _ => max x y
def execVabs (t : Tpl) (p : BitVec 4) (s : State) : Outcome := intWord 0x0D true t p s fun _ x _ _ => x.natAbs
def execVneg (t : Tpl) (p : BitVec 4) (s : State) : Outcome := intWord 0x0E true t p s fun _ x _ _ => -x

def execVcmp (t : Tpl) (p : BitVec 4) (s : State) : Outcome :=
  tplWord .x 0x0F { fmts := intCodes, dsts := [0, 3], u := true, aux := 0x70000 } t p s (fun e _ => decide (e.aux 16 3 ≤ 5))
    fun e s =>
      let w := e.intFmt
      s.putCompare 0x0F e fun l => intRel (e.aux 16 3) (w.ofLane e.a.lanes l) (w.ofLane e.b.lanes l)

/-- `vsel`: the selector's taint is a source's taint (R429). -/
def execVsel (t : Tpl) (p : BitVec 4) (s : State) : Outcome :=
  tplWord .x 0x10 { dsts := [0, 1], aux := 0xF0000 } t p s (fun _ _ => true) fun e s =>
    let g := s.group s.cur.team s.cur.group
    let m := g.pReg (e.aux 16 4)
    s.putLanes 0x10 e (mkLanes fun l => if m.getLsbD l then lane e.a.lanes l else lane e.b.lanes l)
      (e.taint ||| g.pTaint.getD (e.aux 16 4) 0)

/-- Leading zeros of a pattern of a width. -/
def leadingZeros (w n : Nat) : Nat := w - bitLen n

/-- Set bits of a pattern of a width. -/
def popCount (w n : Nat) : Nat := ((List.range w).filter fun k => n.testBit k).length

def execVclz (t : Tpl) (p : BitVec 4) (s : State) : Outcome :=
  intWord 0x11 false t p s fun f x _ _ => leadingZeros f.width (f.pattern x)
def execVpopc (t : Tpl) (p : BitVec 4) (s : State) : Outcome :=
  intWord 0x12 false t p s fun f x _ _ => popCount f.width (f.pattern x)

/-- The dot product of `n` elements of `w` bits packed in two lanes (R244). -/
def packedDot (n w : Nat) (ua ub : Bool) (a b : W32) : Int :=
  ((List.range n).map fun j =>
    ({ width := w, signed := !ua } : IntFmt).decode (bitsOf a.toNat (j * w) w) *
    ({ width := w, signed := !ub } : IntFmt).decode (bitsOf b.toNat (j * w) w)).sum

def packedDotWord (op n w : Nat) (t : Tpl) (p : BitVec 4) (s : State) : Outcome :=
  tplWord .x op { dsts := [0, 1], sat := true, aux := 0x30000 } t p s (fun _ _ => true) fun e s =>
    s.putLanes op e (mkLanes fun l =>
      ({ width := 32, signed := true } : IntFmt).toLane t.sat
        ((lane e.c.lanes l).toInt +
          packedDot n w (t.aux.getLsbD 16) (t.aux.getLsbD 17) (lane e.a.lanes l) (lane e.b.lanes l))) e.taintAll

def execVdot4 (t : Tpl) (p : BitVec 4) (s : State) : Outcome := packedDotWord 0x13 4 8 t p s
def execVdot8 (t : Tpl) (p : BitVec 4) (s : State) : Outcome := packedDotWord 0x14 8 4 t p s

/-- `vavg`: (x + y) / 2 rounded to an integer in the mode, one draw per active lane in SR (R242). -/
def execVavg (t : Tpl) (p : BitVec 4) (s : State) : Outcome :=
  tplWord .x 0x15 { fmts := intCodes, dsts := [0, 1], rnd := true, u := true } t p s (fun _ _ => true) fun e s =>
    let w := e.intFmt
    let m := s.tplMode t
    let d := s.laneDraws m e.act
    d.2.putLanes 0x15 e (mkLanes fun l =>
      let x := w.ofLane e.a.lanes l + w.ofLane e.b.lanes l
      w.toLane false (roundInt m (lane d.1 l).toNat (decide (x < 0)) x.natAbs (-1))) e.taint

def execVmov (t : Tpl) (p : BitVec 4) (s : State) : Outcome :=
  tplWord .x 0x16 { dsts := [0, 1] } t p s (fun _ _ => true) fun e s => s.putLanes 0x16 e e.a.lanes e.taint

/-- The item id a lane holds (07 R166), 0xFFFF_FFFF for none. -/
def Group.itemOf (g : Group) (l : Nat) : W32 := (g.items.getD l none).getD 0xFFFFFFFF#32

def execViota (t : Tpl) (p : BitVec 4) (s : State) : Outcome :=
  tplWord .x 0x17 { dsts := [0, 1], aux := 0x10000 } t p s (fun e _ => e.t.aux.getLsbD 16 || decide (2 ≤ kindOf e.t.srcA))
    fun e s =>
      let g := s.group s.cur.team s.cur.group
      s.putLanes 0x17 e (mkLanes fun l =>
        if t.aux.getLsbD 16 then g.itemOf l else BitVec.ofNat 32 l + lane e.a.lanes l) e.taint

/-- Position and length of `vbfx` and `vbfi` (R243). -/
def fieldOk (e : TEnv) : Bool :=
  decide (1 ≤ e.aux 5 6) && decide (e.aux 0 5 + e.aux 5 6 ≤ 32) && e.aux 11 5 == 0

def execVbfx (t : Tpl) (p : BitVec 4) (s : State) : Outcome :=
  tplWord .x 0x18 { fmts := [8], dsts := [0, 1], u := true, aux := 0xFFFF } t p s (fun e _ => fieldOk e) fun e s =>
    let f : IntFmt := { width := e.aux 5 6, signed := !t.aux.getLsbD 24 }
    s.putLanes 0x18 e (mkLanes fun l => BitVec.ofInt 32 (f.decode (bitsOf (lane e.a.lanes l).toNat (e.aux 0 5) (e.aux 5 6)))) e.taint

def execVbfi (t : Tpl) (p : BitVec 4) (s : State) : Outcome :=
  tplWord .x 0x19 { dsts := [0, 1], aux := 0xFFFF } t p s (fun e _ => fieldOk e) fun e s =>
    let pos := e.aux 0 5
    let len := e.aux 5 6
    s.putLanes 0x19 e (mkLanes fun l =>
      let x := (lane e.a.lanes l).toNat
      BitVec.ofNat 32 (x / 2 ^ (pos + len) * 2 ^ (pos + len) + bitsOf (lane e.b.lanes l).toNat 0 len * 2 ^ pos + x % 2 ^ pos)) e.taint

end Sys2Proof.Machine
end

