-- ==== Sys2Proof/Machine/Coverage.lean ====
section
/-!
DEFINITION. Item points, lattices, probes and the walker (04 R90 to R95, R103), `itemq`, `covrd` and `itemnext` (09 R213, 10
R257), the deferral drain (07 R168, 09 R214), and reconstruction with its error loop (04 R98 to R109).
-/
namespace Sys2Proof.Machine

/-! ## Lattices and probes (R95, R103) -/

/-- Whether a point lies on rung `n` of a pattern. -/
def onLattice (pattern n x y : Nat) : Bool :=
  match pattern with
  | 1 => match n with
    | 0 => true
    | 1 => (x + y) % 2 == 0
    | 2 => x % 2 == 0 && y % 2 == 0
    | 3 => x % 2 == 0 && y % 2 == 0 && (x + y) / 2 % 2 == 0
    | _ => x % 4 == 0 && y % 4 == 0
  | 2 => y % 2 ^ n == 0
  | 3 => x % 2 ^ n == 0
  | _ => x % 2 ^ n == 0 && y % 2 ^ n == 0

/-- The probe step of a rung in force (R103). -/
def probeStep (r : Nat) : Nat := if r = 0 then 1 else r

/-- The probe point of the block at (bx, by). -/
def probeOf (pattern k bx b_y : Nat) : Option (Nat × Nat) :=
  ((List.range 64).find? fun i =>
    let x := 8 * bx + i % 8
    let y := 8 * b_y + i / 8
    onLattice pattern (k - 1) x y && !onLattice pattern k x y).map fun i => (8 * bx + i % 8, 8 * b_y + i / 8)

/-- Whether a point is a probe point of a W × H surface. -/
def isProbe (pattern k w h x y : Nat) : Bool :=
  decide (8 * (x / 8) + 8 ≤ w) && decide (8 * (y / 8) + 8 ≤ h) && probeOf pattern k (x / 8) (y / 8) == some (x, y)

/-! ## Surfaces and tiles (R90) -/

/-- Whether a team is part of a coverage launch. -/
def State.covers (s : State) (t : Nat) : Bool := (s.inst (s.team t).inst).card.flag 3 && !(s.team t).fallback

/-- Width and height of the surface; (0, 0) before the team has declared its tile. -/
def State.surface (s : State) (t : Nat) : Nat × Nat :=
  let tm := s.team t
  let c := (s.inst tm.inst).card
  match tm.tile with
  | none => (0, 0)
  | some (w, h) => if tm.fallback then (w, h) else (c.gridX * w, c.gridY * h)

/-- Element size of a surface format (R98). -/
def surfaceBytes (fmt : Nat) : Nat := elemBits fmt / 8

/-- Whether the walk keeps a point (R92). -/
def State.keeps (s : State) (t x y : Nat) : Bool :=
  let i := s.inst (s.team t).inst
  if !s.covers t then true
  else
    let wh := s.surface t
    onLattice i.card.pattern i.rung x y || (i.sampled.isSome && isProbe i.card.pattern (probeStep i.rung) wh.1 wh.2 x y)

/-- The next item of a group: its point is the first kept one from the walk's position whose place in the list falls to the
group (R92); `n` bounds the points left. -/
def State.walkFind (s : State) (t g : Nat) : Nat → Walk → Option (W32 × Walk)
  | 0, _ => none
  | n + 1, k =>
    let tm := s.team t
    let tile := tm.tile.getD (1, 1)
    let x := tm.tx * tile.1 + k.pos % tile.1
    let y := tm.ty * tile.2 + k.pos / tile.1
    let x := if tm.fallback then k.pos % tile.1 else x
    let y := if tm.fallback then k.pos / tile.1 else y
    if s.keeps t x y then
      let k' : Walk := { pos := k.pos + 1, kept := k.kept + 1 }
      if k.kept / 32 % tm.groups.length = g then some (BitVec.ofNat 32 (y * (s.surface t).1 + x), k')
      else s.walkFind t g n k'
    else s.walkFind t g n { k with pos := k.pos + 1 }

/-- The next item of a group, if its walk has not ended. -/
def State.nextItem (s : State) (t g : Nat) : Option (W32 × Walk) :=
  let tile := (s.team t).tile.getD (0, 0)
  let k := (s.group t g).walk
  s.walkFind t g (tile.1 * tile.2 - k.pos) k

/-! ## itemq and covrd (09 R213) -/

/-- Declare the tile of a team. -/
def State.declareTile (s : State) (t w h : Nat) : State :=
  let s := s.modTeam t fun x => { x with tile := some (w, h) }
  if s.covers t then s.modInst (s.team t).inst fun x => if x.decl.isNone then { x with decl := some (w, h) } else x else s

def execItemq (a b : BitVec 6) (s : State) : Outcome :=
  cWord s fun s t =>
    let tm := s.team t
    let w := (tm.cReg a).toNat
    let h := (tm.cReg b).toNat
    let i := s.inst tm.inst
    let sw := i.card.gridX * w
    let sh := i.card.gridY * h
    if w = 0 ∨ 65535 < w ∨ h = 0 ∨ 65535 < h ∨ tm.tile.isSome then s.trapWith 0x041
    else if !s.covers t then .done (s.declareTile t w h)
    else match i.decl with
      | some d => if d = (w, h) then .done (s.declareTile t w h) else s.trapWith 0x308
      | none =>
        if tm.linear ≠ 0 then .wait s
        else if 2 ^ 32 < sw * sh ∨ i.card.pitch < sw * surfaceBytes i.card.elemFmt then s.trapWith 0x308
        else .done (s.declareTile t w h)

def execCovrd (d sel : BitVec 6) (s : State) : Outcome :=
  cWord s (bad := decide (4 < sel.toNat)) fun s t =>
    let i := s.inst (s.team t).inst
    let sampled := s.covers t && i.sampled.isSome
    let v : Nat := match sel.toNat with
      | 0 => s.rungOf t
      | 1 => if sampled then 1 else 0
      | 2 => if sampled then probeStep i.rung else 0
      | 3 => (s.surface t).1
      | _ => (s.surface t).2
    .done (s.modTeam t (·.setC d (BitVec.ofNat 64 v)))

/-! ## itemnext (10 R257, 07 R166) -/

/-- Give the lanes of a list their next items: the group's walk, items, destination lanes and LIVE. -/
def State.refill (s : State) (t g d : Nat) : List Nat → State
  | [] => s
  | l :: ls =>
    match s.nextItem t g with
    | some (id, k) =>
      (s.modGroup t g fun x =>
        let m : W32 := 1#32 <<< l
        { x.writeLanes .x 0 d m (splat id) 0 with
          walk := k, items := setAt none x.items l (some id) }).refill t g d ls
    | none =>
      (s.modGroup t g fun x =>
        { x with items := setAt none x.items l none, live := x.live &&& ~~~(1#32 <<< l) }).refill t g d ls

/-- Clear p1 to p15. -/
def Group.clearPreds (g : Group) : Group := { g with p := [0xFFFFFFFF#32], pTaint := [] }

/-- Whether the X context of a group is at the first kernel word of a REFILL record. -/
def atRefillHead (x : CtxState) : Bool :=
  match x.run with
  | some r => bitsOf r.lr.flags 3 1 == 1 && r.st == .kernel && r.pos == 0
  | none => false

/-- `itemnext`. Before the team has declared its tile the walk has delivered no id and has not ended: a word that needs one waits
(R166). -/
def execItemnext (t : Tpl) (p : BitVec 4) (s : State) : Outcome :=
  tplWord .x 0x4A { dsts := [0] } t p s (fun _ s => atRefillHead (s.ctxState s.cur)) fun e s =>
    let u := s.cur.team
    let g := s.cur.group
    let x := s.group u g
    let z := e.act ||| (x.live &&& mkMask fun l => (x.items.getD l none).isNone)
    if (s.team u).tile.isNone ∧ z ≠ 0 then .wait s
    else
      let s := (s.refill u g t.dstIdx.toNat (maskLanes z)).modGroup u g (·.clearPreds)
      let s := if (s.group u g).live = 0 then s.modRun s.cur fun r => { r with refillStopped := true } else s
      .done s

/-! ## Deferral drain (07 R168, 09 R214) -/

/-- What entries are ordered by: resume record, token, item, then the rest of their content, so that the order they were appended in
decides nothing (R168; log 89). -/
def DefEntry.key (e : DefEntry) : List Nat := [e.record, e.token, e.item.toNat, e.role, e.base] ++ e.live.map (·.toNat)

/-- Lexicographic order. -/
def listLt : List Nat → List Nat → Bool
  | [], [] => false
  | [], _ :: _ => true
  | _ :: _, [] => false
  | a :: as, b :: bs => decide (a < b) || (a == b && listLt as bs)

def entryLt (a b : DefEntry) : Bool := listLt a.key b.key

def insertEntry (e : DefEntry) : List DefEntry → List DefEntry
  | [] => [e]
  | x :: xs => if entryLt e x then e :: x :: xs else x :: insertEntry e xs

/-- Batches of at most 32 entries of one run, in sorted order; `cur` is the open batch. -/
def cutBatches (cur : List DefEntry) : List DefEntry → List DefBatch
  | [] => close cur
  | e :: es =>
    match cur with
    | [] => cutBatches [e] es
    | c :: _ =>
      if cur.length < 32 ∧ c.record = e.record ∧ c.token = e.token then cutBatches (cur ++ [e]) es
      else close cur ++ cutBatches [e] es
where
  close (cur : List DefEntry) : List DefBatch :=
    match cur with
    | [] => []
    | c :: _ => [{ record := c.record, role := c.role, entries := cur }]

/-- The batches of a deferral queue. -/
def batchesOf (es : List DefEntry) : List DefBatch := cutBatches [] (es.foldl (fun acc e => insertEntry e acc) [])

/-- Load a batch into a group: live registers, zero elsewhere in its lanes, s registers from the snapshot, predicates and LIVE
(R168). -/
def Group.loadBatch (g : Group) (b : DefBatch) (snap : List W64) : Group :=
  let n := b.entries.length
  let m : W32 := mkMask fun l => decide (l < n)
  let value (r l : Nat) : W32 := match b.entries[l]? with
    | some e => if e.base ≤ r then e.live.getD (r - e.base) 0 else 0
    | none => 0
  { g with
    v := (List.range g.vregs).map fun r => mergeLanes m (g.vReg r) (mkLanes (value r)),
    vTaint := (List.range g.vregs).map fun r => mergeMask m (g.vTaint.getD r 0) 0,
    s := 0 :: snap, sTaint := 0, p := [0xFFFFFFFF#32], pTaint := [], live := m,
    items := b.entries.map fun e => some e.item }

/-- Place batches on the free groups of their role, lowest first, issuing the resume record, until one finds none (R168). -/
def State.placeBatches (s : State) (t : Nat) (snap : List W64) : List DefBatch → Sum MErr (List DefBatch × State)
  | [] => .inr ([], s)
  | b :: bs =>
    let tm := s.team t
    match (List.range tm.groups.length).find? fun g => (tm.group g).role == b.role && (tm.group g).xctx.idle with
    | none => .inr (b :: bs, s)
    | some g =>
      match s.readRecord t b.record with
      | .inl c => .inl c
      | .inr r =>
        let run := entryRun tm.lc b.record r s.cycle
        let run := if run.total = 0 then { run with st := .retired } else run
        ((s.modGroup t g (·.loadBatch b snap)).modCtx (.x t g) fun y => { y with run := some run, stopped := false }).placeBatches t snap bs

/-- Whether an X record of a team is in PROLOGUE, KERNEL or EPILOGUE. -/
def Team.xBusy (tm : Team) : Bool :=
  tm.groups.any fun g => match g.xctx.run with
    | some r => r.st.issues
    | none => false

def execDefdrain (d a n : BitVec 6) (s : State) : Outcome :=
  cWord s (bad := decide (4 ≤ d.toNat) || decide (32 ≤ n.toNat) || (n != 0 && decide (63 < a.toNat + n.toNat - 1))) fun s t =>
    let tm := s.team t
    let k := n.toNat
    if tm.ctrl.ticket.isNone ∧ tm.xBusy then .wait s
    else
      let s := if tm.ctrl.ticket.isSome then s
        else s.modTeam t fun tm =>
          { tm with drain := batchesOf (tm.dq.getD d.toNat []), dq := setAt [] tm.dq d.toNat [],
                    dqScalars := setAt [] tm.dqScalars d.toNat ((List.range k).map fun j => tm.cReg (BitVec.ofNat 6 (a.toNat + j))) }
      let s := s.modCtrl t fun k => { k with ticket := some 1 }
      match s.placeBatches t ((s.team t).dqScalars.getD d.toNat []) (s.team t).drain with
      | .inl e => s.errEff e
      | .inr (rest, s) =>
        let s := s.modTeam t fun tm => { tm with drain := rest }
        if rest.isEmpty then .done s else .wait s

/-! ## Reconstruction (R98 to R101) -/

/-- Offsets of a neighbour set. -/
def axisSet (h : Int) : List (Int × Int) := [(-h, 0), (0, -h), (h, 0), (0, h)]
def diagSet (h : Int) : List (Int × Int) := [(-h, -h), (h, -h), (-h, h), (h, h)]

/-- The neighbour set of a point filled by pass `k` (R99). -/
def neighbours (pattern k x y : Nat) : List (Int × Int) :=
  let h : Nat := 2 ^ (k - 1)
  match pattern with
  | 1 => match k with
    | 1 => axisSet 1
    | 2 => diagSet 1
    | 3 => axisSet 2
    | _ => diagSet 2
  | 2 => [(0, -h), (0, h)]
  | 3 => [(-h, 0), (h, 0)]
  | _ =>
    if x / h % 2 = 1 ∧ y / h % 2 = 1 then diagSet h
    else if x / h % 2 = 1 then [(-h, 0), (h, 0)]
    else [(0, -h), (0, h)]

/-- The present neighbours of a point. -/
def present (w h x y : Nat) (ns : List (Int × Int)) : List (Nat × Nat) :=
  ns.filterMap fun n =>
    let a := (x : Int) + n.1
    let b := (y : Int) + n.2
    if 0 ≤ a ∧ a < w ∧ 0 ≤ b ∧ b < h then some (a.toNat, b.toNat) else none

/-- A finite value divided by a positive whole number. -/
def divNat (v : Val) (n : Nat) : Val :=
  match v with
  | .fin s m e => divFin s m e false n 0
  | v => v

/-- The filled value of a point from the bits of its present neighbours (R100). -/
def fillValue (fmt interp : Nat) (ns : List Nat) : Nat :=
  let vals := ns.map (elemOf fmt).val
  match interp with
  | 0 => ns.headD 0
  | 1 => (elemOf fmt).write .rne false 0 (divNat (sumVals .rne vals) ns.length)
  | _ =>
    let sum : Int := (vals.map intOfVal).sum
    let q := (2 * sum.natAbs + ns.length) / (2 * ns.length)
    (elemOf fmt).write .rne false 0 (.ofInt (if sum < 0 then -(q : Int) else q))

/-- What reconstruction of an instance works on: partition, revision, surface, size. -/
structure Surf where
  card : Card
  w : Nat
  h : Nat
  rung : Nat
  rev : Nat := 0
  deriving DecidableEq, Repr

def Surf.addr (f : Surf) (x y : Nat) : Nat := f.card.surfaceBase + y * f.card.pitch + x * surfaceBytes f.card.elemFmt

/-- Read an element of the surface at home. -/
def State.surfRead (s : State) (f : Surf) (x y : Nat) : Sum Cause Nat :=
  match s.engineReadPage f.card.pid f.rev (f.addr x y) (surfaceBytes f.card.elemFmt) .read with
  | .inl c => .inl c
  | .inr bs => .inr (natOfBytes bs)

/-- Read the elements of a list of points. -/
def State.surfReads (s : State) (f : Surf) : List (Nat × Nat) → Sum Cause (List Nat)
  | [] => .inr []
  | p :: ps => match s.surfRead f p.1 p.2 with
    | .inl c => .inl c
    | .inr v => match s.surfReads f ps with
      | .inl c => .inl c
      | .inr vs => .inr (v :: vs)

/-- The value R100 gives at a point from rung `k`. -/
def State.surfValue (s : State) (f : Surf) (k x y : Nat) : Sum Cause Nat :=
  match s.surfReads f (present f.w f.h x y (neighbours f.card.pattern k x y)) with
  | .inl c => .inl c
  | .inr vs => .inr (fillValue f.card.elemFmt f.card.interp vs)

/-- One pass over the points from index `p`, `n` points left (R99, R101). A failure leaves what was written (R109). -/
def State.pass (s : State) (f : Surf) (k : Nat) (sampled : Bool) : Nat → Nat → Sum (Cause × State) State
  | 0, _ => .inr s
  | n + 1, p =>
    let x := p % f.w
    let y := p / f.w
    let probe := sampled && isProbe f.card.pattern (probeStep f.rung) f.w f.h x y
    if !onLattice f.card.pattern (k - 1) x y || onLattice f.card.pattern k x y || probe then s.pass f k sampled n (p + 1)
    else match s.surfValue f k x y with
      | .inl c => .inl (c, s)
      | .inr v =>
        match s.engineWrite f.card.pid f.rev (f.addr x y) (bytesOfNat (surfaceBytes f.card.elemFmt) v) with
        | .inl c => .inl (c, s)
        | .inr s => s.pass f k sampled n (p + 1)

/-- The passes from rung `k` down to 1. -/
def State.passes (s : State) (f : Surf) (sampled : Bool) : Nat → Sum (Cause × State) State
  | 0 => .inr s
  | k + 1 => match s.pass f (k + 1) sampled (f.w * f.h) 0 with
    | .inl c => .inl c
    | .inr s => s.passes f sampled k

/-! ## The sampled error (R104, R105) -/

/-- The probe points of a surface. -/
def probes (f : Surf) : List (Nat × Nat) :=
  (List.range (f.h / 8)).flatMap fun b_y => (List.range (f.w / 8)).filterMap fun bx => probeOf f.card.pattern (probeStep f.rung) bx b_y

/-- The error at a probe point. -/
def probeError (fmt c q : Nat) : Val :=
  let a := (elemOf fmt).val c
  let b := (elemOf fmt).val q
  match a, b with
  | .nan, _ => .inf false
  | _, .nan => .inf false
  | .inf _, .inf _ => .inf false
  | a, b => match sumVals .rne [a, b.neg] with
    | .fin _ m e => .fin false m e
    | .inf _ => .inf false
    | v => v

/-- The errors at the probe points. -/
def State.probeErrors (s : State) (f : Surf) : List (Nat × Nat) → Sum Cause (List Val)
  | [] => .inr []
  | p :: ps => match s.surfRead f p.1 p.2, s.surfValue f (probeStep f.rung) p.1 p.2 with
    | .inr c, .inr q => match s.probeErrors f ps with
      | .inr es => .inr (probeError f.card.elemFmt c q :: es)
      | .inl c => .inl c
    | .inl c, _ => .inl c
    | _, .inl c => .inl c

/-- E: the rounded mean (R104). -/
def meanError (es : List Val) : W32 := BitVec.ofNat 32 (fp32.round .rne false 0 (divNat (sumVals .rne es) es.length))

/-- The surface of an instance in a revision, once a tile was declared. -/
def Inst.surf (x : Inst) (rev : Nat) : Option Surf :=
  x.decl.map fun d => { card := x.card, w := x.card.gridX * d.1, h := x.card.gridY * d.2, rung := x.rung, rev := rev }

/-- The passes in each of a list of revisions (20 R465: in each copy's revision). -/
def State.passesAll (s : State) (x : Inst) : List Nat → Sum (Cause × State) State
  | [] => .inr s
  | r :: rs => match x.surf r with
    | none => .inr s
    | some f => match s.passes f x.sampled.isSome x.rung with
      | .inl c => .inl c
      | .inr s => s.passesAll x rs

/-- The revisions reconstruction works in: the base; the two copies; or the tie-break copy. -/
def Inst.reconRevs (x : Inst) : List Nat :=
  if !x.redundant then [0] else if x.tie then x.revs.drop 2 else x.revs.take 2

/-- The sampled error of an instance, kept for its update instant (R104, R105). -/
def State.sampleError (s : State) (i : Nat) (f : Surf) : Sum Cause State :=
  match probes f with
  | [] => .inr s
  | ps => match s.probeErrors f ps with
    | .inl c => .inl c
    | .inr es => .inr (s.modInst i fun y => { y with error := some (meanError es) })

/-- Reconstruction of an instance: its passes and its sampled error, or the cause that ends it with what was written before
(R109). -/
def State.reconstruct (s : State) (i : Nat) : Sum (Cause × State) State :=
  let x := s.inst i
  match s.passesAll x x.reconRevs, x.surf (x.reconRevs.headD 0) with
  | .inl c, _ => .inl c
  | .inr s, none => .inr s
  | .inr s, some f =>
    if x.sampled.isNone || x.tie then .inr s
    else match s.sampleError i f with
      | .inl c => .inl (c, s)
      | .inr s => .inr s

/-! ## Units (R106, R107, R109) -/

/-- The die whose reconstruction unit serves an instance. -/
def Card.reconDie (c : Card) : Nat := dieOf (((List.range 28).find? fun k => bitsOf c.clusterMask k 1 == 1).getD 0)

/-- Instances waiting for the unit of a die: RETIRING coverage instances not reconstructed. -/
def State.reconWaiting (s : State) (d : Nat) : List Nat :=
  ((List.range s.insts.length).filter fun i =>
    let x := s.inst i
    x.st == .retiring && x.card.flag 3 && !x.reconDone && (s.instTeams i).isEmpty && !x.unplaced && x.card.reconDie == d).foldl (fun acc i => insertRank s i acc) []

/-- The event RECONSTRUCTION_START on the unit of die `n`. -/
def execReconstructionStart (s : State) : Outcome :=
  let d := s.ev.n
  .next (match s.lodge.recon.getD d none, s.reconWaiting d with
    | none, i :: _ => { s with lodge.recon := setAt none s.lodge.recon d (some i) }
    | _, _ => s)

/-- A surface access of a reconstruction unit fails: the instance leaves RETIRING under the cause's disposition; HANDLER acts
as STOP (R109). -/
def State.reconFail (s : State) (i : Nat) (c : Cause) : State :=
  let x := s.inst i
  let s := s.logInstCause i 2 c
  match x.card.nibble c with
  | 5 => s.holdInstance i (instRaise c s.now)
  | 2 => s.failInstance i true
  | _ => s.failInstance i false

/-- The event RECONSTRUCTION_COMPLETE on the unit of die `n`. -/
def execReconstructionComplete (s : State) : Outcome :=
  let d := s.ev.n
  .next (match s.lodge.recon.getD d none with
    | none => s
    | some i =>
      let s := { s with lodge.recon := setAt none s.lodge.recon d none }
      if (s.inst i).st != .retiring then s
      else match s.reconstruct i with
        | .inl (c, s) => s.reconFail i c
        | .inr s => (s.modInst i fun y => { y with reconDone := true }).finishInstance i)

end Sys2Proof.Machine
end

