-- ==== Sys2Proof/Machine/Cards.lean ====
section
/-!
DEFINITION. Job cards and kernel images as Bandstand reads and checks them at acceptance (01 R15 to R34, 04 R95 to R102, 13 R322,
20 R464).
-/
namespace Sys2Proof.Machine

/-- A little-endian field of a list of bytes. -/
def fieldOf (bs : List Byte) (off n : Nat) : Nat := natOfBytes ((bs.drop off).take n)

/-- The bytes of a range are zero. -/
def zeroBytes (bs : List Byte) (off n : Nat) : Bool := ((bs.drop off).take n).all (· == 0)

/-! ## The card (R20, R27) -/

def parseCard (bs : List Byte) : Card :=
  let f (off n : Nat) : Nat := fieldOf bs off n
  { flags := f 0x04 4, periodNs := f 0x08 8, deadlineNs := f 0x10 8, firstReleaseNs := f 0x18 8, budgetNs := f 0x20 8,
    regulator := f 0x28 1, bwBytes := f 0x2C 4, pid := f 0x30 1, criticality := f 0x31 1, clusterMask := f 0x34 4,
    imageAddr := f 0x38 8, entryRecord := f 0x40 8, gridX := f 0x48 2, gridY := f 0x4A 2, gridZ := f 0x4C 2, groups := f 0x4E 1,
    roles := f 0x4F 1, args := f 0x50 8, handlerRecord := f 0x58 8, fallbackRecord := f 0x60 8, disposition := f 0x68 8,
    genPin := f 0x70 8, surfaceBase := f 0x78 8, pitch := f 0x80 4, elemFmt := f 0x84 1, pattern := f 0x85 1, ladder := f 0x86 1,
    interp := f 0x87 1, threshLo := f 0x88 4, threshHi := f 0x8C 4, updateInterval := f 0x90 4, completionCounter := f 0x98 8,
    msixVector := f 0xA0 4 }

/-- Clusters of a mask. -/
def maskClusters (m : Nat) : List Nat := (List.range 28).filter fun k => bitsOf m k 1 == 1

/-- Code 3: times, budget, bandwidth, criticality (R20, R22). -/
def Card.timesOk (c : Card) : Bool :=
  (if c.flag 2 then
    decide (10000 ≤ c.periodNs) && decide (c.periodNs ≤ 2 ^ 40) && decide (1000 ≤ c.deadlineNs) && decide (c.deadlineNs ≤ c.periodNs) &&
    decide (c.firstReleaseNs < 2 ^ 63)
  else c.periodNs == 0 && decide (1000 ≤ c.deadlineNs) && decide (c.deadlineNs ≤ 2 ^ 40) && c.firstReleaseNs == 0) &&
  decide (1 ≤ c.budgetNs) && decide (c.budgetNs ≤ c.deadlineNs * (maskClusters c.clusterMask).length) && decide (1 ≤ c.bwBytes) &&
  decide (c.criticality ≤ 3)

/-- Code 4: partition and clusters (R20, R75, 20 R464). -/
def Card.placeOk (c : Card) (page : Nat) (p : Part) : Bool :=
  let ks := maskClusters c.clusterMask
  c.pid == page && p.valid && decide (c.clusterMask < 2 ^ 28) && c.clusterMask != 0 &&
  ks.all (fun k => p.clusters.getLsbD k) &&
  (!c.flag 7 || (ks.length == 3 && (ks.all isMCluster || ks.all fun k => !isMCluster k) && bitsOf p.revCfg.toNat 0 1 == 1))

/-- Code 7: the disposition nibbles (R24, R25). -/
def Card.dispositionOk (c : Card) : Bool :=
  (List.range 16).all fun k =>
    let n := bitsOf c.disposition (4 * k) 4
    decide (n ≤ 5) && (n != 1 || c.handlerRecord != 0xFFFF) && (n != 2 || c.fallbackRecord != 0xFFFF) &&
    (n != 4 || k == 8 || k == 11 || k == 12) && (k != 15 || n == 5)

/-- Code 10: reserved and pad bytes, and fields of flags that are clear. -/
def cardZeros (c : Card) (bs : List Byte) : Bool :=
  zeroBytes bs 0x29 3 && zeroBytes bs 0x32 2 && zeroBytes bs 0x94 4 && zeroBytes bs 0xA4 92 && decide (c.msixVector < 2 ^ 11) &&
  (c.flag 5 || c.completionCounter == 0) && (c.flag 6 || c.msixVector == 0) && (c.flag 3 || zeroBytes bs 0x78 32)

/-- Code 11: addresses. SURFACE_BASE is checked against the element size where the format gives one (04 R98). -/
def Card.imageAddrOk (c : Card) : Bool := c.imageAddr % 256 == 0 && decide (c.imageAddr < 2 ^ 51)
def Card.addrsOk (c : Card) : Bool :=
  let e := surfaceBytes c.elemFmt
  c.imageAddrOk && c.args % 64 == 0 && decide (c.args < 2 ^ 51) && c.completionCounter % 8 == 0 &&
  decide (c.completionCounter < 2 ^ 51) && decide (c.surfaceBase < 2 ^ 51) &&
  (!c.flag 3 || !([0, 1, 2, 8, 9, 10, 11, 26] : List Nat).contains c.elemFmt || c.surfaceBase % e == 0)

/-- A threshold is not negative, NaN or infinite (04 R102). -/
def threshOk (w : Nat) : Bool :=
  match fp32.decode w with
  | .fin n m _ => !n || m == 0
  | _ => false

/-- Code 12: the COVERAGE block (04 R90, R95, R96, R98, R102). -/
def Card.coverageOk (c : Card) (bs : List Byte) : Bool :=
  !c.flag 3 ||
  (decide (1 ≤ c.pattern) && decide (c.pattern ≤ 4) && decide (bitsOf c.ladder 4 4 ≤ bitsOf c.ladder 0 4) &&
    decide (bitsOf c.ladder 0 4 ≤ sparsest c.pattern) &&
    (if ([0, 1, 2] : List Nat).contains c.elemFmt then decide (c.interp ≤ 1)
     else ([8, 9, 10, 11, 26] : List Nat).contains c.elemFmt && (c.interp == 0 || c.interp == 2)) &&
    c.pitch != 0 && c.pitch % surfaceBytes c.elemFmt == 0 &&
    (c.flag 2 || c.updateInterval == 0) && decide (c.updateInterval ≤ 65535) && threshOk c.threshLo && threshOk c.threshHi &&
    !ltVal (fp32.decode c.threshHi) (fp32.decode c.threshLo) && zeroBytes bs 0x94 4 && c.gridZ == 1)

/-! ## The image (R31 to R34) -/

/-- Read bytes of an image for acceptance (R19): a translation failure, or a failed read. -/
def State.readImage (s : State) (pid va n : Nat) : Sum Cause (List Byte) := s.engineReadPage pid 0 va n .read

def parseImage (base : Nat) (bs : List Byte) : Image :=
  let f (off n : Nat) : Nat := fieldOf bs off n
  { base := base, flags := f 6 2, bytes := f 8 4, scratchBytes := f 12 4, privateWords := f 16 4, accTiles := f 20 1,
    sections := (List.range 12).map fun k => (f (0x20 + 8 * k) 4, f (0x24 + 8 * k) 4) }

/-- Whether section `k` lies within the image and overlaps no other (R32). -/
def Image.sectionOk (im : Image) (k : Nat) : Bool :=
  let x := im.sections.getD k (0, 0)
  if x.2 = 0 then x.1 == 0
  else x.1 % 8 == 0 && decide (x.1 + x.2 ≤ im.bytes) &&
    (List.range 12).all fun j =>
      let y := im.sections.getD j (0, 0)
      j == k || y.2 == 0 || decide (x.1 + x.2 ≤ y.1) || decide (y.1 + y.2 ≤ x.1)

/-- Sizes of the sections' contents. -/
def Image.sizesOk (im : Image) : Bool :=
  let n (k : Nat) : Nat := (im.sections.getD k (0, 0)).2
  n 0 != 0 && n 0 % 4 == 0 && n 1 % 4 == 0 && n 2 % 4 == 0 && n 3 % 8 == 0 && n 4 % 1040 == 0 && n 5 % 8 == 0 && decide (n 5 ≤ 64) &&
  (n 6 == 0 || n 6 == 16) && n 7 != 0 && n 7 % 64 == 0 && decide (n 7 ≤ 65535 * 64) && n 8 % 16 == 0 && n 10 == 0 && n 11 == 0

/-- The header's limits (R31). SCRATCH_BYTES and ACC_TILES beyond a core are code 15 (R32, log 36). -/
def headerOk (im : Image) (bs : List Byte) : Bool :=
  fieldOf bs 0 4 == 0x0DC04B49 && fieldOf bs 4 2 == 1 && decide (im.flags ≤ 1) && im.bytes % 256 == 0 && decide (im.bytes ≤ 2 ^ 26) &&
  im.scratchBytes % 64 == 0 && decide (im.privateWords ≤ 65536) &&
  zeroBytes bs 0x15 11

/-- A valid ring declaration's limits (R33). The limits of an entry whose valid bit is 0 are not checked (log 77: the rule does not say
whether they hold for it). -/
def ringOk (im : Image) (bs : List Byte) : Bool :=
  let f (off n : Nat) : Nat := fieldOf bs off n
  bitsOf (f 7 1) 3 4 == 0 && (f 7 1 < 128 ||
    (f 0 4 % 64 == 0 && decide (64 ≤ f 4 2) && decide (f 4 2 ≤ 32768) && f 4 2 % 64 == 0 && decide (2 ≤ f 6 1) && decide (f 6 1 ≤ 16) &&
      decide (f 0 4 + f 4 2 * f 6 1 ≤ im.scratchBytes)))

/-- Cut a list of bytes into entries. -/
def chunks (n : Nat) : Nat → List Byte → List (List Byte)
  | 0, _ => []
  | k + 1, bs => bs.take n :: chunks n k (bs.drop n)

/-- The rings of one image do not overlap. -/
def ringsApart : List (Nat × Nat) → Bool
  | [] => true
  | r :: rs => rs.all (fun q => decide (r.1 + r.2 ≤ q.1) || decide (q.1 + q.2 ≤ r.1)) && ringsApart rs

def ringsOk (im : Image) (es : List (List Byte)) : Bool :=
  es.all (ringOk im) &&
  ringsApart ((es.filter fun e => decide (128 ≤ fieldOf e 7 1)).map fun e => (fieldOf e 0 4, fieldOf e 4 2 * fieldOf e 6 1))

def parseRole (bs : List Byte) : Role := { groups := fieldOf bs 0 1, vregs := fieldOf bs 1 1, aEntry := fieldOf bs 4 2, xEntry := fieldOf bs 6 2 }

/-- A role-table entry's limits (R34). -/
def roleOk (bs : List Byte) : Bool :=
  let r := parseRole bs
  decide (1 ≤ r.groups) && decide (r.groups ≤ 16) && ([16, 32, 48, 64] : List Nat).contains r.vregs && zeroBytes bs 2 2 && zeroBytes bs 8 8

/-- What acceptance reads of an image: the entries of a part whose read failed are empty, and `failed` holds the causes of the failed
reads; `noRoles` says that the role table's read failed. -/
structure ImageRead where
  head : List Byte := []
  image : Image := {}
  rings : List (List Byte) := []
  roles : List (List Byte) := []
  noRoles : Bool := false
  failed : List Cause := []
  deriving DecidableEq, Repr

/-- The bytes of a read, none where it failed. -/
def bytesRead : Sum Cause (List Byte) → List Byte
  | .inl _ => []
  | .inr bs => bs

/-- The cause of a failed read. -/
def readCause {α : Type} : Sum Cause α → Option Cause
  | .inl e => some e
  | .inr _ => none

/-- Read the header, the ring declarations and the role table, each where its section is valid. A part that cannot be read leaves the
conditions on the other parts to be evaluated (R29: the first code whose condition holds decides). -/
def State.readImageParts (s : State) (c : Card) : Sum Cause ImageRead :=
  match s.readImage c.pid c.imageAddr 128 with
  | .inl e => .inl e
  | .inr head =>
    let im := parseImage c.imageAddr head
    let part (k n : Nat) : Sum Cause (List Byte) :=
      if im.sectionOk k then s.readImage c.pid (c.imageAddr + (im.sections.getD k (0, 0)).1) (min n (im.sections.getD k (0, 0)).2)
      else .inr []
    let rings := part 5 64
    let roles := part 8 64
    let rs := bytesRead rings
    let ro := bytesRead roles
    .inr { head := head, image := im, rings := chunks 8 (rs.length / 8) rs, roles := chunks 16 (ro.length / 16) ro,
           noRoles := roles.isLeft, failed := (readCause rings).toList ++ (readCause roles).toList }

/-- Code 6: the grid, and the role table's sums (R34). -/
def Card.gridOk (c : Card) (r : Option ImageRead) : Bool :=
  c.gridX != 0 && c.gridY != 0 && c.gridZ != 0 && decide (1 ≤ c.groups) && decide (c.groups ≤ 16) && decide (1 ≤ c.roles) &&
  decide (c.roles ≤ 4) &&
  match r with
  | none => true
  | some x => !x.image.sectionOk 8 ||
      ((x.image.sections.getD 8 (0, 0)).2 == 16 * c.roles && (x.noRoles || (x.roles.map fun e => (parseRole e).groups).sum == c.groups))

/-- Code 8. -/
def ImageRead.valid (x : ImageRead) : Bool :=
  headerOk x.image x.head && (List.range 12).all x.image.sectionOk && x.image.sizesOk && ringsOk x.image x.rings && x.roles.all roleOk

/-- A record an index names, if it is valid for a stream. -/
def State.recordAt (s : State) (c : Card) (im : Image) (st idx : Nat) : Sum Cause (Option LoopRec) :=
  if im.recordCount ≤ idx then .inr none
  else match s.readImage c.pid (im.recordAddr idx) 64 with
    | .inl e => .inl e
    | .inr bs => .inr (if recordFields im st (parseRecord bs) then some (parseRecord bs) else none)

/-- The records a card and a role table name: stream and index. -/
def namedRecords (c : Card) (x : ImageRead) : List (Nat × Nat) :=
  [(3, c.entryRecord)] ++ (if c.handlerRecord = 0xFFFF then [] else [(3, c.handlerRecord)]) ++
  (if c.fallbackRecord = 0xFFFF then [] else [(3, c.fallbackRecord)]) ++
  x.roles.flatMap fun e =>
    let r := parseRole e
    (if r.aEntry = 0xFFFF then [] else [(0, r.aEntry)]) ++ (if r.xEntry = 0xFFFF then [] else [(1, r.xEntry)])

/-- Code 15: what one core, and the private pool, cannot hold (R32, R34, 13 R322). -/
def ImageRead.fits (x : ImageRead) (c : Card) (p : Part) : Bool :=
  decide (x.image.scratchBytes ≤ 2 ^ 18) && decide (x.image.accTiles ≤ 8) &&
  decide (((x.roles.map parseRole).map fun r => r.groups * r.vregs).sum ≤ 1024) &&
  decide (x.image.privateWords ≤ p.wpage * 256) && (x.image.privateWords == 0 || decide (c.groups ≤ p.privCount.toNat))

/-! ## Acceptance (R29) -/

/-- Outcome of the checks: the reject code, or the parts of an accepted card. `lost` marks data the read could not give
(R19). -/
structure Checked where
  code : Nat := 0
  lost : Bool := false
  card : Card := {}
  image : Image := {}
  roles : List Role := []
  entryRec : LoopRec := {}
  handlerRec : LoopRec := {}
  fallbackRec : LoopRec := {}
  deriving DecidableEq, Repr

/-- The first code whose condition holds. -/
def firstCode : List (Nat × Bool) → Nat
  | [] => 0
  | (n, bad) :: rest => if bad then n else firstCode rest

/-- Whether a cause is one of a failed translation, which Belvedere does not hear of (R19). -/
def translationCause (c : Cause) : Bool := c == 0x100 || c == 0x101 || c == 0x102 || c == 0x108

/-- Check a card of a page from its 256 bytes. -/
def State.checkCard (s : State) (page : Nat) (bs : List Byte) : Checked :=
  let c := parseCard bs
  let p := s.part c.pid
  let img : Option (Sum Cause ImageRead) := if c.imageAddrOk then some (s.readImageParts c) else none
  let x : Option ImageRead := match img with
    | some (.inr x) => some x
    | _ => none
  let recs : List (Sum Cause (Option LoopRec)) := match x with
    | some x => if x.image.sectionOk 7 then (namedRecords c x).map fun r => s.recordAt c x.image r.1 r.2 else []
    | none => []
  let failed : Option Cause := match img with
    | some (.inl e) => some e
    | some (.inr x) => (x.failed ++ recs.filterMap readCause).head?
    | none => none
  let code := firstCode
    [(1, fieldOf bs 0 4 != 0x0DC04A42), (2, (decide (2 ^ 8 ≤ c.flags) || bitsOf c.flags 0 1 == 1)), (3, !c.timesOk),
     (4, !c.placeOk page p), (5, (decide (63 < c.regulator) || !p.regs.getLsbD c.regulator)), (6, !c.gridOk x),
     (7, !c.dispositionOk), (8, (match x with
       | some x => !x.valid
       | none => false)), (9, recs.contains (.inr none)), (10, !cardZeros c bs), (11, !c.addrsOk), (12, !c.coverageOk bs),
     (13, (!c.flag 4 && c.genPin != 0)), (14, failed.isSome), (15, (match x with
       | some x => !x.fits c p
       | none => false))]
  let rec3 (idx : Nat) : LoopRec := match x with
    | some x => match s.recordAt c x.image 3 idx with
      | .inr (some r) => r
      | _ => {}
    | none => {}
  { code := code, lost := decide (code = 14) && (match failed with
      | some e => !translationCause e
      | none => false),
    card := c, image := (x.map (·.image)).getD {}, roles := ((x.map (·.roles)).getD []).map parseRole,
    entryRec := rec3 c.entryRecord, handlerRec := rec3 c.handlerRecord, fallbackRec := rec3 c.fallbackRecord }

/-- The 256 bytes of a card in the job table (R15), or the failure of their read. All are read in one step (log 78: a card written while
it is read never shows old and new fields together). -/
def State.cardBytes (s : State) (n : Nat) : Sum Cause (List Byte) :=
  let a := s.lodge.jobBase.toNat * 4096 + n * 256
  match (List.range 8).findSome? fun k => s.homeFail (a + 32 * k) with
  | some c => .inl c
  | none => .inr (s.homeBytes 0 a a 256)

end Sys2Proof.Machine
end

