-- ==== Sys2Proof/Machine/Writes.lean ====
section
/-!
DEFINITION. Writes of the registers of windows W1 and W0 (00 R13, 22 R491): which row of the opcode table a write belongs to, the
rows of the partition and job-table registers (01 R16, 03 R74 to R76), every write without a row of its own, the reads with a side
effect (02 R43, R49, 03 R82), and signals to the host (22 R487, R488, R494).
-/
namespace Sys2Proof.Machine

/-! ## Signals to the host (22 R487, R488, R494) -/

/-- Whether a vector of the MSI-X table is masked. -/
def State.msixMasked (s : State) (v : Nat) : Bool := (s.msixEntry v).ctl.getLsbD 0

/-- Signal a vector: an interrupt source as root complex; else a message, or a pending bit while the entry is masked. -/
def State.signalVector (s : State) (v : Nat) : State :=
  if s.hostMode then { s with out := s.out ++ [.irq v] }
  else if s.msixMasked v then
    { s with lodge.msixPend := if s.lodge.msixPend.contains v then s.lodge.msixPend else v :: s.lodge.msixPend }
  else { s with out := s.out ++ [.msix v] }

/-- Belvedere's host report: vector VEC of DEV_STAT (22 R494). -/
def State.signalStatus (s : State) : State := s.signalVector s.lodge.devVec.toNat

/-- Pending vectors whose entries are no longer masked are sent. -/
def State.flushPending (s : State) : State :=
  let go := s.lodge.msixPend.filter fun v => !s.msixMasked v
  { s with lodge.msixPend := s.lodge.msixPend.filter (fun v => s.msixMasked v), out := s.out ++ go.map OutMsg.msix }

/-! ## The unit a write touches -/

def RegWrite.base (w : RegWrite) : Nat := w.off / 8 * 8
/-- The written bits in their aligned 8-byte unit, and their mask. -/
def RegWrite.bits (w : RegWrite) : W64 := BitVec.ofNat 64 (w.data.toNat % 2 ^ (8 * w.bytes) * 2 ^ (w.off % 8 * 8))
def RegWrite.mask (w : RegWrite) : W64 := BitVec.ofNat 64 ((2 ^ (8 * w.bytes) - 1) * 2 ^ (w.off % 8 * 8))

/-- The rows that writes belong to. -/
inductive RegRow where
  | submit | withdraw | tlbPage | tlbPart | tlbTable | fltResolved | fltUnresolved | swapOut | swapIn | pageMove
  | validSet | validClear | partLock | jobtabLock | plain
  deriving DecidableEq, Repr

/-- The row of a write to a W1 page: SUBMIT by its OP (02 R43). -/
def w1Row (off : Nat) (d m : W64) : RegRow :=
  if off % 4096 ≠ 0 ∨ !touches m 0 32 then .plain
  else if bitsOf d.toNat 30 2 = 1 then .withdraw
  else .submit

/-- The row of a write to PART_CTL (03 R74): a change of VALID, else a set LOCK. -/
def Part.ctlRow (p : Part) (d m : W64) : RegRow :=
  if p.lock then .plain
  else if touches m 0 1 && d.getLsbD 0 && !p.valid then .validSet
  else if touches m 0 1 && !d.getLsbD 0 && p.valid then .validClear
  else if d.getLsbD 1 then .partLock
  else .plain

/-- The row of a PART_SWAP write (21 R477). -/
def State.swapRow (s : State) (d m : W64) : RegRow :=
  let st := (s.part (bitsOf d.toNat 4 4)).swapState
  if !touches m 0 8 then .plain
  else if bitsOf d.toNat 0 2 = 1 ∧ st = 0 then .swapOut
  else if bitsOf d.toNat 0 2 = 2 ∧ st = 2 then .swapIn
  else .plain

/-- The row of a write to W0. -/
def State.w0Row (s : State) (o : Nat) (d m : W64) : RegRow :=
  if o = 0x0000 then (if d.getLsbD 0 && !s.lodge.jobLock then .jobtabLock else .plain)
  else if 0x0400 ≤ o ∧ o < 0x0600 ∧ o % 32 = 16 then (s.part ((o - 0x0400) / 32)).ctlRow d m
  else if 0x0900 ≤ o ∧ o < 0x0980 then (if d.getLsbD 63 then .fltUnresolved else .fltResolved)
  else if o = 0x0980 then
    match bitsOf d.toNat 61 3 with
    | 0 => .tlbPage
    | 1 => .tlbPart
    | 2 => .tlbTable
    | _ => .plain
  else if o = 0x0B48 then s.swapRow d m
  else if o = 0x1310 then (if d.getLsbD 0 && s.lodge.moves.isEmpty then .pageMove else .plain)
  else .plain

def State.rowOf (s : State) (w : RegWrite) : RegRow :=
  if w.base < 0x10000 then w1Row w.base w.bits w.mask else s.w0Row (w.base - 0x10000) w.bits w.mask

/-- Whether the windows are open to application cores and host: after step 5 of the boot, W0 alone after a failed check (21 R478,
22 R494). -/
def State.windowOpen (s : State) (off : Nat) : Bool := s.lodge.bootStep == 5 || (s.lodge.halted && decide (0x10000 ≤ off))

/-- The register write an event performs: the oldest one a core has made, or one of an application core or the host (`busy`
chooses), of 8 bytes or 4. -/
def State.regWrite (s : State) : Option (RegWrite × State) :=
  if s.ev.busy then
    match s.lodge.regQueue with
    | [] => none
    | w :: ws => some (w, { s with lodge.regQueue := ws })
  else if s.windowOpen s.ev.off then some ({ off := s.ev.off, data := s.ev.data, bytes := if s.ev.wide then 8 else 4 }, s)
  else none

/-- Perform a register write that belongs to a row; nothing happens when the write belongs to another. -/
def State.withWrite (s : State) (row : RegRow) (f : State → RegWrite → State) : State :=
  match s.regWrite with
  | none => s
  | some (w, s') => if s'.rowOf w = row then f s' w else s

/-- Offset of the unit in W0. -/
def RegWrite.w0 (w : RegWrite) : Nat := w.base - 0x10000

/-! ## Plain writes -/

/-- A write with no row of its own (00 R13); a TLB_INV write with a reserved OP sets ERR (13 R329). -/
def State.plainWrite (s : State) (w : RegWrite) : State :=
  if w.base < 0x10000 then s.w1Write w.base w.bits
  else if w.base < 0x20000 then
    (if w.w0 = 0x0980 then { s with lodge.tlbErr := true } else (s.w0Write w.w0 w.bits w.mask).flushPending)
  else s

def execRegisterWrite (s : State) : Outcome := .next (s.withWrite .plain State.plainWrite)

/-! ## JOBTAB_BASE.LOCK, PART_CTL (01 R16, 03 R74 to R76) -/

def execJobtabLock (s : State) : Outcome :=
  .next (s.withWrite .jobtabLock fun s w => { (s.w0Write 0 w.bits w.mask) with lodge.jobLock := true })

/-- Partition of a PART_CTL write. -/
def RegWrite.part (w : RegWrite) : Nat := (w.w0 - 0x0400) / 32

/-- The W1C bits of PART_CTL and its LOCK. -/
def State.ctlBits (s : State) (w : RegWrite) : State :=
  s.modPart w.part fun p => { (p.blockWrite 16 w.bits w.mask) with lock := p.lock || w.bits.getLsbD 1 }

/-- The other valid partitions. -/
def State.others (s : State) (p : Nat) : List Part := ((List.range 16).filter (· != p)).map s.part |>.filter (·.valid)

/-- Ways of a die that no partition of a list reserves. -/
def freeWays (ws : List W16) : Nat := ((List.range 16).filter fun b => ws.all fun w => !w.getLsbD b).length

/-- Whether a partition may become valid (R75). -/
def State.mayValidate (s : State) (n : Nat) : Bool :=
  let p := s.part n
  let os := s.others n
  p.clusters != 0 &&
  os.all (fun o => (o.clusters &&& p.clusters) == 0 && (o.waysP0 &&& p.waysP0) == 0 && (o.waysP1 &&& p.waysP1) == 0 && (o.regs &&& p.regs) == 0) &&
  decide (2 ≤ freeWays (p.waysP0 :: os.map (·.waysP0))) && decide (2 ≤ freeWays (p.waysP1 :: os.map (·.waysP1)))

/-- A partition reconfiguration (R76, 17 R393, 19 R436): quarantined clusters that passed self-test return, the partition's
entries of the generation table go, and its store is free. -/
def State.reconfigure (s : State) (n : Nat) : State :=
  let p := s.part n
  let cs := s.clusters.zipIdx.map fun (x : Cluster × Nat) =>
    if p.clusters.getLsbD x.2 && x.1.bistPassed then ({ x.1 with quarantined := false } : Cluster) else x.1
  let gs := s.lodge.gens.map fun (e : Option GenEntry) => match e with
    | some e => if e.pid = n then none else some e
    | none => none
  ({ s with clusters := cs, lodge.gens := gs }).modPart n fun p =>
    { p with valid := true, revFree := bitsOf p.revCfg.toNat 52 12 * 8192 }

def State.validSet (s : State) (w : RegWrite) : State :=
  if s.mayValidate w.part then (s.ctlBits w).reconfigure w.part
  else (s.modPart w.part fun p => { p.blockWrite 16 w.bits w.mask with errOverlap := true })

def State.validClear (s : State) (w : RegWrite) : State :=
  if s.jobs.any fun j => j.accepted && j.card.pid == w.part then
    s.modPart w.part fun p => { p.blockWrite 16 w.bits w.mask with errBusy := true }
  else (s.ctlBits w).modPart w.part fun p => { p with valid := false }

def execPartitionValidSet (s : State) : Outcome := .next (s.withWrite .validSet State.validSet)
def execPartitionValidClear (s : State) : Outcome := .next (s.withWrite .validClear State.validClear)
def execPartitionLock (s : State) : Outcome := .next (s.withWrite .partLock State.ctlBits)

/-! ## Reads with a side effect -/

/-- Read an aligned 8-byte unit of the windows; the value read is kept as the last datum returned. -/
def State.readUnit (s : State) (off : Nat) : State :=
  let r := windowRead s off
  if s.windowOpen off then { r.2 with readData := r.1 } else s

/-- RESULT of page `page` (02 R43). -/
def execResultRead (s : State) : Outcome := .next (s.readUnit (s.ev.page.toNat * 4096 + 8))
/-- PTP_STATUS (02 R49). -/
def execPtpStatusRead (s : State) : Outcome := .next (s.readUnit 0x10010)
/-- MIG_FWD_EXT (03 R82). -/
def execMigFwdExtRead (s : State) : Outcome := .next (s.readUnit 0x10018)

end Sys2Proof.Machine
end

