-- ==== Sys2Proof/Machine/Launch.lean ====
section
/-!
DEFINITION. Bandstand (02): submission and withdrawal (R43 to R46), card acceptance (01 R29), local time (R47 to R49), release of
instances (R50 to R52, 04 R96, 20 R465), the compute budget (R58, R59), deadlines (R60) and the delivery of instance-level causes
(R502).
-/
namespace Sys2Proof.Machine

/-! ## Submission (R43 to R46) -/

def State.setPage (s : State) (p : Nat) (x : SubPage) : State := { s with pages := setAt {} s.pages p x }

/-- Post a result of a page; its entry in preparation goes. -/
def State.postResult (s : State) (p : Nat) (r : SubResult) : State :=
  let x := s.page p
  s.setPage p { x with results := x.results ++ [r], prep := x.prep.filter (·.seq != r.seq) }

/-- The checks of R44 on a SUBMIT write, 0 when none fails. A submit of a job whose withdraw is not finished gets code 18 (log 16). -/
def State.submitCode (s : State) (d : Nat) : Nat :=
  let j := bitsOf d 0 13
  let jb := s.job j
  if decide (2 ≤ bitsOf d 30 2) || bitsOf d 13 17 != 0 then 16
  else if s.lodge.jobCount.toNat ≤ j then 17
  else if bitsOf d 30 2 = 0 ∧ jb.accepted then 18
  else if bitsOf d 30 2 = 1 ∧ (!jb.accepted || jb.withdrawing.isSome) then 19
  else 0

/-- Bandstand handles a SUBMIT write of a page (R44): dropped, answered with a reject code, or handed to acceptance or
withdrawal. -/
def State.handleSubmit (s : State) (p d : Nat) : State :=
  let x := s.page p
  if 16 ≤ x.results.length + x.prep.length then s.setPage p { x with overflow := true }
  else
    let r : SubResult := { seq := x.seq, code := s.submitCode d, op := bitsOf d 30 2, job := bitsOf d 0 13 }
    if r.code ≠ 0 then (s.setPage p { x with seq := x.seq + 1 }).postResult p r
    else
      let s := s.setPage p { x with seq := x.seq + 1, prep := x.prep ++ [r] }
      if r.op = 1 then (s.modJob r.job fun j => { j with withdrawing := some (p, r.seq) }).checkWithdraw r.job else s

/-- Whether a submit of a page is being checked: the page's later writes wait for it (R44). -/
def SubPage.busy (x : SubPage) : Bool := x.prep.any (·.op == 0)

/-- The writes of a page that wait are handled one at a time, in the order they reached the lodge, up to a submit that is to be
checked. -/
def State.handleQueue (s : State) (p : Nat) : Nat → State
  | 0 => s
  | n + 1 =>
    let x := s.page p
    match x.busy, x.queue with
    | false, d :: ds => ((s.setPage p { x with queue := ds }).handleSubmit p d).handleQueue p n
    | _, _ => s

/-- A SUBMIT write reaches the lodge (R44). -/
def State.submitWrite (s : State) (p d : Nat) : State :=
  let x := s.page p
  (s.setPage p { x with queue := x.queue ++ [d] }).handleQueue p (x.queue.length + 1)

def submitOf (s : State) (w : RegWrite) : State := s.submitWrite (w.base / 4096) (w.bits.toNat % 2 ^ 32)

def execSubmit (s : State) : Outcome := .next (s.withWrite .submit submitOf)
def execWithdraw (s : State) : Outcome := .next (s.withWrite .withdraw submitOf)

/-! ## Release (R50 to R52) -/

/-- Whether an instance is live (R52). -/
def Inst.live (x : Inst) : Bool := x.st != .done && x.st != .failed

/-- An event-log entry of a job (20 R458). -/
def State.logJob (s : State) (j : Nat) (c : Cause) (number data : Nat) : State :=
  s.logEvent (s.job j).card.pid { stream := 7, cause := c, job := j, kind := 0, inst := BitVec.ofNat 32 number, data := data }

/-- Release instant of instance `n` of a periodic card. -/
def Card.instant (c : Card) (n : Nat) : Nat := c.firstReleaseNs + n * c.periodNs

/-- The share of the cluster at position `k` of `m` of a grid of `total` teams (03 R72). -/
def gridShare (m total : Nat) (x : Nat × Nat) : Share := { cluster := x.1, next := 0, stop := (total + m - 1 - x.2) / m }

/-- The clusters of the two copies of a redundant instance, when two are available (20 R464). -/
def copyClusters (ks : List Nat) (usable : Nat → Bool) : List Nat :=
  let c := ks.getD 2 0
  let pick (k : Nat) : List Nat := if usable k then [k] else if usable c then [c] else []
  let both := pick (ks.getD 0 0) ++ pick (ks.getD 1 0)
  if both.length = 2 ∧ both.eraseDups.length = 2 then both else []

/-- Shares of a released instance. -/
def State.sharesOf (s : State) (c : Card) : List Share :=
  let total := c.gridX * c.gridY * c.gridZ
  let usable (k : Nat) : Bool := !(s.cluster k).quarantined
  if c.flag 7 then (copyClusters (maskClusters c.clusterMask) usable).map fun k => { cluster := k, stop := total }
  else
    let ks := (maskClusters c.clusterMask).filter usable
    ks.zipIdx.map (gridShare ks.length total)

/-- A snapshot revision of a copy of an instance (20 R465). -/
def snapRevision (id pid inst : Nat) : Revision := { id := id, parent := 0, pid := pid, inst := inst, whole := true }

/-- Create instance `n` of a job at a release instant. -/
def State.createInstance (s : State) (j n release id : Nat) : State :=
  let jb := s.job j
  let c := jb.card
  let i := s.insts.length
  let rung := if c.flag 3 then jb.rungFor n else 0
  let sampled := c.flag 3 && c.flag 2 && c.updateInterval != 0 && (n + 1) % c.updateInterval == 0
  let revs := if c.flag 7 then [s.nextId, s.nextId + 1] else []
  let x : Inst := { job := j, id := BitVec.ofNat 32 id, number := n, card := c, image := jb.image, roles := jb.roles,
                    release := release, deadline := release + c.deadlineNs, shares := s.sharesOf c, rung := rung,
                    sampled := if sampled then some (probeStep rung) else none, entryRec := jb.entryRec,
                    handlerRec := jb.handlerRec, fallbackRec := jb.fallbackRec, revs := revs }
  let s := { s with insts := s.insts ++ [x], revs := revs.map (fun r => snapRevision r c.pid i) ++ s.revs,
                    nextId := s.nextId + revs.length }
  s.modJob j fun y => { y with lastRung := if c.flag 3 then rung else y.lastRung }

/-- Live instances of a job. -/
def State.liveOf (s : State) (j : Nat) : List Inst := s.insts.filter fun x => x.job == j && x.live

/-- Whether a release is skipped at the instance limit (R52, 04 R105). -/
def State.limited (s : State) (j n : Nat) : Bool :=
  decide (2 ≤ (s.liveOf j).length) ||
  ((s.job j).card.flag 3 && (s.liveOf j).any fun x => x.sampled.isSome && decide (x.number + 2 ≤ n))

/-- The release instant that is due for a job, if any. -/
def State.dueRelease (s : State) (j : Nat) : Option Nat :=
  let jb := s.job j
  let a := jb.card.instant jb.nextN
  if !s.lodge.fatal && s.decides && jb.accepted && jb.withdrawing.isNone && jb.card.flag 1 && jb.card.flag 2 && decide (a ≤ s.now) then some a else none

/-- Whether no other due release comes before one of job `j` at instant `a` (R61). -/
def State.releaseFirst (s : State) (j a : Nat) : Bool :=
  (List.range s.jobs.length).all fun k => match s.dueRelease k with
    | some b => k == j || decide (a < b) || (a == b && decide (j < k))
    | none => true

/-- The event RELEASE of job `job`. -/
def State.releaseJob (s : State) (j : Nat) : State :=
  match s.dueRelease j with
  | none => s
  | some a =>
    if !s.releaseFirst j a then s
    else
      let n := (s.job j).nextN
      let s := s.modJob j fun y => { y with nextN := n + 1 }
      if s.limited j n then s.logJob j 0x209 n a else s.createInstance j n a n

def execRelease (s : State) : Outcome := .next (s.releaseJob s.ev.job)

/-- The event INSTANCE_READY of instance `inst` at cluster `cluster`; its agent decides (R56). -/
def State.instanceReady (s : State) (i k : Nat) : State :=
  let x := s.inst i
  if s.insts.length ≤ i ∨ !x.live ∨ bitsOf x.card.clusterMask k 1 = 0 ∨ x.readyAt.contains k then s
  else (s.modInst i fun y => { y with readyAt := k :: y.readyAt }).agentDecide k

def execInstanceReady (s : State) : Outcome := .next (s.instanceReady s.ev.inst s.ev.cluster)

/-! ## Acceptance (01 R29, R45) -/

/-- The smallest instance number whose release instant is at or after now (R51). -/
def Card.firstNumber (c : Card) (now : Nat) : Nat :=
  if now ≤ c.firstReleaseNs ∨ c.periodNs = 0 then 0 else (now - c.firstReleaseNs + c.periodNs - 1) / c.periodNs

/-- A checked card is accepted: a one-shot card that is enabled releases its instance at once. -/
def State.acceptCard (s : State) (j : Nat) (x : Checked) : State :=
  let old := s.job j
  let start := bitsOf x.card.ladder 0 4
  let s := s.modJob j fun y =>
    { y with accepted := true, withdrawing := none, card := x.card, image := x.image, roles := x.roles, entryRec := x.entryRec,
             handlerRec := x.handlerRec, fallbackRec := x.fallbackRec, nextN := x.card.firstNumber s.now,
             acceptances := y.acceptances + 1, ctlRung := start, rungs := [], lastRung := start, lastErr := 0, lastInst := 0,
             lastMove := 0, limit := false }
  if x.card.flag 2 || !x.card.flag 1 then s else s.createInstance j old.acceptances s.now old.acceptances

/-- Acceptance of the submit in preparation with a sequence number (R45, 01 R29). The page of a partition that is not valid
rejects with code 4 (03 R75). -/
def State.acceptCheck (s : State) (p seq : Nat) : State :=
  match (s.page p).prep.find? fun r => r.seq == seq && r.op == 0 with
  | none => s
  | some r =>
    if (s.job r.job).accepted then s.postResult p { r with code := 18 }
    else if !(s.part p).valid then s.postResult p { r with code := 4 }
    else match s.cardBytes r.job with
      | .inl _ => ({ s with belv := s.belv ++ [BelvMsg.cardRead r.job] }).postResult p { r with code := 14 }
      | .inr bs =>
        let x := s.checkCard p bs
        let s := if x.lost then { s with belv := s.belv ++ [BelvMsg.cardRead r.job] } else s
        let s := if x.code = 0 then s.acceptCard r.job x else s
        s.postResult p { r with code := x.code }

/-- The acceptance, after which the page's waiting writes are handled (R44). -/
def State.acceptance (s : State) (p seq : Nat) : State := (s.acceptCheck p seq).handleQueue p (s.page p).queue.length

/-- The event CARD_ACCEPTANCE on page `page` for the write of sequence number `seq`. -/
def execCardAcceptance (s : State) : Outcome := .next (s.acceptance s.ev.page.toNat s.ev.seq)

/-! ## Local time (R47 to R49) -/

/-- A forward step of time passes over release instants of a card: all but the latest create no instance and are logged (R51). -/
def State.skipReleases (s : State) (j : Nat) : State :=
  let jb := s.job j
  match s.dueRelease j with
  | none => s
  | some _ =>
    let last := (s.now - jb.card.firstReleaseNs) / jb.card.periodNs
    let s := (List.range (last - jb.nextN)).foldl (fun (s : State) k =>
      s.logJob j 0x208 (jb.nextN + k) (jb.card.instant (jb.nextN + k))) s
    s.modJob j fun y => { y with nextN := max y.nextN last }

/-- The job whose due release comes first (R61). -/
def State.firstDue (s : State) : Option Nat :=
  (List.range s.jobs.length).find? fun j => match s.dueRelease j with
    | some a => s.releaseFirst j a
    | none => false

/-- The release instants that have been reached are released, in their order, before a step of time passes over others (R50,
R61). -/
def State.releaseDue (s : State) : Nat → State
  | 0 => s
  | n + 1 => match s.firstDue with
    | some j => (s.releaseJob j).releaseDue n
    | none => s

/-- Release instants reached and not yet released. -/
def State.dueCount (s : State) : Nat :=
  ((List.range s.jobs.length).map fun j => match s.dueRelease j with
    | some a => (s.now - a) / (s.job j).card.periodNs + 1
    | none => 0).sum

/-- A correction of the PTP hardware clock: a backward one and a small forward one are slewed in, a larger forward one is a step. -/
def State.correctTime (s : State) (c : Int) : State :=
  if c < 0 then { s with lodge.ptpBack := s.lodge.ptpBack + 2000 * c.natAbs }
  else if c ≤ 1000 then { s with lodge.ptpFwd := s.lodge.ptpFwd + 2000 * c.natAbs }
  else
    let s := s.releaseDue s.dueCount
    let s := { s with now := s.now + c.natAbs, lodge.ptpStep := true }
    (List.range s.jobs.length).foldl (fun (s : State) j => s.skipReleases j) s

/-- A unit measures its offset from the relayed time: the largest is kept, and more than 8 ns is reported (R48). -/
def State.measureOffset (s : State) (u : UnitId) (n : Nat) : State :=
  let s := { s with lodge.ptpMax := if s.lodge.ptpMax.toNat < n then BitVec.ofNat 16 (min n 0xFFFF) else s.lodge.ptpMax }
  if n ≤ 8 then s
  else { s with belv := s.belv ++ [.offset u],
                lodge.ltuBad := if s.lodge.ltuBad.contains u then s.lodge.ltuBad else u :: s.lodge.ltuBad }

/-- The event PTP_TIMING_MESSAGE: unit `unit` measures `offset`, and the hardware clock applies `correction`. -/
def execPtpTimingMessage (s : State) : Outcome := .next ((s.measureOffset s.ev.unit s.ev.offset).correctTime s.ev.correction)

def execPtpHoldover (s : State) : Outcome := .next { s with lodge.ptpLocked := false, lodge.ptpHoldover := true }
def execPtpLock (s : State) : Outcome := .next { s with lodge.ptpLocked := true, lodge.ptpHoldover := false }

/-! ## Instance-level causes (R502) -/

/-- HANDLER: every team takes the cause, those in no active bank or parked on a fault before their next word, and teams placed later
at launch. -/
def State.handlerAll (s : State) (i : Nat) (r : Raise) : State :=
  let s := s.modInst i fun x => { x with handlerCauses := x.handlerCauses ++ [r] }
  (s.instTeams i).foldl (fun (s : State) t =>
    let slot := s.holdsSlot t && !s.faultParked t
    if (s.team t).status == .waiting || (s.team t).fallback then s
    else (s.modTeam t fun x => { x with instHeld := x.instHeld ++ [r] }).modCtrl t fun k =>
      { k with due := k.due || (!slot && (s.team t).handler.isNone) }) s

/-- Of two causes that end an instance the lower code takes effect, the other is logged (01 R26). -/
def State.pendEnd (s : State) (i : Nat) (r : Raise) : State :=
  match (s.inst i).pendingCause with
  | none => s.modInst i fun x => { x with pendingCause := some r }
  | some q =>
    if q.cause.toNat ≤ r.cause.toNat then s.logInstCause i 3 r.cause
    else (s.logInstCause i 3 q.cause).modInst i fun x => { x with pendingCause := some r }

/-- Raise 0x200, 0x201 or 0x202 for an instance (R502). 0x200 of an instance in RETIRING, which completes late, is dispositioned at
its stamp (R60); under EVENT it is logged now. -/
def State.raiseInst (s : State) (i : Nat) (c : Cause) : State :=
  let x := s.inst i
  let r := instRaise c s.now
  let code := x.card.nibble c
  if x.st == .held then s.logInstCause i 3 c
  else if !x.live then s
  else if x.st == .retiring && c == 0x200 && code != 4 then s
  else match code with
    | 4 => s.logInstCause i 1 c
    | 1 =>
      if (s.instTeams i).isEmpty && !x.unplaced then s.endAtOnce i 0 r
      else (s.logInstCause i 2 c).handlerAll i r
    | _ => if (s.instTeams i).any s.holdsSlot then s.pendEnd i r else s.endAtOnce i code r

/-! ## The budget and the deadline (R58 to R61) -/

/-- Budget in core cycles. -/
def Card.budgetCycles (c : Card) : Nat := c.budgetNs * 3 / 2

/-- An instance's charge exceeds its budget: a fallback team takes STOP (21 R476). -/
def State.overrun (s : State) (i : Nat) : State :=
  let s := s.modInst i fun x => { x with overBudget := true }
  match (s.inst i).st == .failed, (s.inst i).fallbackTeam with
  | true, some t => (s.logInstCause i 2 0x201).endByCause t false
  | _, _ => s.raiseInst i 0x201

/-- Whether 0x200 of an instance is due: D + 200 ns is reached without a stamp (R60). -/
def State.deadlineDue (s : State) (i : Nat) : Bool :=
  let x := s.inst i
  s.decides && decide (i < s.insts.length) && decide (x.deadline + 200 ≤ s.now) && !x.missed && x.live && x.stamp.isNone

/-- The event DEADLINE_CHECK of instance `inst`, at D + 200 ns. -/
def State.deadlineCheck (s : State) (i : Nat) : State :=
  if s.deadlineDue i then (s.modInst i fun y => { y with missed := true }).raiseInst i 0x200 else s

def execDeadlineCheck (s : State) : Outcome := .next (s.deadlineCheck s.ev.inst)

/-- 0x201 found at an evaluation that also finds the deadline missed: 0x200 takes effect and 0x201 is logged (R61). Under EVENT each
is logged as EVENT (01 R26). -/
def State.overrunLate (s : State) (i : Nat) : State :=
  let s := (s.modInst i fun x => { x with overBudget := true }).deadlineCheck i
  s.logInstCause i (if (s.inst i).card.nibble 0x201 = 4 then 1 else 3) 0x201

/-- A cluster's report of its charge to an instance is due every 512 core cycles, and when a team has left the cluster's cores. -/
def Charge.due (e : Charge) : Bool := e.left || decide (512 ≤ e.age)

/-- The event BUDGET_REPORT of cluster `cluster` for instance `inst`. -/
def State.budgetReport (s : State) (k i : Nat) : State :=
  match (s.cluster k).charge.find? fun e => e.inst == i && e.due with
  | none => s
  | some e =>
    let s := s.modCluster k fun c => { c with charge := c.charge.filter (·.inst != i) }
    let s := s.modInst i fun x => { x with reported := x.reported + e.cycles }
    if (s.inst i).card.budgetCycles < (s.inst i).reported ∧ !(s.inst i).overBudget then
      (if s.deadlineDue i then s.overrunLate i else s.overrun i)
    else s

def execBudgetReport (s : State) : Outcome := .next (s.budgetReport s.ev.cluster s.ev.inst)

end Sys2Proof.Machine
end

