-- ==== Sys2Proof/Machine/Requests.lean ====
section
/-!
DEFINITION. Requests at the home L2s and the memory controllers: allocation in ways (03 R77, 13 R319, R320), bandwidth regulators (15
R360 to R363), and row protection (R364, R365). A request moves no data: a lookup hits in any way, and a hold delays a request and
never changes its data (R320, R362).
-/
namespace Sys2Proof.Machine

/-! ## Banks and rows (R359) -/

def bankOf (a : Nat) : Nat := bitsOf (channelOffset a) 11 4
def dramRow (a : Nat) : Nat := bitsOf (channelOffset a) 15 18
def HeldReq.chan (h : HeldReq) : Nat := channelOf (h.pa % 2 ^ 38)
def HeldReq.bank (h : HeldReq) : Nat := bankOf (h.pa % 2 ^ 38)
def HeldReq.row (h : HeldReq) : Nat := dramRow (h.pa % 2 ^ 38)

/-! ## Who asks (R360, R77) -/

/-- The regulator a request carries. -/
def State.regulatorOf (s : State) : Requester → Nat
  | .team t => (s.inst (s.team t).inst).card.regulator
  | .recon d => match s.lodge.recon.getD d none with
    | some i => (s.inst i).card.regulator
    | none => 63
  | .ingress n => bitsOf (s.ing n).buf.toNat 58 6
  | .peer _ r => r % 64
  | _ => 63

/-- The partition whose ways a request may take: its cluster's or its ingress channel's. -/
def State.partitionOf (s : State) : Requester → Option Nat
  | .team t => some (s.inst (s.team t).inst).card.pid
  | .ingress n => some (bitsOf (s.ing n).src.toNat 6 4)
  | _ => none

/-- The package a request comes from, with 4 for the host (13 R335). -/
def State.packageOf (s : State) : Requester → Nat
  | .host => 4
  | .peer p _ => p
  | _ => s.pkg.toNat

/-- A request of a requester at the controller of an address. -/
def State.requestOf (s : State) (w : Requester) (pa : Nat) (rowOpen : Bool) : HeldReq :=
  { reg := s.regulatorOf w, pa := pa, rowOpen := rowOpen
    team := match w with
      | .team t => some t
      | _ => none
    port := match w with
      | .ingress n => some (bitsOf (s.ing n).src.toNat 0 6)
      | _ => none }

/-! ## The home L2 (13 R319, R320; 03 R77) -/

/-- The set of an address in its home L2 (log 90: the spec gives 16,384 sets and no index). -/
def l2Set (pa : Nat) : Nat := channelOffset (pa % 2 ^ 38) / 128 % 16384

/-- The ways of a die that a valid partition reserves. -/
def State.reservedWays (s : State) (p die : Nat) : W16 :=
  if (s.part p).valid then (if die = 0 then (s.part p).waysP0 else (s.part p).waysP1) else 0

/-- The ways a request may allocate in: its partition's reserved ways on the die when it has any, else the unreserved ones (R77). -/
def State.allocWays (s : State) (part : Option Nat) (die : Nat) : List Nat :=
  let own : W16 := match part with
    | some p => s.reservedWays p die
    | none => 0
  let taken : W16 := (List.range 16).foldl (fun m p => m ||| s.reservedWays p die) 0
  (List.range 16).filter fun w => if own = 0 then !taken.getLsbD w else own.getLsbD w

/-- The sectors of a set of bits of a line. -/
def sectorsOf (line : Nat) (b : BitVec 4) : List Nat := (List.range 4).filterMap fun k => if b.getLsbD k then some (line + 32 * k) else none

/-- A request for a sector looks up the home L2: the sectors that DRAM must give or take, and the lines after it. A hit in any way asks
for none. A miss reads the sector, unless the request writes it whole, and takes a way, whose line's dirty sectors go to DRAM; `way` is
the policy's choice among the ways allowed (R320). Nothing is allocated for a quarantined line (15 R367). -/
def State.l2Lookup (s : State) (part : Option Nat) (pa : Nat) (write whole : Bool) (way : Nat) : List Nat × List L2Line :=
  let line := lineOf pa
  let here : BitVec 4 := BitVec.ofNat 4 (2 ^ (pa % 128 / 32))
  let need := if write && whole then [] else [sectorOf pa]
  let d : BitVec 4 := if write then here else 0
  let l2 := s.lodge.l2
  match l2.find? (·.line == line) with
  | some x => (if x.valid &&& here = 0 then need else [],
      l2.map fun y => if y.line = line then { y with valid := y.valid ||| here, dirty := y.dirty ||| d } else y)
  | none =>
    let ways := s.allocWays part (homeDie pa)
    if s.quar.contains line || ways.isEmpty then ([sectorOf pa], l2)
    else
      let x : L2Line := { die := homeDie pa, set := l2Set pa, way := if ways.contains way then way else ways.headD 0, line := line,
                          valid := here, dirty := d }
      let old := l2.filter fun y => y.die == x.die && y.set == x.set && y.way == x.way
      (need ++ old.flatMap (fun y => sectorsOf y.line y.dirty), x :: l2.filter fun y => !old.contains y)

/-- The lines of a range of addresses leave the L2. -/
def State.l2Drop (s : State) (pa n : Nat) : State :=
  { s with lodge.l2 := s.lodge.l2.filter fun x => !(decide (pa < x.line + 128) && decide (x.line < pa + n)) }

/-! ## Regulators (R360 to R363) -/

/-- Share of a regulator at a controller. -/
def Regulator.share (r : Regulator) : Nat := (r.budget + 23) / 24

/-- Charge of a regulator at a controller. -/
def MemCtl.charge (c : MemCtl) (n : Nat) : Nat := c.charges.getD n 0

/-- PEAK keeps the largest charge of one controller in one window (R363). -/
def Regulator.seen (r : Regulator) (charge : Nat) : Regulator :=
  { r with peak := if r.peak.toNat < charge then BitVec.ofNat 32 (min charge 0xFFFFFFFF) else r.peak }

/-- A sector is read from or written to DRAM: 32 bytes are charged. -/
def State.chargeSector (s : State) (chan n : Nat) : State :=
  let s := s.modCtl chan fun c => { c with charges := setAt 0 c.charges n (c.charge n + 32) }
  s.modReg n fun r => r.seen ((s.ctl chan).charge n)

/-- The budget of a regulator for a window that starts now (R361). -/
def State.budgetOf (s : State) (n : Nat) : Nat :=
  (s.reg n).extra.toNat + ((List.range s.jobs.length).map fun j =>
    let x := s.job j
    if x.accepted && x.card.regulator == n && s.insts.any (fun i => i.job == j && i.live) then x.card.bwBytes else 0).sum

/-- A regulator is held for the first time in a window (R362). -/
def State.firstHold (s : State) (n : Nat) : State :=
  if (s.reg n).held then s
  else
    let s := s.modReg n fun r => { r with held := true, holds := if r.holds = 0xFFFFFFFF then r.holds else r.holds + 1 }
    if !(s.reg n).raises then s
    else ((List.range s.insts.length).filter fun i => (s.inst i).live && (s.inst i).card.regulator == n).foldl
      (fun (s : State) i => s.raiseInst i 0x202) s

/-- Whether a request of a regulator would pass its share. -/
def State.overShare (s : State) (chan n : Nat) : Bool :=
  s.regEnabled n && decide ((s.reg n).share < (s.ctl chan).charge n + 32)

/-! ## Rows and banks (R364, R365) -/

/-- An activation of a row: its counter, its alert, and the spacing of refresh-management commands. -/
def State.activate (s : State) (chan bank row : Nat) : State :=
  let c := s.ctl chan
  let old := ((c.acts.find? fun a => a.1 == bank && a.2.1 == row).map (·.2.2)).getD 0
  let n := old + 1
  s.modCtl chan fun c =>
    { c with acts := (bank, row, n) :: c.acts.filter (fun a => !(a.1 == bank && a.2.1 == row)),
             alerts := if decide (s.lodge.rhThresh.toNat ≤ n) && !c.alerts.contains (bank, row) then c.alerts ++ [(bank, row)]
               else c.alerts,
             sinceRfm := setAt 16 c.sinceRfm bank (c.sinceRfm.getD bank 16 + 1),
             open_ := setAt none c.open_ bank (some row) }

/-- Whether a bank takes no access: a refresh-management command keeps it busy, or one is due, which the spacing allows and the controller
issues before the bank's next access (R365). -/
def MemCtl.blocked (c : MemCtl) (now bank : Nat) : Bool :=
  c.busy.any (fun b => b.1 == bank && decide (now < b.2)) ||
  (c.alerts.any (·.1 == bank) && decide (16 ≤ c.sinceRfm.getD bank 16))

/-- A request is served: its charge, in this window or the next (21 R469), and the activation of its row. A request that takes the row
its bank has open activates none (R364 does not say how long a row stays open, log 33). -/
def State.serve (s : State) (h : HeldReq) : State :=
  let s := if h.later then s.modCtl h.chan fun c => { c with carry := setAt 0 c.carry h.reg (c.carry.getD h.reg 0 + 32) }
    else s.chargeSector h.chan h.reg
  if h.rowOpen && (s.ctl h.chan).open_.getD h.bank none == some h.row then s else s.activate h.chan h.bank h.row

/-- A request takes its turn at its bank: it waits in arrival order behind those the bank has queued and while the bank takes no access. -/
def State.toBank (s : State) (h : HeldReq) : State :=
  if (s.ctl h.chan).blocked s.now h.bank || (s.ctl h.chan).queue.any (·.bank == h.bank) then
    s.modCtl h.chan fun c => { c with queue := c.queue ++ [h] }
  else s.serve h

/-- Requests that waited for their banks are served in arrival order. -/
def State.serveBanks (s : State) (chan : Nat) : State :=
  (s.ctl chan).queue.foldl (fun (s : State) h => s.toBank h) (s.modCtl chan fun c => { c with queue := [] })

def State.serveAllBanks (s : State) : State :=
  (List.range s.lodge.ctls.length).foldl (fun (s : State) c => if (s.ctl c).queue.isEmpty then s else s.serveBanks c) s

/-! ## Requests at a controller (R362) -/

/-- A request reaches its controller: it is held when its charge would pass its regulator's share, and behind an older held request of its
regulator. A team that drains is served at once, and what would be held is charged in the next window (21 R469). -/
def State.atController (s : State) (h : HeldReq) : State :=
  let drains := match h.team with
    | some t => (s.team t).status == .parked
    | none => false
  if s.overShare h.chan h.reg then
    if drains then s.toBank { h with later := true }
    else (s.modCtl h.chan fun c => { c with held := c.held ++ [h] }).firstHold h.reg
  else if !drains && (s.ctl h.chan).held.any (·.reg == h.reg) then s.modCtl h.chan fun c => { c with held := c.held ++ [h] }
  else s.toBank h

/-- The held requests of a team are served at once, and charged in the next window (21 R469). -/
def State.serveTeam (s : State) (t : Nat) : State :=
  (List.range s.lodge.ctls.length).foldl (fun (s : State) chan =>
    ((s.ctl chan).held.filter (·.team == some t)).foldl (fun (s : State) h => s.toBank { h with later := true })
      (s.modCtl chan fun c => { c with held := c.held.filter (·.team != some t) })) s

/-- Whether a port's 64 KiB buffer is full of held requests (R362). -/
def State.portFull (s : State) (port : Nat) : Bool :=
  decide (65536 ≤ 32 * (s.lodge.ctls.map fun c => (c.held.filter (·.port == some port)).length).sum)

/-! ## Hotness counters (13 R335) -/

/-- A request of a remote requester counts at its block in native mode: packages are 0 to 3, the host is 4. -/
def State.countBlock (s : State) (pa requester : Nat) : State :=
  if s.compatMode || requester == s.pkg.toNat then s
  else
    let chan := channelOf (pa % 2 ^ 38)
    let block := pa / 65536
    let old := (((s.ctl chan).blocks.find? fun b => b.1 == block && b.2.1 == requester).map (·.2.2)).getD 0
    let n := min (old + 1) 0xFFFF
    let s := s.modCtl chan fun c =>
      { c with blocks := (block, requester, n) :: c.blocks.filter fun b => !(b.1 == block && b.2.1 == requester) }
    if old < s.hotThresh ∧ n = s.hotThresh then s.hotBlock block requester n else s

/-! ## Requests (R360, R362) -/

/-- A request for a sector reaches the home L2 of this package's memory: what DRAM must give or take goes to the controllers under the
requester's regulator. -/
def State.memRequest (s : State) (w : Requester) (pa : Nat) (write whole : Bool) (way : Nat) (rowOpen : Bool) : State :=
  if s.physTarget pa != .mem || s.pageHome (pa / 2 ^ 15) != s.pkg.toNat then s
  else
    let s := s.countBlock pa (s.packageOf w)
    let r := s.l2Lookup (s.partitionOf w) pa write whole way
    r.1.foldl (fun (s : State) a => s.atController (s.requestOf w a rowOpen)) { s with lodge.l2 := r.2 }

/-- The sectors of a range, written whole. -/
def State.writeRequests (s : State) (w : Requester) (pa n way : Nat) (rowOpen : Bool) : State :=
  (List.range ((pa + n + 31) / 32 - pa / 32)).foldl (fun (s : State) k => s.memRequest w ((pa / 32 + k) * 32) true true way rowOpen) s

/-! ## Windows (R361, R363) -/

/-- The end of the window in progress: a new REG_WINDOW applies from its first multiple at or after the window's end. -/
def Lodge.windowEnd (l : Lodge) : Nat :=
  let e := l.regWinStart + l.regWinLen
  let n := l.regWindow.toNat
  if n = l.regWinLen ∨ n = 0 then e else (e + n - 1) / n * n

/-- The length of the window that follows. -/
def Lodge.windowLen (l : Lodge) : Nat := if l.regWindow = 0 then l.regWinLen else l.regWindow.toNat

/-- A window opens at a time: budgets are fixed, charges cleared but for those carried over, which PEAK sees, and held requests are
served in arrival order as far as the shares allow. -/
def State.openWindow (s : State) (start : Nat) : State :=
  let s := { s with lodge.regWinLen := s.lodge.windowLen, lodge.regWinStart := start }
  let top (k : Nat) : Nat := (s.lodge.ctls.map fun c => c.carry.getD k 0).foldl max 0
  let rs := (List.range 64).map fun k => ({ s.reg k with budget := s.budgetOf k, held := false } : Regulator).seen (top k)
  let held := s.lodge.ctls.flatMap (·.held)
  let cs := s.lodge.ctls.map fun (c : MemCtl) => { c with charges := c.carry, carry := [], held := [] }
  held.foldl (fun (s : State) h => s.atController h) { s with lodge.regs := rs, lodge.ctls := cs }

/-- A regulator window starts once the one in progress has ended; with several ended, the latest. -/
def State.windowStart (s : State) : State :=
  if s.now < s.lodge.windowEnd then s
  else s.openWindow (max s.lodge.windowEnd (s.now / s.lodge.windowLen * s.lodge.windowLen))

/-- The windows that have started by now, one by one while requests are held. -/
def State.windowsDue (s : State) : Nat → State
  | 0 => s.windowStart
  | n + 1 =>
    if s.now < s.lodge.windowEnd + s.lodge.windowLen || s.lodge.ctls.all (·.held.isEmpty) then s.windowStart
    else (s.openWindow s.lodge.windowEnd).windowsDue n

/-- Time reaches the controllers: regulator windows that have started, and banks that are free again (R361, R365). -/
def State.controllerTime (s : State) : State :=
  (s.windowsDue ((s.now - s.lodge.windowEnd) / s.lodge.windowLen)).serveAllBanks

/-! ## Refresh management (R364 to R366) -/

/-- The next refresh-management command of a controller: the first alert whose bank has had 16 activations since its last. -/
def MemCtl.nextAlert (c : MemCtl) : Option (Nat × Nat) := c.alerts.find? fun a => decide (16 ≤ c.sinceRfm.getD a.1 16)

/-- The rows of a command for an aggressor: those within NEIGH of it in its bank, but the row itself (R364). -/
def State.rfmRows (s : State) (row : Nat) : List Nat :=
  let n := s.lodge.rhNeigh.toNat
  (List.range (2 * n + 1)).filterMap fun k => if k = n ∨ row + k < n ∨ 262144 ≤ row + k - n then none else some (row + k - n)

/-- A refresh-management command: the aggressor's counter is zero, its neighbours are refreshed, and the bank is busy for t_RFM, 160 ns,
after which the requests queued on it are served (R365). -/
def State.rfmCommand (s : State) (chan : Nat) : State :=
  match (s.ctl chan).nextAlert with
  | none => s
  | some (bank, row) =>
    let s := s.modCtl chan fun c =>
      { c with alerts := c.alerts.filter (· != (bank, row)),
               acts := c.acts.filter (fun a => !(a.1 == bank && a.2.1 == row)),
               sinceRfm := setAt 16 c.sinceRfm bank 0, open_ := setAt none c.open_ bank none,
               busy := (bank, s.now + 160) :: c.busy.filter (·.1 != bank), refreshed := some (bank, s.rfmRows row) }
    { s with lodge.rhStat := s.lodge.rhStat + 1 }

end Sys2Proof.Machine
end

