-- ==== Sys2Proof/Machine/Schedule.lean ====
section
/-!
DEFINITION. What happens around the meaning of an instruction: the passing of time and the free environment of a turn.
-/
namespace Sys2Proof.Machine

/-! ## Time -/

/-- Every core's count of cycles without an issued word grows (13 R333). -/
def State.idleCycles (s : State) (n : Nat) : State :=
  { s with cores := s.cores.map fun c => { c with idle := c.idle + n } }

/-- Instances with a team in a slot of an active bank of a cluster's cores (02 R58). -/
def State.onCluster (s : State) (k : Nat) : List Nat :=
  (List.range s.insts.length).filter fun i => s.teamIds.any fun t =>
    (s.team t).inst == i && clusterOf (s.team t).core == k && s.holdsSlot t

/-- Add cycles to the charges a cluster has not reported (R58). -/
def addCharge (l : List Charge) (i n : Nat) : List Charge :=
  if l.any (·.inst == i) then l.map fun e => if e.inst = i then { e with cycles := e.cycles + n } else e
  else { inst := i, cycles := n } :: l

/-- Core cycles pass at a cluster: each instance in a slot of an active bank is charged them, and the reports due grow older. -/
def State.chargeCluster (s : State) (n k : Nat) : State :=
  match s.onCluster k, (s.cluster k).charge with
  | [], [] => s
  | is, cs => s.modCluster k fun c =>
    { c with charge := (is.foldl (fun l i => addCharge l i n) cs).map fun e => { e with age := e.age + n } }

def State.chargeCycles (s : State) (n : Nat) : State :=
  if n = 0 then s else (List.range 28).foldl (fun s k => s.chargeCluster n k) s

/-- Local time passes (02 R47): a backward correction is absorbed at 500 ppm, counted in steps of 1/2000 ns. -/
def State.passTime (s : State) (t : Turn) : State :=
  let s := { s with now := s.now + t.ns, cycle := s.cycle + t.cycles,
                    lodge.ptpBack := s.lodge.ptpBack - t.ns, lodge.ptpFwd := s.lodge.ptpFwd - t.ns }
  (s.idleCycles t.cycles).chargeCycles t.cycles

/-! ## The environment -/

/-- The storage an upset of a kind strikes. -/
def storeOf (kind n m : Nat) : Store :=
  match kind with
  | 0 => .c n
  | 1 => .g n
  | 2 => .s n
  | 3 => .i n
  | 4 => .v n
  | 5 => .p n
  | 6 => .queue n m
  | 7 => .tile n
  | _ => .scratch n

/-- What a turn's environment does. -/
def State.applyEnv (s : State) : Env → State
  | .evictL1 core pa => s.flushLine core pa
  | .evictTlb n => s.evictTlb n
  | .fillSampler k pid rev va =>
    match s.engineTranslate pid va .read with
    | .inl _ => s
    | .inr pa =>
      if isMCluster k || s.physTarget pa != .mem || !(rev == 0 || s.revs.any fun r => r.id == rev && r.pid == pid) then s
      else s.sampFill k pid rev va pa
  | .evictCode core pa => s.modCore core fun c => { c with icache := c.icache.filter fun w => w.pa != pa }
  | .evictSampler k pa => { s with samp := s.samp.filter fun b => !(b.cluster == k && lineOf b.pa == lineOf pa) }
  | .upsetSector pa cause core =>
    if cause == 0x140 || cause == 0x141 || cause == 0x142 then
      let b : BadSector := { pa := sectorOf pa, cause := cause, core := core }
      { s with bad := if s.bad.contains b then s.bad else b :: s.bad }
    else s
  | .upsetLine rev va anc =>
    let hit (l : RevLine) : RevLine := if l.va = lineOf va then { l with bad := true } else l
    { s with revs := s.revs.map fun (rv : Revision) =>
        if rv.id ≠ rev then rv
        else if anc then { rv with ancestors := rv.ancestors.map hit } else { rv with copies := rv.copies.map hit } }
  | .upsetStore t g kind n m => { s with badStore := (t, (storeOf kind n m).group g, storeOf kind n m) :: s.badStore }

/-! ## Turns -/

/-- The turn that comes next: the head of the agenda, or the schedule's turn (log 1). -/
def State.nextTurn (s : State) : Turn × State :=
  match s.agenda with
  | t :: ts => (t, { s with agenda := ts, tick := s.tick + 1 })
  | [] => (Config.turn s.tick, { s with tick := s.tick + 1 })

/-- Time has reached the controllers, but for a window that the turn itself starts. -/
def State.timed (s : State) (a : Action) : State :=
  match a with
  | .event .regulatorWindowStart _ => s
  | _ => s.controllerTime

/-- The state in which a turn's action takes place. -/
def State.beginTurn (s : State) (t : Turn) : State := t.env.foldl (fun s e => s.applyEnv e) ((s.passTime t).timed t.act)

end Sys2Proof.Machine
end

