-- ==== Sys2Proof/Machine/Caches.lean ====
section
/-!
DEFINITION. The capacities of the caches (00 R3; 13 R317, R328; 16 R386): after a turn the lines and entries that exceed them leave, the
oldest of their set first. Which line leaves affects timing only (R317), and any line may leave at any turn (log 1); the capacities bound
what a cache holds.
-/
namespace Sys2Proof.Machine

/-- The members of a list, newest first, whose line is among the newest `cap` lines of its set. -/
def newest {α κ : Type} [DecidableEq κ] {σ : Type} [DecidableEq σ] (key : α → κ) (set : κ → σ) (cap : Nat) : List κ → List α → List α
  | _, [] => []
  | seen, x :: xs =>
    if seen.contains (key x) then x :: newest key set cap seen xs
    else if (seen.filter fun k => set k = set (key x)).length < cap then x :: newest key set cap (key x :: seen) xs
    else newest key set cap seen xs

/-- The line of a byte of an L1: its core, revision and address. The L1 has 64 sets of 8 ways (R317). -/
def L1Byte.key (b : L1Byte) : Nat × Nat × Nat := (b.core, b.rev, lineOf b.pa)
def l1Set (k : Nat × Nat × Nat) : Nat × Nat := (k.1, k.2.2 / 128 % 64)

/-- Each L1 keeps 8 lines a set; dirty bytes of the others are written back (R317). -/
def State.boundL1 (s : State) : State :=
  let kept := newest L1Byte.key l1Set 8 [] s.l1
  if kept.length = s.l1.length then s
  else
    let lines := kept.map L1Byte.key
    let s' := s.writeBackAll (s.l1.filter fun b => b.dirty && !lines.contains b.key)
    { s' with l1 := kept }

/-- A translation as a place of its TLB: the owner and the page it starts at. A core's TLB has 64 entries, a cluster's 256 sets of 8
ways (R328); the set is the page number modulo 256 (log 21). -/
def TlbEntry.key (e : TlbEntry) : TlbOwner × Nat × Nat × Nat := (e.owner, e.pid, e.va, e.size)
def tlbSet (k : TlbOwner × Nat × Nat × Nat) : TlbOwner × Nat :=
  (k.1, match k.1 with
    | .cluster _ => k.2.2.1 / k.2.2.2 % 256
    | _ => 0)

/-- TLBs keep 64 entries a core and 8 a set of a cluster, walk caches 64 entries a cluster (R328). -/
def State.boundTlb (s : State) : State :=
  let cores := s.tlb.filter fun e => match e.owner with
    | .core _ => true
    | _ => false
  let kept := newest TlbEntry.key tlbSet 64 [] cores
  let clusters := newest TlbEntry.key tlbSet 8 [] (s.tlb.filter fun e => match e.owner with
    | .cluster _ => true
    | _ => false)
  { s with
    tlb := s.tlb.filter fun e => match e.owner with
      | .core _ => kept.contains e
      | .cluster _ => clusters.contains e
      | .reg _ _ _ => true
    walks := newest (fun w : WalkEntry => w) (·.cluster) 64 [] s.walks }

/-- The line of a byte of a sampler cache. -/
def SampByte.key (b : SampByte) : Nat × Nat × Nat × Nat := (b.cluster, b.pid, b.rev, lineOf b.pa)

/-- A sampler cache keeps 64 KiB: 512 lines (16 R386). -/
def State.boundSamp (s : State) : State := { s with samp := newest SampByte.key (·.1) 512 [] s.samp }

/-- The caches within their capacities. -/
def State.boundCaches (s : State) : State := ((s.boundL1).boundTlb).boundSamp

end Sys2Proof.Machine
end

