-- ==== Sys2Proof/Machine/Elementary.lean ====
section
/-!
DEFINITION. Values of the special functions (10 R245 to R247): square root, reciprocal square root, 2^x, log2 x, sin πx and
cos πx as exact dyadic values where they are dyadic, and otherwise as `sticky` values of 80 bits, which every format, mode and
draw rounds as it rounds the exact value. Irrational values are enclosed in intervals of growing precision until their first
80 bits are known.
-/
namespace Sys2Proof.Machine

/-! ## Integer square root -/

/-- Bits of the root from bit `n` down. -/
def isqrtGo (x : Nat) : Nat → Nat → Nat
  | 0, r => r
  | n + 1, r => let c := r + 2 ^ n; isqrtGo x n (if c * c ≤ x then c else r)

/-- ⌊√x⌋. -/
def isqrt (x : Nat) : Nat := isqrtGo x (bitLen x / 2 + 1) 0

/-- √(m·2^e) for m > 0. -/
def sqrtFin (m : Nat) (e : Int) : Val :=
  let odd : Nat := (e % 2).toNat
  let x := m * 2 ^ (odd + 240)
  let r := isqrt x
  sticky false (r * r == x) r ((e - odd - 240) / 2)

/-- 1/√(m·2^e) for m > 0. -/
def rsqrtFin (m : Nat) (e : Int) : Val :=
  let odd : Nat := (e % 2).toNat
  let d := m * 2 ^ odd
  let sh := 2 * bitLen d + 240
  let q := 2 ^ sh / d
  let r := isqrt q
  sticky false (r * r * d == 2 ^ sh) r (-(e - odd) / 2 - (sh / 2 : Nat))

/-! ## Enclosures

A fixed-point number at precision `p` stands for `n / 2^p`. The sums below are within `slack` units of their values. -/

/-- Bound on the error of the sums below, in units of the last place. -/
def slack : Nat := 2 ^ 16

/-- Σ u^k/k! for a fixed-point u in [0, 1): terms from index k. -/
def expGo (p u : Nat) : Nat → Nat → Nat → Nat → Nat
  | 0, _, _, acc => acc
  | n + 1, k, term, acc =>
    if term = 0 then acc else expGo p u n (k + 1) (term * u / 2 ^ p / k) (acc + term)

/-- Σ t^(2k+1)/(2k+1) for a fixed-point t in [0, 1/3]: atanh t. -/
def atanhGo (p t2 : Nat) : Nat → Nat → Nat → Nat → Nat
  | 0, _, _, acc => acc
  | n + 1, k, pw, acc => if pw = 0 then acc else atanhGo p t2 n (k + 2) (pw * t2 / 2 ^ p) (acc + pw / k)

/-- atanh (a/b) at precision p, a/b in [0, 1/3]. -/
def atanhFix (p a b : Nat) : Nat :=
  let t := a * 2 ^ p / b
  atanhGo p (t * t / 2 ^ p) p 1 t 0

/-- ln 2 = 2 atanh (1/3). -/
def ln2Fix (p : Nat) : Nat := 2 * atanhFix p 1 3

/-- Σ (-1)^k t^(2k+1)/(2k+1): arctan (1/b) times 2^p, the positive and the negative terms apart. -/
def atanGo (b2 : Nat) : Nat → Nat → Bool → Nat → Int → Int
  | 0, _, _, _, acc => acc
  | n + 1, k, neg, pw, acc =>
    if pw = 0 then acc else atanGo b2 n (k + 2) (!neg) (pw / b2) (if neg then acc - (pw / k : Nat) else acc + (pw / k : Nat))

/-- π at precision p: 16 arctan (1/5) - 4 arctan (1/239). -/
def piFix (p : Nat) : Nat :=
  (16 * atanGo 25 p 1 false (2 ^ p / 5) 0 - 4 * atanGo (239 * 239) p 1 false (2 ^ p / 239) 0).toNat

/-- sin u for a fixed-point u in [0, 1.6]: Σ (-1)^k u^(2k+1)/(2k+1)!. -/
def sinGo (p u2 : Nat) : Nat → Nat → Bool → Nat → Int → Int
  | 0, _, _, _, acc => acc
  | n + 1, k, neg, term, acc =>
    if term = 0 then acc
    else sinGo p u2 n (k + 2) (!neg) (term * u2 / 2 ^ p / ((k + 1) * (k + 2))) (if neg then acc - (term : Int) else acc + (term : Int))

/-- The `sticky` value of 80 bits of a positive value enclosed in (lo, hi)/2^p, when both ends agree on it. -/
def agree (lo hi p : Nat) : Option (Nat × Int) :=
  let sh := bitLen lo - 80
  if lo = 0 then none
  else if lo / 2 ^ sh = (hi - 1) / 2 ^ sh then some (lo / 2 ^ sh, (sh : Int) - p) else none

/-- Raise the precision until an enclosure agrees. -/
def refine (f : Nat → Nat × Nat) : Nat → Nat → Val
  | 0, p => let r := f p; sticky false false r.1 (-(p : Int))
  | n + 1, p =>
    match agree (f p).1 (f p).2 p with
    | some (k, e) => sticky false false k e
    | none => refine f n (2 * p)

/-- Number of doublings tried from 256 bits. -/
def doublings : Nat := 4

/-! ## 2^x -/

/-- An enclosure of 2^(a/2^q), 0 < a/2^q < 1, strictly inside (1, 2). -/
def exp2Box (a q p : Nat) : Nat × Nat :=
  let f := if q ≤ p then a * 2 ^ (p - q) else a / 2 ^ (q - p)
  let r := expGo p (f * ln2Fix p / 2 ^ p) p 1 (2 ^ p) 0
  let lo := r - slack
  let hi := r + slack
  (if lo < 2 ^ p then 2 ^ p else lo, if 2 ^ (p + 1) < hi then 2 ^ (p + 1) else hi)

/-- A value times a power of two. -/
def Val.scale (k : Int) : Val → Val
  | .fin n m e => .fin n m (e + k)
  | v => v

/-- 2^x. Results beyond every format are replaced by ones that overflow or underflow every format alike. -/
def exp2Val : Val → Val
  | .nan => .nan
  | .inf true => .zero
  | .inf false => .inf false
  | .fin n m e =>
    if m = 0 then .fin false 1 0
    else if 0 ≤ e then
      (if 20 < bitLen m + e then (if n then .fin false 1 (-100000) else .fin false 1 100000)
       else .fin false 1 (signedInt n (m * 2 ^ e.toNat)))
    else
      let q := (-e).toNat
      let ip := m / 2 ^ q
      if 100000 < ip then (if n then .fin false 3 (-100000) else .fin false 3 100000)
      else
        let x : Int := signedInt n m
        let fl := x / (2 ^ q : Nat)
        let a := (x - fl * (2 ^ q : Nat)).toNat
        if a = 0 then .fin false 1 fl
        else (refine (exp2Box a q) doublings 256).scale fl

/-! ## log2 x -/

/-- The enclosure of |E + log2 (m/2^q)|, 1 ≤ m/2^q < 2, with its sign: E ≥ 0 gives a positive value, E < 0 a negative one. -/
def log2Box (ex : Int) (m q p : Nat) : Nat × Nat :=
  let d := 2 ^ q
  let l := 2 * atanhFix p (m - d) (m + d)
  let r := l * 2 ^ p / ln2Fix p
  let v : Int := ex * (2 ^ p : Nat) + r
  let a := v.natAbs
  (a - slack, a + slack)

/-- log2 of m·2^e, m > 0. -/
def log2Fin (m : Nat) (e : Int) : Val :=
  let q := bitLen m - 1
  let ex := e + q
  if m = 2 ^ q then .ofInt ex
  else
    let v := refine (log2Box ex m q) doublings 256
    if ex < 0 then v.neg else v

/-! ## sin πx, cos πx -/

/-- An enclosure of sin (π·a/2^q), 0 < a/2^q < 1/2, at precision p, below 1. -/
def sinBox (a q p : Nat) : Nat × Nat :=
  let f := if q ≤ p then a * 2 ^ (p - q) else a / 2 ^ (q - p)
  let u := f * piFix p / 2 ^ p
  let r := (sinGo p (u * u / 2 ^ p) p 1 false u 0).toNat
  (r - slack, if 2 ^ p < r + slack then 2 ^ p else r + slack)

/-- sin (π·a/2^q) for 0 < a/2^q < 1/2: the precision grows with the smallness of the argument. -/
def sinQuarter (a q : Nat) : Val := refine (sinBox a q) doublings (256 + (q - bitLen a))

/-- sin (π·x) for 0 ≤ x < 2 given as a/2^q with q ≥ 1, its zero's sign taken by the mode (08 R175). -/
def sinTurn (zero : Val) (a q : Nat) : Val :=
  let half := 2 ^ (q - 1)
  let neg := decide (2 ^ q ≤ a)
  let b := a % 2 ^ q
  let v := if b = 0 then zero
    else if b = half then .fin false 1 0
    else if b < half then sinQuarter b q
    else sinQuarter (2 ^ q - b) q
  if b ≠ 0 ∧ neg then v.neg else v

/-- A dyadic number modulo 2 as a/2^q with q ≥ 1. -/
def modTwo (n : Bool) (m : Nat) (e : Int) : Nat × Nat :=
  let q := (-e).toNat + 1
  let a : Int := signedInt n m * (2 ^ ((e + q).toNat) : Nat)
  ((a % (2 ^ (q + 1) : Nat)).toNat, q)

/-- sin (π·x) (R246, R247). `mode` gives the sign of an exact zero at a non-zero integer. -/
def sinPi (mode : RMode) : Val → Val
  | .fin n m e =>
    if m = 0 then .fin n 0 0
    else
      let r := modTwo n m e
      sinTurn (.fin (mode == .rdn) 0 0) r.1 r.2
  | _ => .nan

/-- cos (π·x) = sin (π·(x + 1/2)). -/
def cosPi (mode : RMode) : Val → Val
  | .fin n m e =>
    if m = 0 then .fin false 1 0
    else
      let r := modTwo n m e
      sinTurn (.fin (mode == .rdn) 0 0) ((r.1 + 2 ^ (r.2 - 1)) % 2 ^ (r.2 + 1)) r.2
  | _ => .nan

end Sys2Proof.Machine
end

