-- ==== Sys2Proof/Machine/Xfloat.lean ====
section
/-!
DEFINITION. Vector floating-point words and conversions of the X stream (10 R245 to R249).
-/
namespace Sys2Proof.Machine

/-- The arithmetic formats of the floating opcodes (R245). -/
def floatCodes : List Nat := [0, 1, 2]

/-- The format of a floating code. -/
def floatType (code : Nat) : FloatFmt :=
  match elemOf code with
  | .float f => f
  | _ => fp32

/-- FPCTL.FLUSH of the issuing team (08 R180). -/
def State.flushes (s : State) : Bool := (s.team s.cur.team).fpFlush

/-- The value of a float lane, a subnormal read as zero under FLUSH. -/
def floatLane (flush : Bool) (f : FloatFmt) (v : Lanes) (l : Nat) : Val := f.decode (flushIn flush f (lane v l).toNat)

/-- A rounded result lane, a subnormal result written as zero under FLUSH. -/
def FloatFmt.resultLane (f : FloatFmt) (flush : Bool) (m : RMode) (sat : Bool) (u : W32) (x : Val) : W32 :=
  BitVec.ofNat 32 (flushIn flush f (f.round m sat u.toNat x))

/-- An element-wise floating opcode (R245): `f` gives the exact result of three operand values. -/
def floatWord (op : Nat) (sat : Bool) (t : Tpl) (p : BitVec 4) (s : State) (f : RMode → Val → Val → Val → Val) : Outcome :=
  tplWord .x op { fmts := floatCodes, dsts := [0, 1], rnd := true, sat := sat } t p s (fun _ _ => true) fun e s =>
    let fmt := floatType e.code
    let fl := s.flushes
    let m := s.tplMode t
    let d := s.laneDraws m e.act
    d.2.putLanes op e (mkLanes fun l =>
      fmt.resultLane fl m t.sat (lane d.1 l)
        (f m (floatLane fl fmt e.a.lanes l) (floatLane fl fmt e.b.lanes l) (floatLane fl fmt e.c.lanes l))) e.taint

/-- A floating opcode that does not round. -/
def floatPick (op : Nat) (t : Tpl) (p : BitVec 4) (s : State) (f : Val → Val → Val) : Outcome :=
  tplWord .x op { fmts := floatCodes, dsts := [0, 1] } t p s (fun _ _ => true) fun e s =>
    let fmt := floatType e.code
    let fl := s.flushes
    s.putLanes op e (mkLanes fun l =>
      fmt.resultLane fl .rne false 0 (f (floatLane fl fmt e.a.lanes l) (floatLane fl fmt e.b.lanes l))) e.taint

def execVfadd (t : Tpl) (p : BitVec 4) (s : State) : Outcome := floatWord 0x20 true t p s fun m x y _ => sumVals m [x, y]
def execVfsub (t : Tpl) (p : BitVec 4) (s : State) : Outcome := floatWord 0x21 true t p s fun m x y _ => sumVals m [x, y.neg]
def execVfmul (t : Tpl) (p : BitVec 4) (s : State) : Outcome := floatWord 0x22 true t p s fun _ x y _ => mulVal x y
def execVfma (t : Tpl) (p : BitVec 4) (s : State) : Outcome :=
  floatWord 0x23 true t p s fun m x y z => sumVals m [mulVal x y, z]
def execVfmin (t : Tpl) (p : BitVec 4) (s : State) : Outcome := floatPick 0x24 t p s minVal
def execVfmax (t : Tpl) (p : BitVec 4) (s : State) : Outcome := floatPick 0x25 t p s maxVal

def execVfcmp (t : Tpl) (p : BitVec 4) (s : State) : Outcome :=
  tplWord .x 0x26 { fmts := floatCodes, dsts := [0, 3], aux := 0x70000 } t p s (fun e _ => decide (e.aux 16 3 ≤ 4)) fun e s =>
    let fmt := floatType e.code
    let fl := s.flushes
    s.putCompare 0x26 e fun l => floatRel (e.aux 16 3) (floatLane fl fmt e.a.lanes l) (floatLane fl fmt e.b.lanes l)

/-! ## Quotients, roots and special functions (R246, R247) -/

/-- x / y with the special cases of R247. -/
def divVal : Val → Val → Val
  | .nan, _ => .nan
  | _, .nan => .nan
  | .inf _, .inf _ => .nan
  | .inf a, .fin b _ _ => .inf (a != b)
  | .fin a _ _, .inf b => .fin (a != b) 0 0
  | .fin a m e, .fin b n f =>
    if n = 0 then (if m = 0 then .nan else .inf (a != b))
    else divFin a m e b n f

/-- x / y in a mode: the quotient of a zero by a finite value takes its sign from the mode (08 R175, R245); the zero of a division by an
infinity has the XOR of the signs (R247). -/
def quotVal (m : RMode) (x y : Val) : Val :=
  match y with
  | .inf _ => divVal x y
  | _ => exactZero m (divVal x y)

def rcpVal (x : Val) : Val := divVal (.fin false 1 0) x

def sqrtVal : Val → Val
  | .nan => .nan
  | .inf n => if n then .nan else .inf false
  | .fin n m e => if m = 0 then .fin n 0 0 else if n then .nan else sqrtFin m e

def rsqrtVal : Val → Val
  | .nan => .nan
  | .inf n => if n then .nan else .zero
  | .fin n m e => if m = 0 then .inf n else if n then .nan else rsqrtFin m e

def log2Val : Val → Val
  | .nan => .nan
  | .inf n => if n then .nan else .inf false
  | .fin n m e => if m = 0 then .inf true else if n then .nan else log2Fin m e

def execVrcp (t : Tpl) (p : BitVec 4) (s : State) : Outcome := floatWord 0x27 true t p s fun _ x _ _ => rcpVal x
def execVrsq (t : Tpl) (p : BitVec 4) (s : State) : Outcome := floatWord 0x28 true t p s fun _ x _ _ => rsqrtVal x
def execVsqrt (t : Tpl) (p : BitVec 4) (s : State) : Outcome := floatWord 0x29 true t p s fun _ x _ _ => sqrtVal x
def execVdiv (t : Tpl) (p : BitVec 4) (s : State) : Outcome := floatWord 0x2A true t p s fun m x y _ => quotVal m x y
def execVexp2 (t : Tpl) (p : BitVec 4) (s : State) : Outcome := floatWord 0x2B true t p s fun _ x _ _ => exp2Val x
def execVlog2 (t : Tpl) (p : BitVec 4) (s : State) : Outcome := floatWord 0x2C true t p s fun m x _ _ => exactZero m (log2Val x)
def execVsin (t : Tpl) (p : BitVec 4) (s : State) : Outcome := floatWord 0x2D true t p s fun m x _ _ => sinPi m x
def execVcos (t : Tpl) (p : BitVec 4) (s : State) : Outcome := floatWord 0x2E true t p s fun m x _ _ => cosPi m x

/-- The integer a value rounds to, a zero keeping the sign of its source (R246). -/
def rndVal (m : RMode) (u : Nat) : Val → Val
  | .fin n k e => .fin n (roundInt m u n k e).natAbs 0
  | x => x

def execVrnd (t : Tpl) (p : BitVec 4) (s : State) : Outcome :=
  tplWord .x 0x2F { fmts := floatCodes, dsts := [0, 1], rnd := true } t p s (fun _ _ => true) fun e s =>
    let fmt := floatType e.code
    let fl := s.flushes
    let m := s.tplMode t
    let d := s.laneDraws m e.act
    d.2.putLanes 0x2F e (mkLanes fun l =>
      fmt.resultLane fl .rne false 0 (rndVal m (lane d.1 l).toNat (floatLane fl fmt e.a.lanes l))) e.taint

/-- `vdot2`: two 16-bit products and an FP32 addend, fused (R246). -/
def execVdot2 (t : Tpl) (p : BitVec 4) (s : State) : Outcome :=
  tplWord .x 0x30 { fmts := [1, 2], dsts := [0, 1], rnd := true, sat := true } t p s (fun _ _ => true) fun e s =>
    let fmt := floatType e.code
    let fl := s.flushes
    let m := s.tplMode t
    let d := s.laneDraws m e.act
    let el (v : Lanes) (l k : Nat) : Val := fmt.decode (flushIn fl fmt (bitsOf (lane v l).toNat (16 * k) 16))
    d.2.putLanes 0x30 e (mkLanes fun l =>
      fp32.resultLane fl m t.sat (lane d.1 l) (sumVals m
        [mulVal (el e.a.lanes l 0) (el e.b.lanes l 0), mulVal (el e.a.lanes l 1) (el e.b.lanes l 1),
         floatLane fl fp32 e.c.lanes l])) e.taintAll

/-- `vlerp`: x + z·(y - x), fused. -/
def execVlerp (t : Tpl) (p : BitVec 4) (s : State) : Outcome :=
  floatWord 0x35 true t p s fun m x y z => sumVals m [x, mulVal z (sumVals m [y, x.neg])]

/-! ## Conversions (R248) -/

/-- The formats of conversions (R248). -/
def convCodes : List Nat := [0, 1, 2, 3, 4, 5, 6, 7, 8, 9, 10, 11, 12, 13, 26, 27]

def isIntCode (c : Nat) : Bool := elemOf c matches .int _

/-- The destination format and the legality of the pair. -/
def convOk (e : TEnv) (s : State) : Bool :=
  let dst := e.aux 16 5
  convCodes.contains dst && dst != e.code && !(isIntCode dst && isIntCode e.code && s.flushes)

/-- A converted element's bits at the destination's width. -/
def convBits (flush : Bool) (src dst : Nat) (m : RMode) (sat : Bool) (u : W32) (w : Nat) : Nat :=
  cvtDst flush (elemOf dst) m sat u.toNat (cvtSrc flush m (elemOf src) (w % 2 ^ elemBits src))

/-- An element in a lane: sign-extended for a signed integer format. -/
def elemLane (code w : Nat) : W32 :=
  match elemOf code with
  | .int f => BitVec.ofInt 32 (f.decode w)
  | _ => BitVec.ofNat 32 w

def convRule (aux : Nat) (dsts : List Nat) : TRule := { fmts := convCodes, dsts := dsts, rnd := true, sat := true, aux := aux }

def execVcvt (t : Tpl) (p : BitVec 4) (s : State) : Outcome :=
  tplWord .x 0x31 (convRule 0x1F0000 [0, 1]) t p s convOk fun e s =>
    let m := s.tplMode t
    let d := s.laneDraws m e.act
    let dst := e.aux 16 5
    d.2.putLanes 0x31 e (mkLanes fun l =>
      elemLane dst (convBits s.flushes e.code dst m t.sat (lane d.1 l) (lane e.a.lanes l).toNat)) e.taint

/-- The offset of a packed access, and the whole-group rule of `vpack` and `vunpack`. -/
def packOk (width : Nat) (e : TEnv) (s : State) (p : BitVec 4) : Bool :=
  e.aux 0 16 % 32 == 0 && decide (e.aux 0 16 + 32 ≤ 1024 / width) && p == 0 &&
  (s.group s.cur.team s.cur.group).live == 0xFFFFFFFF#32

/-- 32 lanes as one stream of 1,024 bits, lane 0 lowest (08 R171). -/
def streamOf (v : Lanes) : Nat := (List.range 32).foldl (fun n l => n + (lane v l).toNat * 2 ^ (32 * l)) 0
def lanesOf (n : Nat) : Lanes := mkLanes fun l => BitVec.ofNat 32 (n / 2 ^ (32 * l))

/-- A stream with one element of `w` bits replaced. -/
def setElem (n w i x : Nat) : Nat :=
  n / 2 ^ ((i + 1) * w) * 2 ^ ((i + 1) * w) + x % 2 ^ w * 2 ^ (i * w) + n % 2 ^ (i * w)

def execVpack (t : Tpl) (p : BitVec 4) (s : State) : Outcome :=
  tplWord .x 0x32 (convRule 0x1FFFFF [0]) t p s
    (fun e s => convOk e s && decide (elemBits (e.aux 16 5) ≤ 16) && packOk (elemBits (e.aux 16 5)) e s p) fun e s =>
    let m := s.tplMode t
    let d := s.laneDraws m 0xFFFFFFFF#32
    let dst := e.aux 16 5
    let old := streamOf ((s.group s.cur.team s.cur.group).vReg t.dstIdx.toNat)
    let new := (List.range 32).foldl (fun n l =>
      setElem n (elemBits dst) (e.aux 0 16 + l)
        (convBits s.flushes e.code dst m t.sat (lane d.1 l) (lane e.a.lanes l).toNat)) old
    let oldTaint := (s.group s.cur.team s.cur.group).vTaint.getD t.dstIdx.toNat 0
    d.2.putLanes 0x32 { e with act := 0xFFFFFFFF#32 } (lanesOf new) (oldTaint ||| e.taintAll)

def execVunpack (t : Tpl) (p : BitVec 4) (s : State) : Outcome :=
  tplWord .x 0x33 (convRule 0x1FFFFF [0, 1]) t p s
    (fun e s => convOk e s && decide (kindOf t.srcA ≤ 1) && packOk (elemBits e.code) e s p) fun e s =>
    let m := s.tplMode t
    let d := s.laneDraws m 0xFFFFFFFF#32
    let dst := e.aux 16 5
    let n := streamOf e.a.lanes
    d.2.putLanes 0x33 { e with act := 0xFFFFFFFF#32 } (mkLanes fun l =>
      elemLane dst (convBits s.flushes e.code dst m t.sat (lane d.1 l)
        (bitsOf n ((e.aux 0 16 + l) * elemBits e.code) (elemBits e.code)))) e.taintAll

/-- `vfclass`: FLUSH does not apply (R249). -/
def execVfclass (t : Tpl) (p : BitVec 4) (s : State) : Outcome :=
  tplWord .x 0x34 { fmts := floatCodes, dsts := [0, 1] } t p s (fun _ _ => true) fun e s =>
    let fmt := floatType e.code
    s.putLanes 0x34 e (mkLanes fun l => BitVec.ofNat 32 (floatClass fmt ((lane e.a.lanes l).toNat % 2 ^ fmt.width))) e.taint

end Sys2Proof.Machine
end

