-- ==== Sys2Proof/Machine/Xlane.lean ====
section
/-!
DEFINITION. Lane movement, reductions, queue, deferral and accumulator words of the X stream (10 R250 to R259), and `qadv` of
the X and A streams (R234, 11 R267).
-/
namespace Sys2Proof.Machine

/-! ## Lanes (R250) -/

/-- Lanes moved by a source-lane function, with their taints. -/
def State.moveLanes (s : State) (op : Nat) (e : TEnv) (f : Nat → Nat) : Eff :=
  s.putLanes op e (mkLanes fun l => lane e.a.lanes (f l))
    (mkMask fun l => e.a.taint.getLsbD (f l) || e.b.taint.getLsbD l)

/-- The rules of the three `vshuf` forms. -/
def shufOk (e : TEnv) : Bool :=
  match e.aux 16 2 with
  | 0 => e.aux 0 16 == 0
  | 3 => false
  | _ => e.aux 5 11 == 0

def execVshuf (t : Tpl) (p : BitVec 4) (s : State) : Outcome :=
  tplWord .x 0x40 { dsts := [0, 1], aux := 0x3FFFF } t p s (fun e _ => shufOk e) fun e s =>
    s.moveLanes 0x40 e fun l =>
      match e.aux 16 2 with
      | 0 => (lane e.b.lanes l).toNat % 32
      | 1 => (l + e.aux 0 5) % 32
      | _ => l ^^^ e.aux 0 5

def execVbcast (t : Tpl) (p : BitVec 4) (s : State) : Outcome :=
  tplWord .x 0x41 { dsts := [0, 1], aux := 0x1F } t p s (fun _ _ => true) fun e s => s.moveLanes 0x41 e fun _ => e.aux 0 5

/-! ## Reductions and scans (R251, 08 R185) -/

/-- One level of the pairwise tree over present and absent nodes. -/
def treeLevel {α : Type} (f : α → α → α) : List (Option α) → List (Option α)
  | a :: b :: rest =>
    (match a, b with
    | some x, some y => some (f x y)
    | some x, none => some x
    | none, y => y) :: treeLevel f rest
  | l => l

/-- The root of the tree of 32 lanes. -/
def treeRoot {α : Type} (f : α → α → α) (xs : List (Option α)) : Option α :=
  ((treeLevel f (treeLevel f (treeLevel f (treeLevel f (treeLevel f xs))))).headD none)

/-- The lanes of a mask as present nodes. -/
def treeLeaves {α : Type} (mask : W32) (v : Nat → α) : List (Option α) :=
  (List.range 32).map fun l => if mask.getLsbD l then some (v l) else none

/-- An integer reduction over a mask: exact, then wrapped or clamped once. -/
def intReduce (f : IntFmt) (op : Nat) (sat : Bool) (mask : W32) (v : Lanes) : W32 :=
  let g : Int → Int → Int := fun x y => match op with
    | 0 => x + y
    | 1 => min x y
    | 2 => max x y
    | 3 => f.decode (f.pattern x &&& f.pattern y)
    | 4 => f.decode (f.pattern x ||| f.pattern y)
    | _ => f.decode (f.pattern x ^^^ f.pattern y)
  let none : Int := match op with
    | 1 => f.hi
    | 2 => f.lo
    | 3 => f.decode (2 ^ f.width - 1)
    | _ => 0
  f.toLane (sat && op == 0) ((treeRoot g (treeLeaves mask (f.ofLane v))).getD none)

/-- An operand of a floating reduction: a NaN is the canonical one (08 R174). -/
def FloatFmt.leaf (f : FloatFmt) (flush : Bool) (w : Nat) : Nat :=
  if f.decode (flushIn flush f w) == .nan then f.nan.getD 0 else flushIn flush f w

/-- A floating reduction over a mask: `.add` rounds at every node. -/
def floatReduce (f : FloatFmt) (flush : Bool) (op : Nat) (m : RMode) (sat : Bool) (mask : W32) (v : Lanes) : W32 :=
  let g (x y : Nat) : Nat :=
    match op with
    | 0 => flushIn flush f (f.round m sat 0 (sumVals m [f.decode x, f.decode y]))
    | 1 => f.round .rne false 0 (minVal (f.decode x) (f.decode y))
    | _ => f.round .rne false 0 (maxVal (f.decode x) (f.decode y))
  let none : Nat := match op with
    | 0 => 0
    | 1 => f.round .rne false 0 (.inf false)
    | _ => f.round .rne false 0 (.inf true)
  BitVec.ofNat 32 ((treeRoot g (treeLeaves mask fun l => f.leaf flush (lane v l).toNat)).getD none)

/-- The reduction of an entry over a mask. -/
def TEnv.reduce (e : TEnv) (flush : Bool) (m : RMode) (mask : W32) : W32 :=
  if isIntCode e.code then intReduce e.intFmt (e.aux 16 3) e.t.sat mask e.a.lanes
  else floatReduce (floatType e.code) flush (e.aux 16 3) m e.t.sat mask e.a.lanes

/-- Operation, format and mode rules of `vred` and `vscan`. -/
def redOk (e : TEnv) (s : State) : Bool :=
  decide (e.aux 16 3 ≤ 5) && (isIntCode e.code || decide (e.aux 16 3 ≤ 2)) && s.tplMode e.t != .sr

def redCodes : List Nat := [0, 1, 2, 8, 9, 10, 11, 26]

def execVred (t : Tpl) (p : BitVec 4) (s : State) : Outcome :=
  tplWord .x 0x42 { fmts := redCodes, dsts := [0, 2], rnd := true, sat := true, u := true, aux := 0x70000 } t p s redOk fun e s =>
    let r := e.reduce s.flushes (s.tplMode t) e.act
    if t.dstKind = 2 then
      s.putScalar 0x42 e (if isIntCode e.code && e.intFmt.signed then r.signExtend 64 else r.setWidth 64) (e.taint != 0)
    else s.putLanes 0x42 e (splat r) e.taintAll

/-- The mask of the lanes below `n`. -/
def below (n : Nat) : W32 := BitVec.ofNat 32 (2 ^ n - 1)

def execVscan (t : Tpl) (p : BitVec 4) (s : State) : Outcome :=
  tplWord .x 0x43 { fmts := redCodes, dsts := [0, 1], rnd := true, sat := true, u := true, aux := 0xF0000 } t p s redOk fun e s =>
    let m := s.tplMode t
    s.putLanes 0x43 e (mkLanes fun l =>
      e.reduce s.flushes m (e.act &&& below (if t.aux.getLsbD 19 then l else l + 1))) e.taintAll

def execVballot (t : Tpl) (p : BitVec 4) (s : State) : Outcome :=
  tplWord .x 0x44 { dsts := [2, 3] } t p s (fun _ _ => true) fun e s =>
    let m := mkMask fun l => e.act.getLsbD l && lane e.a.lanes l != 0
    if t.dstKind = 2 then s.putScalar 0x44 e (m.setWidth 64) (e.taint != 0)
    else (s.modCurGroup (·.writePred t.dstIdx.toNat 0xFFFFFFFF#32 m e.taintAll)).finishTpl 0x44 t

/-- `vtos`: one lane to an s register, kept when the lane is not active (R253). -/
def execVtos (t : Tpl) (p : BitVec 4) (s : State) : Outcome :=
  tplWord .x 0x4F { fmts := [0, 8], dsts := [2], aux := 0x1FFFF } t p s
    (fun e _ => if t.aux.getLsbD 16 then kindOf t.srcB == 2 && e.aux 0 16 == 0 else e.aux 5 11 == 0) fun e s =>
    let l := if t.aux.getLsbD 16 then (lane e.b.lanes 0).toNat % 32 else e.aux 0 5
    let v := lane e.a.lanes l
    if e.act.getLsbD l then
      s.putScalar 0x4F e (if e.code = 8 then v.signExtend 64 else v.setWidth 64) (e.a.taint.getLsbD l || e.b.taint != 0)
    else s.finishTpl 0x4F t

/-! ## Queues (R254, R255) -/

/-- `pop`: the head slot copied, its valid mask to a predicate, and the head advanced. -/
def execPop (t : Tpl) (p : BitVec 4) (s : State) : Outcome :=
  tplWord .x 0x45 { dsts := [0], aux := 0xF0000 } t p s
    (fun _ _ => isQueue t.srcA && !t.adv.getLsbD 0 && t.wait != 0) fun e s =>
    let q := indexOf t.srcA
    let valid := (Team.queue (s.group s.cur.team s.cur.group) q).headSlot.valid
    let s := s.modCurGroup fun g => g.writePred (e.aux 16 4) 0xFFFFFFFF#32 valid 0
    let s := s.modCurGroup (·.writeLanes .x 0 t.dstIdx.toNat e.act e.a.lanes e.a.taint)
    .done (s.modCurGroup (·.modQueue q (·.pop 1 (s.idempotent s.cur))))

/-- `qpush`: the tail slot written and the tail advanced. -/
def execQpush (t : Tpl) (p : BitVec 4) (s : State) : Outcome :=
  tplWord .x 0x46 { dsts := [1] } t p s (fun _ _ => t.free != 0 && !t.adv.getLsbD 3) fun e s =>
    let s := s.modCurGroup (·.writeLanes .x 1 t.dstIdx.toNat e.act e.a.lanes e.a.taint)
    .done ((s.popSources 0x46 t).modCurGroup (·.modQueue t.dstIdx.toNat (·.push 1 (s.idempotent s.cur))))

/-! ## qadv (R234, 11 R267) -/

/-- The tail of a load queue passes slots: a slot with no load since it was last passed has an empty valid mask (11 R267), and
the next load into a passed slot starts its valid mask afresh (R273). -/
def Que.passTail (q : Que) (held : Bool) : Nat → Que
  | 0 => q.settle held 16
  | n + 1 =>
    let q := q.modSlot q.tail fun x => { x with valid := if x.stale then 0 else x.valid, stale := true }
    ({ q with tail := (q.tail + 1) % q.depth, resv := q.resv + 1 }).passTail held n

/-- The head of a store queue passes slots, each losing its lane mask. -/
def Que.passHead (q : Que) (stream : Stream) (held : Bool) : Nat → Que
  | 0 => q
  | n + 1 => (q.popHead stream held).passHead stream held n

def qadvWord (tail : Bool) (n : BitVec 6) (k : BitVec 4) (s : State) : Outcome :=
  s.word [.a, .x] (fields := fun s =>
      badField (k == 0 || (if tail then !fillsOf s.cur.stream n.toNat else !popsOf s.cur.stream n.toNat)) s) fun s =>
    let st := s.cur.stream
    let q := Team.queue (s.group s.cur.team s.cur.group) n.toNat
    let k := k.toNat
    let held := s.idempotent s.cur
    if q.depth = 0 ∨ q.depth < k then s.trapWith 0x080
    else if tail then
      if q.room < k then s.trapWith 0x081
      else .done (s.modCurGroup (·.modQueue n.toNat fun q => if st == .a then q.passTail held k else q.push k held))
    else if q.visible < k then s.trapWith 0x081
    else .done (s.modCurGroup (·.modQueue n.toNat (·.passHead st held k)))

def execQadv (n : BitVec 6) (k : BitVec 4) (s : State) : Outcome := qadvWord false n k s
def execQadvTail (n : BitVec 6) (k : BitVec 4) (s : State) : Outcome := qadvWord true n k s

/-! ## Deferral (R256, 07 R167) -/

/-- Entries a deferral queue holds at most (R167). -/
def dqCapacity : Nat := 256

/-- The entry of a lane. -/
def State.deferEntry (s : State) (e : TEnv) (rec : Nat) (l : Nat) : DefEntry :=
  let g := s.group s.cur.team s.cur.group
  let base := indexOf e.t.srcA
  { record := rec, token := (s.team s.cur.team).ctrl.stack.length, item := g.itemOf l, role := g.role, base := base,
    live := (List.range (e.aux 16 4)).map fun k => lane (g.vReg (base + k)) l }

/-- `defer`: one entry of its deferral queue for each active lane. -/
def execDefer (t : Tpl) (p : BitVec 4) (s : State) : Outcome :=
  tplWord .x 0x47 { aux := 0x3F0000 } t p s
    (fun e s =>
      let g := s.group s.cur.team s.cur.group
      kindOf t.srcA == 0 && decide (e.aux 16 4 ≤ 8) && t.imm.toNat / 2 ^ 16 == 0 &&
      (e.aux 16 4 == 0 || decide (indexOf t.srcA + e.aux 16 4 - 1 < g.vregs)) &&
      decide (t.imm.toNat < (s.inst (s.team s.cur.team).inst).image.recordCount)) fun e s =>
    let tm := s.team s.cur.team
    let dq := e.aux 20 2
    let lanes := maskLanes e.act
    match s.readRecord s.cur.team t.imm.toNat with
    | .inl e => s.errEff e
    | .inr r =>
      if bitsOf r.flags 0 2 ≠ 1 ∨ bitsOf r.flags 3 1 = 1 then s.trapLast 0x041
      else if dqCapacity < (tm.dq.getD dq []).length + lanes.length then .wait s
      else
        let es := lanes.map (s.deferEntry e t.imm.toNat)
        .done (s.modTeam s.cur.team fun tm => { tm with dq := setAt [] tm.dq dq (tm.dq.getD dq [] ++ es) })

/-! ## Accumulator access (R258, R259) -/

/-- The tiles a matrix operation names (12): the tile of its word. -/
def MOp.names (o : MOp) (tile : Nat) : Bool :=
  match o.instr.mat? with
  | some (op, w) => (op ≤ 2 || op == 4 || op == 5) && w.acc.toNat == tile
  | none => false

/-- Whether an operation of a team that names a tile has issued and not retired, on any core that runs it, or a pulled body holds the
tile (03 R85). -/
def State.tileBusy (s : State) (t tile : Nat) : Bool :=
  s.cores.any fun c => (c.mops.any fun o => o.team == t && o.names tile) || (c.pulled == some t && c.copies.any (·.1 == tile))

/-- Tile and offset limits. -/
def tileOk (e : TEnv) (s : State) : Bool :=
  decide (e.aux 16 3 < (s.team s.cur.team).tiles.length) && e.aux 0 16 % 32 == 0 && decide (e.aux 0 16 < 4096)

def execMread (t : Tpl) (p : BitVec 4) (s : State) : Outcome :=
  tplWord .x 0x48 { dsts := [0, 1], aux := 0x7FFFF } t p s tileOk fun e s =>
    if s.tileBusy s.cur.team (e.aux 16 3) then .wait s
    else
      let tile := (s.team s.cur.team).tiles.getD (e.aux 16 3) []
      s.putLanes 0x48 e (mkLanes fun l => tile.getD (e.aux 0 16 + l) 0) 0

def execMwrite (t : Tpl) (p : BitVec 4) (s : State) : Outcome :=
  tplWord .x 0x49 { aux := 0x7FFFF } t p s tileOk fun e s =>
    if s.tileBusy s.cur.team (e.aux 16 3) then .wait s
    else
      let put (tile : List W32) : List W32 :=
        (maskLanes e.act).foldl (fun x l => setAt 0 x (e.aux 0 16 + l) (lane e.a.lanes l)) tile
      (s.modTeam s.cur.team fun tm =>
        { tm with tiles := setAt [] tm.tiles (e.aux 16 3) (put (tm.tiles.getD (e.aux 16 3) [])) }).finishTpl 0x49 t

end Sys2Proof.Machine
end

