-- ==== Sys2Proof/Machine/Access.lean ====
section
/-!
DEFINITION. The A stream (11): translation registers, effective addresses and their checks (R264 to R272), loads, stores,
private memory and atomics over the global and scratchpad spaces (R273 to R283), ring fills (R285), index vectors (R286), and
the landing of outstanding words (R273, 20 R453).
-/
namespace Sys2Proof.Machine

/-! ## Translation registers (R264, R265) -/

def Group.transReg (g : Group) (n : Nat) : TransReg := g.tr.getD n {}

def execGxlat (d a b : BitVec 6) (s : State) : Outcome :=
  s.word [.a] (fields := badField (d == 0)) fun s =>
    let va := (s.readReg a).toNat
    let len := (s.readReg b).toNat
    let t := s.cur.team
    if 2 ^ 51 < len then s.trapWith 0x041
    else if 2 ^ 51 ≤ va then .trap s (s.raiseErr { cause := 0x101, vaddr := va })
    else match s.translate (s.team t).core none (s.pidOf t) va .read with
      | .inl e => .trap s (s.raiseErr e)
      | .inr (_, s) =>
        let o := TlbOwner.reg t s.cur.group d.toNat
        let es : List TlbEntry := (s.cachedTlb (s.team t).core none (s.pidOf t) va).toList.map fun (e : TlbEntry) => { e with owner := o }
        let s := { s with tlb := es ++ s.tlb.filter fun (x : TlbEntry) => x.owner != o }
        .done (s.modCurGroup fun g => { g with tr := setAt {} g.tr d.toNat { frame := BitVec.ofNat 51 va, limit := len } })

def execGlim (d a : BitVec 6) (imm : BitVec 12) (s : State) : Outcome :=
  s.word [.a] (fields := badField (d == 0)) fun s =>
    let v : Int := (s.readReg a).toNat + imm.toInt
    if v < 0 ∨ 2 ^ 51 < v then s.trapWith 0x041
    else .done (s.modCurGroup fun g =>
      { g with tr := setAt {} g.tr d.toNat { g.transReg d.toNat with limit := v.toNat } })

/-! ## Fields of access words (R269) -/

def TEnv.order (e : TEnv) : Nat := e.aux 22 2
def TEnv.scope (e : TEnv) : Nat := e.aux 19 3
def TEnv.prm (e : TEnv) : Bool := e.t.aux.getLsbD 24
def TEnv.sc (e : TEnv) : Nat := e.aux 16 2
def TEnv.os (e : TEnv) (n : Nat) : Bool := e.t.aux.getLsbD n

/-- Aux bits of a displacement and an index scale; of order, scope and promotion. -/
def auxMem : Nat := 0x3FFFF
def auxOrd : Nat := 0x1F80000

/-- Base, index and ordering fields of a memory operand. -/
def TEnv.memOk (e : TEnv) : Bool :=
  kindOf e.t.srcA == 2 && decide (indexOf e.t.srcA < 32) && kindOf e.t.srcB != 1 && (e.sc == 0 || kindOf e.t.srcB == 0)

/-- Order, scope and promotion: without an order the two are zero (R269). -/
def TEnv.ordOk (e : TEnv) (orders : List Nat) : Bool :=
  orders.contains e.order && decide (e.scope ≤ 4) && (!e.prm || e.scope == 1) && (e.order != 0 || (e.scope == 0 && !e.prm))

/-- Width of an access in bytes and the value of a loaded element in its lane (R270). -/
def accBytes (code : Nat) : Nat := elemBits code / 8
def loadLane (code w : Nat) : W32 := elemLane code w
def accCodes : List Nat := [0, 1, 2, 8, 9, 10, 11, 26]

/-! ## Effective addresses (R271, R280, R281) -/

/-- The displacement of an access. -/
def TEnv.disp (e : TEnv) : Int := (BitVec.ofNat 16 (e.aux 0 16)).toInt

/-- The index of a lane as a 64-bit value. -/
def State.indexVal (s : State) (e : TEnv) (l : Nat) : Int :=
  match kindOf e.t.srcB with
  | 0 => (lane e.b.lanes l).toInt * 2 ^ e.sc
  | 2 => ((s.scalarSrc (indexOf e.t.srcB)).toNat : Int)
  | _ => e.t.imm.toInt

/-- The effective address of a lane. -/
def State.effAddr (s : State) (e : TEnv) (l : Nat) : Nat :=
  (((s.scalarSrc (indexOf e.t.srcA)).toNat + s.indexVal e l + e.disp) % (2 ^ 64 : Nat)).toNat

/-- Lanes whose address carries a taint (18 R429, R430). -/
def TEnv.eaTaint (e : TEnv) : W32 := if kindOf e.t.srcB = 0 then e.b.taint else 0

/-- The lanes of an access with their addresses. -/
def State.laneAddrs (s : State) (e : TEnv) (act : W32) : List LaneAcc :=
  (maskLanes act).map fun l => { lane := l, va := s.effAddr e l, home := e.eaTaint.getLsbD l }

/-- The private word of a lane and its address (R281). -/
def privWord (e : TEnv) (l : Nat) : Int :=
  (if kindOf e.t.srcB = 0 then (lane e.b.lanes l).toInt else e.t.imm.toInt) + e.disp / 4

def State.privBase (s : State) (t g : Nat) : Nat :=
  let p := s.part (s.pidOf t)
  p.privBase.toNat * 2 ^ 15 + ((s.group t g).priv.getD 0) * p.wpage * 32768

def State.privAddrs (s : State) (e : TEnv) (act : W32) : List LaneAcc :=
  (maskLanes act).map fun l =>
    { lane := l, va := ((s.privBase s.cur.team s.cur.group + privWord e l * 128 + l * 4) % (2 ^ 64 : Nat)).toNat,
      home := e.eaTaint.getLsbD l }

/-! ## Checks (R266, R272) -/

/-- The space of an access. -/
inductive Space where
  | global | scratch
  deriving DecidableEq, Repr

/-- Mask of the lanes of a list. -/
def lanesMask (ls : List LaneAcc) : W32 := mkMask fun l => ls.any (·.lane == l)

/-- A cause met by some lanes: the frame names them and the lowest one's address. -/
def State.laneRaise (s : State) (cause : Cause) (ls : List LaneAcc) : Raise :=
  { (s.raiseAt cause (lanesMask ls) ((ls.head?.map (·.va)).getD 0)) with shown := true }

/-- The frame check of a base register with a limit (R266). -/
def Group.inFrame (g : Group) (base w ea : Nat) : Bool :=
  let r := g.transReg base
  base == 0 || r.limit == 0 || (decide (r.frame.toNat ≤ ea) && decide (ea + w ≤ r.frame.toNat + r.limit))

/-- Translate the lanes in ascending order; an error with its lane's address. -/
def State.transLanes (s : State) (core : Nat) (reg : Option TlbOwner) (pid : Nat) (kind : AccessKind) :
    List LaneAcc → Sum MErr (List LaneAcc × State)
  | [] => .inr ([], s)
  | l :: ls =>
    match s.translate core reg pid l.va kind with
    | .inl e => .inl e
    | .inr (pa, s) =>
      match s.transLanes core reg pid kind ls with
      | .inl e => .inl e
      | .inr (rest, s) => .inr ({ l with pa := pa } :: rest, s)

/-- The lanes that meet a translation cause. -/
def State.transFails (s : State) (core : Nat) (reg : Option TlbOwner) (pid : Nat) (kind : AccessKind) (c : Cause)
    (ls : List LaneAcc) : List LaneAcc :=
  ls.filter fun l => match s.translate core reg pid l.va kind with
    | .inl e => e.cause == c
    | .inr _ => false

/-- The checks of an access on its lanes, in the order of R272. `base` names the base register of the frame check; `out` says which lanes of
a private access have their word out of range. -/
def State.checkLanes (s : State) (sp : Space) (base : Option Nat) (w : Nat) (kind : AccessKind) (ls : List LaneAcc)
    (k : List LaneAcc → State → Eff) (out : LaneAcc → Bool := fun _ => false) : Eff :=
  let t := s.cur.team
  let g := s.group t s.cur.group
  let scr := (s.inst (s.team t).inst).image.scratchBytes
  let bad (f : LaneAcc → Bool) : List LaneAcc := ls.filter f
  let glob := sp == .global
  let b1 := bad fun l => glob && !(g.inFrame (base.getD 0) w l.va)
  let b2 := bad fun l => glob && decide (2 ^ 51 ≤ l.va)
  let b3 := bad fun l => l.va % w != 0
  let b4 := bad fun l => !glob && decide (scr < l.va + w)
  if !b1.isEmpty then .trap s (s.laneRaise 0x0C8 b1)
  else if !b2.isEmpty then .trap s (s.laneRaise 0x101 b2)
  else if !b3.isEmpty then .trap s (s.laneRaise 0x0C1 b3)
  else if !b4.isEmpty then .trap s (s.laneRaise 0x0C0 b4)
  else if !(bad out).isEmpty then .trap s (s.laneRaise 0x0C2 (bad out))
  else if !glob then k ls s
  else
    let core := (s.team t).core
    let reg := base.map fun n => TlbOwner.reg t s.cur.group n
    match s.transLanes core reg (s.pidOf t) kind ls with
    | .inl e =>
      let fs := s.transFails core reg (s.pidOf t) kind e.cause ls
      .trap s { (s.raiseErr e (lanesMask fs)) with shown := true, vaddr := (fs.head?.map (·.va)).getD e.vaddr }
    | .inr (ls, s) => k ls s

end Sys2Proof.Machine
end

