-- ==== Sys2Proof/Machine/Transfer.lean ====
section
/-!
DEFINITION. Outstanding A words (11 R273, R279; 20 R453): what a load, store, atomic or ring fill does when it is performed,
the landing of its data, its failure and the resume list; the scratchpad and its full-empty granules (11 R274, R276).
-/
namespace Sys2Proof.Machine

/-! ## Order among a group's accesses (R273, R279) -/

/-- The next place in the A-port order of a team. -/
def Team.nextSeq (tm : Team) : Nat := (tm.groups.flatMap fun g => g.outst.map (·.seq)).foldl max 0 + 1

def OutKind.global : OutKind → Bool
  | .load => true
  | .atomic => true
  | .ringPut => true
  | .store => true
  | _ => false

/-- Whether two accesses of the global space share a byte. -/
def Outst.overlaps (a b : Outst) : Bool :=
  a.kind.global && b.kind.global &&
  a.lanes.any fun x => b.lanes.any fun y => decide (x.va < y.va + b.width) && decide (y.va < x.va + a.width)

def Outst.acquires (o : Outst) : Bool := acqOrder o.order
def Outst.releases (o : Outst) : Bool := relOrder o.order

/-- The load queue a word delivers to. -/
def Outst.loadQueue (o : Outst) : Option Nat := if o.kind == .ringPut then none else o.dst.map (·.1)

/-- Whether an access may be performed before its group's earlier outstanding words: none acquires, none is there for a
release, none shares a byte, none delivers to the same queue (R157, R279, 18 R415). -/
def Outst.free (o : Outst) (earlier : List Outst) : Bool :=
  earlier.all fun e => !e.acquires && !o.releases && !e.overlaps o &&
    !(o.loadQueue.isSome && e.loadQueue == o.loadQueue)

/-- Whether an access would reach the home L2 now (18 R417): a load that misses the L1 or reads at home, an atomic at home, a store made
at home. -/
def State.reachesHome (s : State) (t : Nat) (o : Outst) : Bool :=
  let home (l : LaneAcc) : Bool := l.home || s.uncached (s.pidOf t) l.va l.pa
  let miss (l : LaneAcc) : Bool := (List.range o.width).any fun k => (s.l1Find (s.accOf t l.va) (l.pa + k)).isNone
  match o.kind with
  | .store => o.lanes.any home || (wideScope o.scope && o.releases)
  | .atomic => o.lanes.any (fun l => home l || miss l) || o.order == 0 || wideScope o.scope
  | .load => o.lanes.any (fun l => home l || miss l) || (wideScope o.scope && o.acquires)
  | .ringPut => o.lanes.any fun l => home l || miss l
  | _ => false

/-- Whether a group's outstanding access may be performed: it is free of the earlier ones, and among accesses at the home L2 the group's
program order is kept (18 R417; log 92). -/
def State.mayPerform (s : State) (t : Nat) (o : Outst) (earlier : List Outst) : Bool :=
  o.free earlier && (!s.reachesHome t o || !earlier.any fun e => s.reachesHome t e)

/-- The footprint bytes of an outstanding word of a team: first address and length of each lane. -/
def Team.footBytes (tm : Team) (o : Outst) : List (Nat × Nat) :=
  match o.kind, o.dst with
  | .ringPut, some (r, slot) => match tm.rings.getD r none, o.instr.tpl? with
    | some ring, some (_, t, _) => o.lanes.map fun l => (ring.base + slot * ring.slotBytes + t.imm.toNat + 4 * l.lane, 4)
    | _, _ => []
  | .fullEmpty, _ => (o.lanes.filter fun l => !o.served.getLsbD l.lane).map fun l => (l.va, o.width)
  | _, _ => []

/-- Whether two lists of footprint bytes meet. -/
def footMeet (xs ys : List (Nat × Nat)) : Bool :=
  xs.any fun x => ys.any fun y => decide (x.1 < y.1 + y.2) && decide (y.1 < x.1 + x.2)

/-- Record a word as outstanding. -/
def State.pushOutst (s : State) (o : Outst) : State :=
  let n := (s.team s.cur.team).nextSeq
  s.modCurGroup fun g => { g with outst := g.outst ++ [{ o with seq := n }] }

/-- A load takes the tail slot of its queue: one more load is to land in it, its valid mask starts afresh when it has been
passed, and an advance passes it (R273). -/
def State.takeSlot (s : State) (q : Nat) (adv : Bool) : State :=
  let held := s.idempotent s.cur
  s.modCurGroup (·.modQueue q fun x =>
    let x := x.modSlot x.tail fun y => { y with pend := y.pend + 1, valid := if y.stale then 0 else y.valid, stale := false }
    if adv then x.passTail held 1 else x)

/-- The current tail slot of a load queue of the issuing group. -/
def State.tailOf (s : State) (q : Nat) : Nat := (Team.queue (s.group s.cur.team s.cur.group) q).tail

/-- A word whose data go to a load queue becomes outstanding. -/
def State.sendLoad (s : State) (o : Outst) (q : Nat) (adv : Bool) : State :=
  (s.pushOutst { o with dst := some (q, s.tailOf q) }).takeSlot q adv

/-! ## Scratchpad (R274, R276) -/

/-- Bytes of a team's footprint. -/
def Team.scratchByte (tm : Team) (a : Nat) : Byte := tm.scratch.getD a 0
def Team.scratchRead (tm : Team) (a n : Nat) : Nat := natOfBytes ((List.range n).map fun k => tm.scratchByte (a + k))
def Team.scratchWrite (tm : Team) (a : Nat) : List Byte → Team
  | [] => tm
  | b :: bs => ({ tm with scratch := setAt 0 tm.scratch a b }).scratchWrite (a + 1) bs
def Team.isFull (tm : Team) (granule : Nat) : Bool := tm.full.getD granule false
def Team.setFull (tm : Team) (granule : Nat) (b : Bool) : Team := { tm with full := setAt false tm.full granule b }

/-- Whether a scratchpad word of a team is uncorrectable (20 R450). -/
def State.scratchBad (s : State) (t a : Nat) : Bool := s.badStore.any fun b => b.1 == t && b.2.2 == .scratch (a / 4)

/-- Lanes whose scratchpad word is uncorrectable. -/
def State.badLanes (s : State) (t : Nat) (ls : List LaneAcc) : List LaneAcc := ls.filter fun l => s.scratchBad t l.va

/-- The held full-empty loads of a team: group, index in its outstanding words, word. -/
def Team.heldFe (tm : Team) : List (Nat × Nat × Outst) :=
  (List.range tm.groups.length).flatMap fun g =>
    ((tm.group g).outst.zipIdx.filter fun o => o.1.kind == .fullEmpty).map fun o => (g, o.2, o.1)

/-- Lanes of a full-empty load still to serve. -/
def Outst.unserved (o : Outst) : List LaneAcc := o.lanes.filter fun l => !o.served.getLsbD l.lane

/-- Bit 26 of the aux field of a word: CLR of `ldf` (R276). -/
def Outst.osBit (o : Outst) (n : Nat) : Bool :=
  match o.instr.tpl? with
  | some (_, t, _) => t.aux.getLsbD n
  | none => false

def Outst.clears (o : Outst) : Bool := o.kind == .fullEmpty && o.osBit 26

/-- Put a lane's loaded value into the data of a word. -/
def Outst.putLane (o : Outst) (l : Nat) (v : W32) : Outst := { o with data := setAt 0 o.data l v }

/-- Serve the lanes of a full-empty load whose granules are full and not awaited by an earlier clearing load; with CLR every
granule whose last reading lane is served becomes empty (R276). -/
def serveFe (tm : Team) (o : Outst) (taken : List Nat) : Team × Outst :=
  let ready := o.unserved.filter fun l => tm.isFull (l.va / 16) && !taken.contains (l.va / 16)
  let o' := ready.foldl (fun (o : Outst) l => o.putLane l.lane (elemLane o.code (tm.scratchRead l.va o.width))) o
  let o' := { o' with served := o.served ||| lanesMask ready }
  (if o.clears then ready.foldl (fun (tm : Team) l => tm.setFull (l.va / 16) false) tm else tm, o')

/-- Insert a held load in A-port order. -/
def insertSeq (x : Nat × Nat × Outst) : List (Nat × Nat × Outst) → List (Nat × Nat × Outst)
  | [] => [x]
  | y :: ys => if x.2.2.seq < y.2.2.seq then x :: y :: ys else y :: insertSeq x ys

/-- Serve every held full-empty load of a team in A-port order, an earlier unserved clearing load keeping its granules from
later ones. -/
def Team.serveAll (tm : Team) : Team :=
  ((tm.heldFe.foldl (fun acc x => insertSeq x acc) []).foldl (fun (p : Team × List Nat) x =>
    let r := serveFe p.1 x.2.2 p.2
    (r.1.modGroup x.1 fun g => { g with outst := setAt x.2.2 g.outst x.2.1 r.2 },
     p.2 ++ (if r.2.clears then r.2.unserved.map (·.va / 16) else []))) (tm, [])).1

/-- Granules of a footprint become full, and then the held loads are served (R276). -/
def Team.fill (tm : Team) (gs : List Nat) : Team := (gs.foldl (fun (tm : Team) g => tm.setFull g true) tm).serveAll

/-- Write scratchpad bytes of a team; with `fe` the granules written become full and held loads are served. -/
def Team.scratchStore (tm : Team) (a : Nat) (bs : List Byte) (fe : Bool) : Team :=
  let tm := tm.scratchWrite a bs
  if fe && !bs.isEmpty then tm.fill ((List.range ((a + bs.length - 1) / 16 - a / 16 + 1)).map (a / 16 + ·)) else tm

/-- A store to the scratchpad of a team: words wholly overwritten are sound again (20 R450). -/
def State.storeScratch (s : State) (t a : Nat) (bs : List Byte) (fe : Bool) : State :=
  let s := if s.badStore.isEmpty then s
    else { s with badStore := s.badStore.filter fun b => match b with
      | (u, _, .scratch w) => !(u == t && decide (a ≤ 4 * w) && decide (4 * w + 4 ≤ a + bs.length))
      | _ => true }
  s.modTeam t (·.scratchStore a bs fe)

/-! ## Ordered float adds (R283) -/

/-- The word an accumulator stores: the rounded exact sum of its terms. -/
def sumWord (terms : List Val) : Nat := fp32.round .rne false 0 (sumVals .rne terms)

/-- Open accumulators of a die. -/
def State.accCount (s : State) (die : Nat) : Nat := (s.accums.filter fun a => homeDie a.pa == die).length

/-- An ordered add performed at home: none while every accumulator is taken. -/
def State.orderedAdd (s : State) (t va pa : Nat) (v : W32) : MRes Nat :=
  let a := s.accOf t va
  let i := (s.team t).inst
  match s.heldBy a.pid va 4 with
  | some c => .wait c
  | none =>
    match s.failAt a.rev va pa with
    | some c => .err (failErr c va pa)
    | none =>
      let s := (s.flushLine a.core pa).recall a.core pa
      let old := natOfBytes (s.homeBytes a.rev va pa 4)
      let terms := match s.accums.find? fun x => x.pa == pa && x.rev == a.rev && x.inst == i with
        | some x => x.terms
        | none => [fp32.decode old]
      let terms := terms ++ [fp32.decode v.toNat]
      let s := s.homeWriteBytes a.pid a.rev va pa (bytesOfNat 4 (sumWord terms))
      let e : FloatAcc := { pa := pa, rev := a.rev, inst := i, terms := terms }
      .ok old { s with accums := e :: s.accums }

/-! ## Atomic operations (R282) -/

/-- The new word of an atomic opcode; none where nothing is written. `u` is OS[26]. -/
def atomicNew (op : Nat) (u : Bool) (old v cmp : W32) : Option W32 :=
  match op with
  | 0x59 => some (old + v)
  | 0x5A => some (if (if u then v.ult old else v.slt old) then v else old)
  | 0x5B => some (if (if u then old.ult v else old.slt v) then v else old)
  | 0x5C => some (old &&& v)
  | 0x5D => some (old ||| v)
  | 0x5E => some (old ^^^ v)
  | 0x5F => some v
  | 0x60 => if old = cmp ∧ v ≠ old then some v else none
  | _ => some (BitVec.ofNat 32 (fp32.round .rne false 0 (sumVals .rne [fp32.decode old.toNat, fp32.decode v.toNat])))

/-- The opcode of an outstanding word. -/
def Outst.op (o : Outst) : Nat :=
  match o.instr.tpl? with
  | some (op, _, _) => op
  | none => 0

/-- The new word of a lane. -/
def Outst.atomicLane (o : Outst) (l : Nat) (old : Nat) : Option Nat :=
  (atomicNew o.op (o.osBit 26) (BitVec.ofNat 32 old) (lane o.data l) (lane o.cmp l)).map (·.toNat)

/-! ## Performing an access -/

/-- Perform lane by lane in ascending order. -/
def eachLane (f : State → LaneAcc → MRes Nat) : List LaneAcc → List (Nat × Nat) → State → MRes (List (Nat × Nat))
  | [], acc, s => .ok acc s
  | l :: ls, acc, s =>
    match f s l with
    | .ok v s => eachLane f ls (acc ++ [(l.lane, v)]) s
    | .wait c => .wait c
    | .err e => .err e

/-- One lane of a load: at home for a tainted address, and for an acquire or load-consume at .clu or wider (18 R417, R430). -/
def Outst.readLane (o : Outst) (t : Nat) (s : State) (l : LaneAcc) : MRes Nat :=
  let home := l.home || (wideScope o.scope && (o.acquires || o.op == 0x53))
  match (if home then s.homeReadAt t l.va l.pa o.width else s.coreRead t l.va l.pa o.width) with
  | .ok bs s => .ok (elemLane o.code (natOfBytes bs)).toNat s
  | .wait c => .wait c
  | .err e => .err e

/-- One lane of a store. -/
def Outst.writeLane (o : Outst) (t : Nat) (s : State) (l : LaneAcc) : MRes Nat :=
  let bs := bytesOfNat o.width (lane o.data l.lane).toNat
  match (if l.home || (wideScope o.scope && o.releases) then s.homeWriteAt t l.va l.pa bs else s.coreWrite t l.va l.pa bs) with
  | .ok _ s => .ok 0 s
  | .wait c => .wait c
  | .err e => .err e

/-- One lane of an atomic (R282): relaxed and tainted ones at home, a tainted promoted one as an .ar at .dev (18 R428, R430), else at
the scope and order of the word. -/
def Outst.rmwLane (o : Outst) (t : Nat) (s : State) (l : LaneAcc) : MRes Nat :=
  if o.op == 0x61 && o.osBit 26 then s.orderedAdd t l.va l.pa (lane o.data l.lane)
  else if o.prm then
    (if l.home then s.atomicAt t l.va l.pa 4 3 3 (o.atomicLane l.lane) else s.atomicPrm t l.va l.pa 4 o.order (o.atomicLane l.lane))
  else if o.order = 0 ∨ (l.home ∧ !wideScope o.scope) then s.atomicHome t l.va l.pa 4 (o.atomicLane l.lane)
  else s.atomicAt t l.va l.pa 4 o.scope o.order (o.atomicLane l.lane)

/-- The lane function of a kind of access. -/
def Outst.laneFn (o : Outst) (t : Nat) : State → LaneAcc → MRes Nat :=
  match o.kind with
  | .store => o.writeLane t
  | .atomic => o.rmwLane t
  | _ => o.readLane t

/-- Perform an access of the global space for a team: the release side of its scope first, its lanes in order, then the
acquire side (13 R318). -/
def State.perform (s : State) (t : Nat) (o : Outst) : MRes (List (Nat × Nat)) :=
  let core := (s.team t).core
  let s := if o.releases then s.releaseAt core o.scope else s
  match eachLane (o.laneFn t) o.lanes [] s with
  | .ok vs s => .ok vs (if o.acquires then s.acquireAt core o.scope else s)
  | .wait c => .wait c
  | .err e => .err e

/-- The lanes of a word that fail with a cause. -/
def State.failLanes (s : State) (t : Nat) (o : Outst) (c : Cause) : List LaneAcc :=
  o.lanes.filter fun l => match o.laneFn t s l with
    | .err e => e.cause == c
    | _ => false

/-- The data of the lanes performed. -/
def laneData (vs : List (Nat × Nat)) : Lanes := vs.foldl (fun d v => setAt 0 d v.1 (BitVec.ofNat 32 v.2)) []

/-- Whether ordered adds find their accumulators or free ones on their dies. -/
def State.accReady (s : State) (t : Nat) (o : Outst) : Bool :=
  let rev (l : LaneAcc) : Nat := s.revAt revDepth (s.team t).rev l.va
  let new := ((o.lanes.filter fun l => !s.accums.any fun a => a.pa == l.pa && a.rev == rev l).map (·.pa)).eraseDups
  !(o.op == 0x61 && o.osBit 26) ||
    [0, 1].all fun d =>
      let n := (new.filter fun pa => homeDie pa == d).length
      n == 0 || decide (s.accCount d + n ≤ 16384)

/-! ## Failure (20 R453) -/

/-- The queue after the tail returns to a slot that words which have no effect would have filled; `n` words go from it. -/
def Que.rewind (q : Que) (slot : Nat) (gone : List (Nat × Nat)) : Que :=
  let first := (q.head + q.f) % q.depth
  let idx := (slot + q.depth - first) % q.depth
  let slots := (List.range q.depth).foldl (fun (ss : List QSlot) k =>
    let n := (gone.filter fun x => x.2 == k).length
    let x := ss.getD k {}
    if n = 0 then ss else setAt {} ss k { x with pend := x.pend - n, stale := false }) q.slots
  if idx < q.resv then { q with tail := slot, resv := idx, slots := slots } else { q with slots := slots }

/-- The consumer of failed data and the later outstanding words have no effect: queue tails return, granules a held clearing
load emptied are full again, and the words go to the resume list. -/
def State.squash (s : State) (t g n : Nat) : State :=
  let os := (s.group t g).outst.drop n
  let gone := os.filterMap fun o => if o.kind == .ringPut then none else o.dst
  let s := s.modTeam t fun tm => os.foldl (fun (tm : Team) o =>
    if o.clears then (o.lanes.filter fun l => o.served.getLsbD l.lane).foldl (fun (tm : Team) l => tm.setFull (l.va / 16) true) tm
    else tm) tm
  let s := s.modGroup t g fun x =>
    let x := { x with outst := x.outst.take n }
    x.mapQueues fun i q => match gone.find? (·.1 == i) with
      | some d => q.rewind d.2 (gone.filter (·.1 == i))
      | none => q
  s.modCtx (.a t g) fun x => { x with resume := (os.map fun (o : Outst) =>
    { o with served := 0, heldOn := none, withdrawn := false }) ++ x.resume }

/-- The data of an outstanding word fail: its cause is raised at the word with the state before it. -/
def State.failOut (s : State) (t g n : Nat) (o : Outst) (cause : Cause) (ls : List LaneAcc) (sector : Nat) : State :=
  let r : Raise := { cause := cause, ctx := some (.a t g), stream := 1, pc := o.info.pc, lanes := lanesMask ls, sector := sector,
                     regionPc := s.regionPc (.a t g), group := g, time := s.now }
  (s.squash t g n).raise t r 1 0

/-! ## Landing (R273, R276, R285) -/

/-- Remove an outstanding word of a group. -/
def State.dropOut (s : State) (t g n : Nat) : State := s.modGroup t g fun x => { x with outst := x.outst.eraseIdx n }

/-- Write landed data to their slot: the lanes, the valid mask and the taint of a load-consume (R273, R277, 18 R429). -/
def State.fillSlot (s : State) (t g : Nat) (o : Outst) (data : Lanes) : State :=
  match o.dst with
  | none => s
  | some (q, slot) =>
    let m := lanesMask o.lanes
    let taint := if o.op == 0x53 && wideScope o.scope then m else 0
    let held := s.idempotent (.a t g)
    s.modGroup t g (·.modQueue q fun x => (x.modSlot slot fun y =>
      { y with lanes := mergeLanes m y.lanes data, valid := y.valid ||| m, taint := mergeMask m y.taint taint,
               pend := y.pend - 1 }).settle held 16)

/-- Whether every earlier `mbput` of the team into the same slot has landed (R285). -/
def State.putsBefore (s : State) (t : Nat) (o : Outst) : Bool :=
  (s.team t).groups.any fun g => g.outst.any fun e => e.kind == .ringPut && e.dst == o.dst && decide (e.seq < o.seq)

/-- Offset of an `mbput` within its slot. -/
def Outst.off (o : Outst) : Nat :=
  match o.instr.tpl? with
  | some (_, t, _) => t.imm.toNat
  | none => 0

/-- The bytes of an `mbput` written to its ring slot, and the slot published with PUB. -/
def State.fillRing (s : State) (t g : Nat) (o : Outst) (data : Lanes) : State :=
  match o.dst with
  | none => s
  | some (r, slot) =>
    match (s.team t).rings.getD r none with
    | none => s
    | some ring =>
      let a := ring.base + slot * ring.slotBytes + o.off
      let s := o.lanes.foldl (fun (s : State) l =>
        s.storeScratch t (a + 4 * l.lane) (bytesOfNat 4 (lane data l.lane).toNat) false) s
      if o.osBit 25 then
        let held := s.idempotent (.a t g)
        let ring := { ring with tail := (ring.tail + 1) % ring.count, f := ring.f + 1,
                                heldFill := if held then ring.heldFill + 1 else ring.heldFill }
        s.modTeam t fun tm => { tm with rings := setAt none tm.rings r (some ring) }
      else s

/-- The data of the `n`-th outstanding word of a group land, or an access that was held back is performed; nothing happens
while it must wait. -/
def State.landOut (s : State) (t g n : Nat) : State :=
  match (s.group t g).outst[n]? with
  | none => s
  | some o =>
    let earlier := (s.group t g).outst.take n
    if !s.mayPerform t o earlier || (o.kind == .ringPut && earlier.any fun e => footMeet ((s.team t).footBytes e) ((s.team t).footBytes o)) ||
        !s.accReady t o || (o.kind == .ringPut && o.osBit 25 && s.putsBefore t o) then s
    else if o.withdrawn then s.failOut t g n o 0x148 o.lanes 0
    else match o.kind with
      | .scratch =>
        if o.bad = 0 then (s.dropOut t g n).fillSlot t g o o.data
        else s.failOut t g n o 0x143 (o.lanes.filter fun l => o.bad.getLsbD l.lane) 0
      | .fullEmpty =>
        let bad := s.badLanes t o.lanes
        if !o.unserved.isEmpty then s
        else if bad.isEmpty then (s.dropOut t g n).fillSlot t g o o.data
        else s.failOut t g n o 0x143 bad 0
      | _ =>
        match s.perform t o with
        | .wait c => s.modGroup t g fun x => { x with outst := setAt o x.outst n { o with heldOn := some c } }
        | .err e => s.failOut t g n o e.cause (s.failLanes t o e.cause) e.sector
        | .ok vs s' =>
          let s' := s'.dropOut t g n
          if o.kind == .ringPut then s'.fillRing t g o (laneData vs) else s'.fillSlot t g o (laneData vs)

/-- Whether the outstanding words of a team may land: it is on its core (21 R469). -/
def State.teamLands (s : State) (t : Nat) : Bool :=
  ((s.team t).status == .running || (s.team t).status == .parked) && !(s.cluster (clusterOf (s.team t).core)).thermalStop

/-- The event LOAD_DATA_LAND: an outstanding word of group `group` of team `team`, the `n`-th. -/
def execLoadDataLand (s : State) : Outcome :=
  .next (if s.teamLands s.ev.team then s.landOut s.ev.team s.ev.group s.ev.n else s)

/-! ## Issue of access words -/

/-- A store, or an atomic without a result: performed now when nothing holds it back, else outstanding. An error is a cause
at the word. -/
def State.sendNow (s : State) (o : Outst) (k : State → Eff) : Eff :=
  let t := s.cur.team
  if s.mayPerform t o (s.group t s.cur.group).outst then
    match s.perform t o with
    | .ok _ s => k s
    | .wait c => k (s.pushOutst { o with heldOn := some c })
    | .err e => .trap s { (s.raiseAt e.cause (lanesMask (s.failLanes t o e.cause))) with sector := e.sector }
  else k (s.pushOutst o)

/-- Whether a scratchpad access must wait for earlier outstanding words: an acquire, any word for a release (18 R415), or an `mbput` of
the group that has still to write bytes of it (R279). -/
def State.scratchWaits (s : State) (order w : Nat) (ls : List LaneAcc) : Bool :=
  let os := (s.group s.cur.team s.cur.group).outst
  os.any (·.acquires) || (relOrder order && !os.isEmpty) ||
    os.any fun o => o.kind == .ringPut && footMeet ((s.team s.cur.team).footBytes o) (ls.map fun l => (l.va, w))

/-- Scratchpad lanes read at issue. -/
def State.readScratch (s : State) (o : Outst) : Outst :=
  let tm := s.team s.cur.team
  let o' := o.lanes.foldl (fun (x : Outst) l => x.putLane l.lane (elemLane o.code (tm.scratchRead l.va o.width))) o
  { o' with bad := lanesMask (s.badLanes s.cur.team o.lanes) }

/-- Held full-empty loads of a core. -/
def State.heldOnCore (s : State) (core : Nat) : Nat :=
  (s.teams.map fun tm => if tm.core == core then (tm.heldFe.filter fun x => !x.2.2.unserved.isEmpty).length else 0).sum

/-- Issue an outstanding word of a kind: a load takes its slot, a ring fill its ring's tail, a store or atomic without a
result is performed (R273, R276, R282, R285). -/
def State.sendOut (s : State) (o : Outst) (k : State → Eff) : Eff :=
  let t := s.cur.team
  match o.dst with
  | none => s.sendNow o k
  | some (q, _) =>
    match o.kind with
    | .ringPut => k (s.pushOutst { o with dst := some (q, (((s.team t).rings.getD q none).getD {}).tail) })
    | .scratch => k ((s.sendLoad (s.readScratch o) q (advOf o)))
    | .fullEmpty =>
      if 64 ≤ s.heldOnCore (s.team t).core then .wait s else k ((s.sendLoad o q (advOf o)).modTeam t (·.serveAll))
    | _ => k (s.sendLoad o q (advOf o))
where
  advOf (o : Outst) : Bool := match o.instr.tpl? with
    | some (_, t, _) => t.adv.getLsbD 3
    | none => false

/-- The access kind of an outstanding word. -/
def OutKind.access : OutKind → AccessKind
  | .store => .write
  | .atomic => .atomic
  | _ => .read

/-- A word of the resume list issues again with the operands of its first issue, translated afresh (20 R453, log 23). -/
def State.reissue (s : State) : Eff :=
  match (s.ctxState s.cur).resume with
  | [] => .wait s
  | o :: _ =>
    if o.kind.global then
      s.checkLanes .global none o.width o.kind.access o.lanes fun ls s => s.sendOut { o with lanes := ls } .done
    else s.sendOut o .done

/-- A template word of the A stream that accesses memory: a resumed word is issued again, any other is checked and done. -/
def accWord (op : Nat) (r : TRule) (t : Tpl) (p : BitVec 4) (s : State) (ok : TEnv → State → Bool) (k : TEnv → State → Eff) :
    Outcome :=
  s.word [.a] (fun s => if s.iw.resumed then s.reissue else s.tplEffect op r t p k)
    (fun s => if s.iw.resumed then none else tplDecode r t s) (fun s => if s.iw.resumed then none else tplFields op r t p ok s)

/-- The record of a word being issued. -/
def State.outOf (s : State) (kind : OutKind) (i : Instr) (e : TEnv) (ls : List LaneAcc) : Outst :=
  { seq := 0, kind := kind, instr := i, info := s.iw, lanes := ls, width := accBytes e.code, code := e.code, order := e.order,
    scope := e.scope, prm := e.prm }

/-- Complete an access word: its store-queue sources advance. -/
def State.finishAcc (s : State) (op : Nat) (t : Tpl) : Eff := .done (s.popSources op t)

/-! ## Loads (R273, R275) -/

/-- A load: its lanes checked, then outstanding. -/
def loadWord (op : Nat) (sp : Space) (kind : OutKind) (orders : List Nat) (os : Nat) (i : Instr) (t : Tpl) (p : BitVec 4) (s : State) :
    Outcome :=
  accWord op { fmts := accCodes, dsts := [1], aux := auxMem + auxOrd + os } t p s
    (fun e _ => e.memOk && (if op = 0x53 then e.order == 0 && decide (e.scope ≤ 4) && !e.prm else e.ordOk orders) && t.free != 0)
    fun e s =>
    if sp == .scratch && s.scratchWaits e.order (accBytes e.code) (s.laneAddrs e e.act) then .wait s
    else s.checkLanes sp (some (indexOf t.srcA)) (accBytes e.code) .read (s.laneAddrs e e.act) fun ls s =>
      s.sendOut { s.outOf kind i e ls with dst := some (t.dstIdx.toNat, 0) } fun s => s.finishAcc op t

def execLd (t : Tpl) (p : BitVec 4) (s : State) : Outcome := loadWord 0x50 .global .load [0, 1] 0 (.ld t p) t p s
def execLdl (t : Tpl) (p : BitVec 4) (s : State) : Outcome := loadWord 0x51 .scratch .scratch [0, 1] 0 (.ldl t p) t p s
def execLdf (t : Tpl) (p : BitVec 4) (s : State) : Outcome := loadWord 0x52 .scratch .fullEmpty [0] 0x4000000 (.ldf t p) t p s
def execLdc (t : Tpl) (p : BitVec 4) (s : State) : Outcome := loadWord 0x53 .global .load [0] 0 (.ldc t p) t p s

/-- `pf` (R275): a lane that would raise a cause is dropped; the 128-byte lines of the others are fetched, into L1 at level 0, the sectors
that home can give. The format is FP32, four bytes wide. -/
def State.prefetch (s : State) (e : TEnv) (l : LaneAcc) : State :=
  let t := s.cur.team
  let n := indexOf e.t.srcA
  if !(s.group t s.cur.group).inFrame n 4 l.va || l.va % 4 != 0 then s
  else match s.translate (s.team t).core (some (.reg t s.cur.group n)) (s.pidOf t) l.va .read with
    | .inl _ => s
    | .inr (pa, s) =>
      let a := s.accOf t l.va
      if e.os 26 || s.physTarget pa != .mem || s.uncached a.pid l.va pa then s
      else (List.range 4).foldl (fun (s : State) k =>
        let q := lineOf pa + 32 * k
        let v := lineOf l.va + 32 * k
        if (s.failAt a.rev v q).isSome || (s.heldBy a.pid v 32).isSome then s else s.l1Fill a v q) s

def execPf (t : Tpl) (p : BitVec 4) (s : State) : Outcome :=
  accWord 0x57 { aux := auxMem + auxOrd + 0x4000000 } t p s (fun e _ => e.memOk && e.ordOk [0]) fun e s =>
    .done ((s.laneAddrs e e.act).foldl (fun s l => s.prefetch e l) s)

/-! ## Stores (R278) -/

/-- The lanes a store or atomic takes part with, and their data. -/
def State.dataOf (s : State) (e : TEnv) : W32 × Lanes :=
  let g := s.group s.cur.team s.cur.group
  (if isQueue e.t.srcC then e.act &&& (Team.queue g (indexOf e.t.srcC)).headSlot.mask else e.act, e.c.lanes)

/-- The lanes of a list that take part. -/
def pickLanes (m : W32) (ls : List LaneAcc) : List LaneAcc := ls.filter fun l => m.getLsbD l.lane

/-- The data kinds of a store: a store-queue head or an immediate. -/
def storeData (t : Tpl) : Bool := kindOf t.srcC == 1 || kindOf t.srcC == 3

def execSt (t : Tpl) (p : BitVec 4) (s : State) : Outcome :=
  accWord 0x54 { fmts := accCodes, aux := auxMem + auxOrd } t p s (fun e _ => e.memOk && e.ordOk [0, 2] && storeData t) fun e s =>
    let d := s.dataOf e
    s.checkLanes .global (some (indexOf t.srcA)) (accBytes e.code) .write (s.laneAddrs e e.act) fun ls s =>
      s.sendOut { s.outOf .store (.st t p) e (pickLanes d.1 ls) with data := d.2 } fun s => s.finishAcc 0x54 t

/-- The lanes of a scratchpad store, written in ascending order; with `fe` their granules become full once the whole word is
written, and the held loads are then served (R274, R276; log 101). -/
def State.storeLanes (s : State) (k w : Nat) (ls : List LaneAcc) (data : Lanes) (fe : Bool) : State :=
  let s := ls.foldl (fun (s : State) l => s.storeScratch k l.va (bytesOfNat w (lane data l.lane).toNat) false) s
  if fe then s.modTeam k (·.fill (ls.map (·.va / 16))) else s

/-- A store to the scratchpad; `fe` sets the granules full. -/
def scratchStoreWord (op : Nat) (fe : Bool) (orders : List Nat) (t : Tpl) (p : BitVec 4) (s : State) : Outcome :=
  accWord op { fmts := accCodes, aux := auxMem + auxOrd } t p s (fun e _ => e.memOk && e.ordOk orders && storeData t) fun e s =>
    if s.scratchWaits e.order (accBytes e.code) (s.laneAddrs e e.act) then .wait s
    else
      let d := s.dataOf e
      let w := accBytes e.code
      s.checkLanes .scratch none w .write (s.laneAddrs e e.act) fun ls s =>
        (s.storeLanes s.cur.team w (pickLanes d.1 ls) d.2 fe).finishAcc op t

def execStl (t : Tpl) (p : BitVec 4) (s : State) : Outcome := scratchStoreWord 0x55 false [0, 2] t p s
def execStf (t : Tpl) (p : BitVec 4) (s : State) : Outcome := scratchStoreWord 0x56 true [0] t p s

/-! ## Private memory (R280, R281) -/

/-- Whether the private word of a lane is out of range (R281). -/
def State.privOut (s : State) (e : TEnv) (l : LaneAcc) : Bool :=
  let n := (s.inst (s.team s.cur.team).inst).image.privateWords
  decide (privWord e l.lane < 0) || decide ((n : Int) ≤ privWord e l.lane)

/-- Continue with the lanes of a private access; a word index out of range is 0x0C2, after the checks of the address (R272). -/
def State.withPriv (s : State) (e : TEnv) (kind : AccessKind) (k : List LaneAcc → State → Eff) : Eff :=
  s.checkLanes .global none 4 kind (s.privAddrs e e.act) k (s.privOut e)

def privOk (e : TEnv) : Bool :=
  (kindOf e.t.srcB == 0 || kindOf e.t.srcB == 3) && e.aux 0 16 % 4 == 0

def execLdp (t : Tpl) (p : BitVec 4) (s : State) : Outcome :=
  accWord 0x65 { fmts := [0, 8], dsts := [1], aux := 0xFFFF } t p s (fun e _ => privOk e && t.free != 0) fun e s =>
    s.withPriv e .read fun ls s =>
      s.sendOut { s.outOf .load (.ldp t p) e ls with dst := some (t.dstIdx.toNat, 0) } fun s => s.finishAcc 0x65 t

def execStp (t : Tpl) (p : BitVec 4) (s : State) : Outcome :=
  accWord 0x66 { fmts := [0, 8], aux := 0xFFFF } t p s (fun e _ => privOk e && storeData t) fun e s =>
    let d := s.dataOf e
    s.withPriv e .write fun ls s =>
      s.sendOut { s.outOf .store (.stp t p) e (pickLanes d.1 ls) with data := d.2 } fun s => s.finishAcc 0x66 t

/-! ## Atomics (R282, R283) -/

/-- Atomics on the scratchpad, lane by lane: the team and the old values. -/
def scratchRmw (o : Outst) (tm : Team) : Team × Outst :=
  o.lanes.foldl (fun (p : Team × Outst) l =>
    let old := p.1.scratchRead l.va 4
    let tm := match o.atomicLane l.lane old with
      | some v => p.1.scratchWrite l.va (bytesOfNat 4 v)
      | none => p.1
    (tm, p.2.putLane l.lane (BitVec.ofNat 32 old))) (tm, { o with data := [] })

/-- An atomic on the scratchpad is performed and its result delivered at issue, once no earlier word must land first. -/
def State.sendScratchRmw (s : State) (op : Nat) (t : Tpl) (o : Outst) : Eff :=
  let bad := s.badLanes s.cur.team o.lanes
  let g := s.group s.cur.team s.cur.group
  if s.scratchWaits o.order 4 o.lanes || (o.dst.isSome && g.outst.any fun e => e.loadQueue == o.loadQueue) then .wait s
  else if !bad.isEmpty then .trap s (s.raiseAt 0x143 (lanesMask bad))
  else
    let r := scratchRmw o (s.team s.cur.team)
    let s := s.setTeam s.cur.team r.1
    match o.dst with
    | none => s.finishAcc op t
    | some (q, _) =>
      let slot := s.tailOf q
      ((s.takeSlot q (t.adv.getLsbD 3)).fillSlot s.cur.team s.cur.group { r.2 with dst := some (q, slot) } r.2.data).finishAcc op t

/-- The field rules of an atomic. -/
def atomicOk (op : Nat) (t : Tpl) (e : TEnv) : Bool :=
  e.memOk && e.ordOk [0, 1, 2, 3] && kindOf t.srcC != 2 && (!e.os 18 || (decide (e.scope ≤ 1) && !e.prm)) &&
  (e.os 25 || (t.dstKind == 1 && t.free != 0)) && (!(op == 0x61 && e.os 26) || (e.os 25 && !e.os 18))

/-- An atomic; `os` are its opcode-specific aux bits. -/
def atomicWord (op fmt os : Nat) (i : Instr) (t : Tpl) (p : BitVec 4) (s : State) : Outcome :=
  accWord op { fmts := [fmt], aux := auxMem + auxOrd + 0x2040000 + os } t p s (fun e _ => atomicOk op t e) fun e s =>
    let d := s.dataOf e
    let g := s.group s.cur.team s.cur.group
    let sp := if e.os 18 then Space.scratch else Space.global
    s.checkLanes sp (some (indexOf t.srcA)) 4 .atomic (s.laneAddrs e e.act) fun ls s =>
      let o : Outst := { s.outOf .atomic i e (pickLanes d.1 ls) with
        data := d.2, cmp := if op = 0x60 then g.iReg (e.aux 26 3) else [],
        dst := if e.os 25 then none else some (t.dstIdx.toNat, 0) }
      if e.os 18 then s.sendScratchRmw op t o
      else if !s.accReady s.cur.team o then .wait s
      else s.sendOut o fun s => s.finishAcc op t

def execAadd (t : Tpl) (p : BitVec 4) (s : State) : Outcome := atomicWord 0x59 8 0 (.aadd t p) t p s
def execAmin (t : Tpl) (p : BitVec 4) (s : State) : Outcome := atomicWord 0x5A 8 0x4000000 (.amin t p) t p s
def execAmax (t : Tpl) (p : BitVec 4) (s : State) : Outcome := atomicWord 0x5B 8 0x4000000 (.amax t p) t p s
def execAand (t : Tpl) (p : BitVec 4) (s : State) : Outcome := atomicWord 0x5C 8 0 (.aand t p) t p s
def execAor (t : Tpl) (p : BitVec 4) (s : State) : Outcome := atomicWord 0x5D 8 0 (.aor t p) t p s
def execAxor (t : Tpl) (p : BitVec 4) (s : State) : Outcome := atomicWord 0x5E 8 0 (.axor t p) t p s
def execAxch (t : Tpl) (p : BitVec 4) (s : State) : Outcome := atomicWord 0x5F 8 0 (.axch t p) t p s
def execAcas (t : Tpl) (p : BitVec 4) (s : State) : Outcome := atomicWord 0x60 8 0x1C000000 (.acas t p) t p s
def execAfadd (t : Tpl) (p : BitVec 4) (s : State) : Outcome := atomicWord 0x61 0 0x4000000 (.afadd t p) t p s

/-! ## Ring fills (R285) -/

/-- Outstanding publications of a ring of a team. -/
def Team.pubsOf (tm : Team) (r : Nat) : Nat :=
  (tm.groups.map fun g => (g.outst.filter fun o => o.kind == .ringPut && o.osBit 25 && o.dst.map (·.1) == some r).length).sum

def execMbput (t : Tpl) (p : BitVec 4) (s : State) : Outcome :=
  accWord 0x63 { fmts := [8], aux := auxMem + 0x1E000000 } t p s
    (fun e s =>
      let off := t.imm.toNat
      match (s.team s.cur.team).rings.getD (e.aux 26 3) none with
      | none => false
      | some r => e.memOk && kindOf t.srcB != 3 && off % 128 == 0 && decide (off + 128 ≤ r.slotBytes)) fun e s =>
    let tm := s.team s.cur.team
    let n := e.aux 26 3
    match tm.rings.getD n none with
    | none => s.trapLast 0x041
    | some r =>
      if r.count ≤ r.f + r.heldPop + r.resv + tm.pubsOf n ∨ r.engine ≠ 0 then .wait s
      else s.checkLanes .global (some (indexOf t.srcA)) 4 .read (s.laneAddrs e e.act) fun ls s =>
        s.sendOut { s.outOf .ringPut (.mbput t p) e ls with dst := some (n, 0) } fun s => s.finishAcc 0x63 t

/-! ## Index vectors (R286) -/

/-- An index word of two sources. -/
def indexWord (op : Nat) (t : Tpl) (p : BitVec 4) (s : State) (f : W32 → W32 → W32) : Outcome :=
  tplWord .a op { dsts := [0] } t p s (fun _ _ => true) fun e s =>
    s.putLanes op e (mkLanes fun l => f (lane e.a.lanes l) (lane e.b.lanes l)) e.taint

def execIadd (t : Tpl) (p : BitVec 4) (s : State) : Outcome := indexWord 0x67 t p s fun x y => x + y
def execIshl (t : Tpl) (p : BitVec 4) (s : State) : Outcome := indexWord 0x68 t p s fun x y => x <<< (y.toNat % 32)
def execIand (t : Tpl) (p : BitVec 4) (s : State) : Outcome := indexWord 0x6A t p s fun x y => x &&& y

def execImov (t : Tpl) (p : BitVec 4) (s : State) : Outcome :=
  tplWord .a 0x69 { dsts := [0, 3], aux := 0x10000 } t p s (fun _ _ => true) fun e s =>
    let vals := mkLanes fun l => lane e.a.lanes l + (if e.os 16 then BitVec.ofNat 32 l else 0)
    if t.dstKind = 3 then
      (s.modCurGroup (·.writePred t.dstIdx.toNat e.act (mkMask fun l => lane vals l != 0) e.taint)).finishTpl 0x69 t
    else s.putLanes 0x69 e vals e.taint

end Sys2Proof.Machine
end

