-- ==== Sys2Proof/Machine/Copy.lean ====
section
/-!
DEFINITION. Copy channels (14 R339 to R355): `cpy` and `chkick` (09 R209), the command and its checks, the stages of a COPY, WAIT,
POST, LINK, STOP, ARM, completion, errors and faults; and the sensor ingress (R356, R357).
-/
namespace Sys2Proof.Machine

/-! ## Engine accesses (R346, R354) -/

/-- Translate for an engine; the address is what the frame's VADDR records. -/
def State.engTranslate (s : State) (pid va : Nat) (kind : AccessKind) : Sum MErr Nat :=
  match s.engineTranslate pid va kind with
  | .inl c => .inl { cause := c, vaddr := va, kind := kind, serviceable := serviceableCause c && decide (va < 2 ^ 51) }
  | .inr pa => .inr pa

/-- The failure of a home access of an engine. -/
def engFail (c : Cause) (va pa : Nat) (kind : AccessKind) : MErr :=
  { cause := c, vaddr := va, sector := if c.toNat / 64 = 5 then sectorOf pa else 0, kind := kind }

/-- The failure of an engine's access to a physical address: the register windows are no target of an engine (log 72). -/
def State.engTargetFail (s : State) (rev va pa : Nat) : Option Cause :=
  if s.physTarget pa matches .window _ then some 0x380 else s.failAt rev va pa

/-- Read bytes at home for an engine working in a revision. -/
def State.engRead (s : State) (pid rev va : Nat) : Nat → Sum MErr (List Byte)
  | 0 => .inr []
  | n + 1 =>
    match s.engTranslate pid va .read with
    | .inl e => .inl e
    | .inr pa =>
      match s.engTargetFail rev va pa with
      | some c => .inl (engFail c va pa .read)
      | none => match s.engRead pid rev (va + 1) n with
        | .inl e => .inl e
        | .inr bs => .inr (s.homeByte rev va pa :: bs)

/-- The first byte of a range an engine cannot write. -/
def State.engWriteErr (s : State) (pid va n : Nat) : Option MErr :=
  (List.range n).findSome? fun k =>
    match s.engTranslate pid (va + k) .write with
    | .inl e => some e
    | .inr pa => match s.engTargetFail 0 (va + k) pa with
      | some c => if c.toNat / 64 = 14 then some (engFail c (va + k) pa .write) else none
      | none => none

/-- An engine's read of a range closes the accumulators of its words (11 R283). -/
def State.engTouch (s : State) (pid rev va n : Nat) : State :=
  if s.accums.isEmpty then s
  else { s with accums := s.accums.filter fun a => !(List.range n).any fun k => match s.engTranslate pid (va + k) .read with
    | .inr pa => a.rev == s.revAt revDepth rev (va + k) && decide (a.pa ≤ pa) && decide (pa < a.pa + 4)
    | .inl _ => false }

/-- Write bytes at home for an engine, translated byte by byte. -/
def State.engPut (s : State) (pid rev va : Nat) : List Byte → State
  | [] => s
  | b :: bs =>
    match s.engTranslate pid va .write with
    | .inl _ => s
    | .inr pa => (s.homeWrite pid rev va pa b).engPut pid rev (va + 1) bs

/-- Physical lines an address range touches. -/
def State.engLines (s : State) (pid va n : Nat) : List Nat :=
  ((List.range ((va + n - 1) / 128 + 1 - va / 128)).filterMap fun k =>
    match s.engTranslate pid ((va / 128 + k) * 128) .write with
    | .inl _ => none
    | .inr pa => some pa)

/-- A write that covers a whole line takes it out of quarantine, and its sectors are sound again (15 R367). -/
def State.coverLines (s : State) (pid va n : Nat) : State :=
  let vs := (List.range ((va + n) / 128 + 1 - va / 128)).filterMap fun k =>
    let l := (va / 128 + k) * 128
    if va ≤ l ∧ l + 128 ≤ va + n then
      (match s.engTranslate pid l .write with
      | .inr pa => some pa
      | .inl _ => none)
    else none
  if vs.isEmpty then s
  else { s with quar := s.quar.filter (fun q => !vs.contains q),
                bad := s.bad.filter fun b => b.cause == 0x142 || !vs.contains (lineOf b.pa) }

/-- An engine's write of a range, or what stops it. -/
def State.engWrite (s : State) (pid rev va : Nat) (bs : List Byte) : Sum MErr State :=
  match s.engWriteErr pid va bs.length with
  | some e => .inl e
  | none => .inr ((s.coverLines pid va bs.length).engPut pid rev va bs)

/-- The window of another channel that holds an access (R352). -/
def State.heldByOther (s : State) (pid va n core ch : Nat) : Option (Nat × Nat) :=
  s.heldIn (s.windows.filter fun w => !(w.1 == core && w.2.1 == ch)) pid va n

/-- The error of an access a watch window holds: the unit waits (R352). -/
def heldErr (va : Nat) (w : Nat × Nat) : MErr := { cause := 0, vaddr := va, hold := some w }

/-- Reads and writes of a unit without a channel of its own: a raster, sampler, traversal unit or builder. -/
def State.unitRead (s : State) (pid rev va n : Nat) : Sum MErr (List Byte) :=
  match s.heldBy pid va n with
  | some w => .inl (heldErr va w)
  | none => s.engRead pid rev va n
def State.unitWrite (s : State) (pid rev va : Nat) (bs : List Byte) : Sum MErr State :=
  match s.heldBy pid va bs.length with
  | some w => .inl (heldErr va w)
  | none => s.engWrite pid rev va bs

/-- What keeps a unit from writing a range. -/
def State.unitWriteErr (s : State) (pid va n : Nat) : Option MErr :=
  match s.heldBy pid va n with
  | some w => some (heldErr va w)
  | none => s.engWriteErr pid va n

/-- A turn of a unit: a window that has ended under its held request fails it with 0x148 (14 R352; log 93). -/
def State.unitTurn (s : State) (who : FaultBy) (fail : State → MErr → State) (go : State → State) : State :=
  if s.holdLost (.unit who) then fail (s.unhold (.unit who)) { cause := 0x148 } else go (s.unhold (.unit who))

/-- A unit whose access failed: it waits on a window (14 R352), a translation fault goes to the fault service (13 R330, 16 R391, 17
R407), and any other failure is for `k`. -/
def State.unitFail (s : State) (who : FaultBy) (c : Ctx) (pid stream group : Nat) (e : MErr) (k : State → MErr → State) : State :=
  match e.hold with
  | some w => s.hold (.unit who) w
  | none =>
    if e.serviceable && (s.part pid).fltEnable then
      let x : Raise := { cause := e.cause, stream := stream, group := group, vaddr := e.vaddr, serviceable := true, kind := e.kind }
      let p : Pending := { part := pid, who := who, ctx := c, raise := x }
      { s with pending := s.pending ++ [p] }
    else k s e

/-- Uncorrectable data an engine reads for a team is reported when it is read (15 R367, 20 R454). -/
def State.engReport (s : State) (t : Nat) (e : MErr) : State := s.reportData t { cause := e.cause, sector := e.sector }

/-- A cause found by an engine for a team: raised in its C stream (20 R503), or logged when the team has ended. -/
def State.engineCause (s : State) (t : Nat) (e : MErr) : State :=
  let s := s.engReport t e
  let r : Raise := { cause := e.cause, vaddr := e.vaddr, shown := true, sector := e.sector, reported := true }
  if (s.team t).status.live then s.modTeam t fun x => { x with craise := x.craise ++ [r] }
  else s.logInst (s.team t).inst { cause := e.cause, kind := 3, team := (s.team t).linear }

/-! ## The command (R343 to R346) -/

def CopyCmd.op (c : CopyCmd) : Nat := bitsOf c.ctl 0 4
def CopyCmd.flag (c : CopyCmd) (n : Nat) : Bool := bitsOf c.ctl n 1 == 1
def CopyCmd.scope (c : CopyCmd) : Nat := bitsOf c.ctl 6 3
def CopyCmd.rows (c : CopyCmd) : Nat := bitsOf c.shape 16 16
def CopyCmd.rowBytes (c : CopyCmd) : Nat := bitsOf c.shape 0 16
def CopyCmd.zfill (c : CopyCmd) : Bool := bitsOf c.src 51 1 == 1
def CopyCmd.swap (c : CopyCmd) : Nat := bitsOf c.src 53 2
def CopyCmd.conv (c : CopyCmd) : Nat := bitsOf c.src 55 3
def CopyCmd.trans (c : CopyCmd) : Bool := bitsOf c.src 58 1 == 1
def CopyCmd.srcAddr (c : CopyCmd) : Nat := bitsOf c.src 0 51
def CopyCmd.dstAddr (c : CopyCmd) : Nat := bitsOf c.dst 0 51
def CopyCmd.ring (c : CopyCmd) : Bool := c.flag 11
def CopyCmd.dstSp (c : CopyCmd) : Bool := c.flag 10
def CopyCmd.srcSp (c : CopyCmd) : Bool := c.flag 9

/-- Parse the 32 bytes at an address. -/
def parseCopy (addr : Nat) (bs : List Byte) : CopyCmd :=
  let f (off n : Nat) : Nat := natOfBytes ((bs.drop off).take n)
  { addr := addr, src := f 0 8, dst := f 8 8, ctl := f 16 4, shape := f 20 4, pitch := f 24 4 }

/-- Input and output widths of the CONV stage; without it, one byte, or the 4-byte elements of TRANS. -/
def CopyCmd.inW (c : CopyCmd) : Nat :=
  match c.conv with
  | 0 => if c.trans then 4 else 1
  | 3 => 2
  | 4 => 2
  | 5 => 1
  | _ => 4
def CopyCmd.outW (c : CopyCmd) : Nat :=
  match c.conv with
  | 0 => c.inW
  | 3 => 4
  | 4 => 4
  | 6 => 1
  | _ => 2

/-- Bytes of the SWAP unit. -/
def CopyCmd.swapUnit (c : CopyCmd) : Nat := 2 ^ c.swap

/-- Source row step, destination rows, their length and step (R343, R346). -/
def CopyCmd.srcStep (c : CopyCmd) : Nat := if bitsOf c.pitch 0 16 = 0 then c.rowBytes else bitsOf c.pitch 0 16 * 16
def CopyCmd.dstRows (c : CopyCmd) : Nat := if c.trans then c.rowBytes / c.inW else c.rows
def CopyCmd.dstLen (c : CopyCmd) : Nat := if c.trans then c.rows * c.outW else c.rowBytes / c.inW * c.outW
def CopyCmd.dstStep (c : CopyCmd) : Nat := if bitsOf c.pitch 16 16 = 0 then c.dstLen else bitsOf c.pitch 16 16 * 16
def CopyCmd.dstEnd (c : CopyCmd) : Nat := c.dstAddr + (c.dstRows - 1) * c.dstStep + c.dstLen
def CopyCmd.srcEnd (c : CopyCmd) : Nat := c.srcAddr + (c.rows - 1) * c.srcStep + c.rowBytes

/-- Whether the destination of a COPY lies wholly in a channel's window (R351). -/
def CopyCmd.inWindow (c : CopyCmd) (h : Chan) : Bool :=
  h.armed && !c.ring && !c.dstSp && decide (h.wmBase ≤ c.dstAddr) && decide (c.dstEnd ≤ h.wmBase + h.wmLen)

/-- The MALFORMED cases of a COPY (R345, R346). -/
def CopyCmd.badCopy (c : CopyCmd) (h : Chan) (tm : Team) (scratchBytes : Nat) : Bool :=
  bitsOf c.src 59 5 != 0 || bitsOf c.src 52 1 != 0 || c.conv == 7 || bitsOf c.dst 51 5 != 0 ||
  c.rows == 0 || c.rowBytes == 0 || (c.scope != 0 && !c.flag 4 && !c.flag 5) ||
  c.rowBytes % c.inW != 0 || c.rowBytes % c.swapUnit != 0 ||
  (if c.zfill then c.srcAddr != 0 || c.srcSp || c.flag 4
   else
    c.srcAddr % (if c.conv = 0 then 1 else c.inW) != 0 || c.srcAddr % c.swapUnit != 0 ||
    (decide (1 < c.rows) && (c.srcStep % (if c.conv = 0 then 1 else c.inW) != 0 || c.srcStep % c.swapUnit != 0)) ||
    (if c.srcSp then decide (scratchBytes < c.srcEnd) else decide (2 ^ 51 < c.srcEnd))) ||
  (c.trans && (decide (64 < c.rows) || decide (64 < c.rowBytes / c.inW))) ||
  (if c.ring then
    c.dstSp || bitsOf c.pitch 16 16 != 0 || bitsOf c.dst 3 48 != 0 ||
    (match tm.rings.getD (bitsOf c.dst 0 3) none with
     | none => true
     | some r => decide (r.slotBytes < c.dstRows * c.dstLen))
   else if c.dstSp then decide (scratchBytes < c.dstEnd) else decide (2 ^ 51 < c.dstEnd)) ||
  (c.flag 12 && !c.inWindow h)

/-- Whether a command is MALFORMED (R344, R345). -/
def CopyCmd.bad (c : CopyCmd) (h : Chan) (tm : Team) (scratchBytes : Nat) : Bool :=
  bitsOf c.ctl 13 19 != 0 || decide (4 < c.scope) ||
  match c.op with
  | 0 => c.badCopy h tm scratchBytes
  | 1 => (bitsOf c.ctl 4 9 &&& 0x1E2) != 0 || (c.scope != 0 && !c.flag 4) || badCounter c
  | 2 => (bitsOf c.ctl 4 9 &&& 0x1E1) != 0 || (c.scope != 0 && !c.flag 5) || badCounter c
  | 3 => bitsOf c.ctl 4 9 != 0 || bitsOf c.src 51 13 != 0 || c.src % 32 != 0 || c.dst != 0 || c.shape != 0 || c.pitch != 0
  | 4 => bitsOf c.ctl 4 9 != 0 || c.src != 0 || c.dst != 0 || c.shape != 0 || c.pitch != 0
  | 5 => bitsOf c.ctl 4 9 != 0 || bitsOf c.src 51 13 != 0 || c.src % 128 != 0 || c.dst != 0 || c.shape % 128 != 0 || c.pitch != 0
  | _ => true
where
  badCounter (c : CopyCmd) : Bool := bitsOf c.src 51 13 != 0 || c.src % 8 != 0 || c.shape != 0 || c.pitch != 0

/-! ## The stages of a row (R346) -/

/-- Reverse bytes within units of `n`. -/
def swapBytes (n : Nat) : Nat → List Byte → List Byte
  | 0, bs => bs
  | k + 1, bs => if bs.isEmpty then [] else (bs.take n).reverse ++ swapBytes n k (bs.drop n)

/-- Convert one element. -/
def convElem (conv x : Nat) : Nat :=
  match conv with
  | 1 => bf16.round .rne false 0 (fp32.decode x)
  | 2 => fp16.round .rne false 0 (fp32.decode x)
  | 3 => fp32.round .rne false 0 (bf16.decode x)
  | 4 => fp32.round .rne false 0 (fp16.decode x)
  | 5 => bf16.round .rne false 0 (.ofInt x)
  | _ => e4m3.round .rne true 0 (fp32.decode x)

/-- Elements of a list of bytes. -/
def splitElems (w : Nat) : Nat → List Byte → List Nat
  | 0, _ => []
  | k + 1, bs => if bs.isEmpty then [] else natOfBytes (bs.take w) :: splitElems w k (bs.drop w)

/-- The SWAP and CONV stages on source bytes. -/
def CopyCmd.stages (c : CopyCmd) (bs : List Byte) : List Byte :=
  let bs := if c.swap = 0 then bs else swapBytes c.swapUnit bs.length bs
  if c.conv = 0 then bs
  else (splitElems c.inW bs.length bs).flatMap fun x => bytesOfNat c.outW (convElem c.conv x)

/-- Source bytes of a row: from the footprint, from memory, or zero. -/
def State.copySource (s : State) (t : Nat) (c : CopyCmd) (row off n : Nat) : Sum MErr (List Byte) :=
  let a := c.srcAddr + row * c.srcStep + off
  if c.zfill then .inr (List.replicate n 0)
  else if c.srcSp then
    (match (List.range n).find? fun k => s.scratchBad t (a + k) with
    | some k => .inl { cause := 0x143, vaddr := a + k }
    | none => .inr ((List.range n).map fun k => (s.team t).scratchByte (a + k)))
  else s.engRead (s.pidOf t) (s.team t).rev a n

/-- The source rows of a TRANS command through the earlier stages. -/
def State.copyRows (s : State) (t : Nat) (c : CopyCmd) : Nat → Nat → Sum MErr (List (List Byte))
  | 0, _ => .inr []
  | n + 1, row =>
    match s.copySource t c row 0 c.rowBytes with
    | .inl e => .inl e
    | .inr bs => match s.copyRows t c n (row + 1) with
      | .inl e => .inl e
      | .inr rest => .inr (c.stages bs :: rest)

/-- Destination row `j` of a TRANS command: element `j` of every source row in order. -/
def transRow (w j : Nat) (rows : List (List Byte)) : List Byte := rows.flatMap fun r => (r.drop (j * w)).take w

/-- Granules of a footprint write whose last write by the command is this one: no later bytes of the destination touch them
(R350). -/
def CopyCmd.lastGranules (c : CopyCmd) (row a n : Nat) (rowEnds : Bool) : List Nat :=
  ((List.range ((a + n - 1) / 16 + 1 - a / 16)).map (a / 16 + ·)).filter fun g =>
    (rowEnds || decide (16 * g + 16 ≤ a + n)) &&
    !(List.range c.dstRows).any fun r =>
      let b := c.dstAddr + r * c.dstStep
      decide (row < r) && decide (b < 16 * g + 16) && decide (16 * g < b + c.dstLen)

/-- Write destination bytes of a row at an offset: to the reserved ring slot, the footprint, or memory. -/
def State.copyPut (s : State) (t : Nat) (c : CopyCmd) (slot row off : Nat) (bs : List Byte) : Sum MErr State :=
  if c.ring then
    match (s.team t).rings.getD (bitsOf c.dst 0 3) none with
    | none => .inr s
    | some r => .inr (s.storeScratch t (r.base + slot * r.slotBytes + row * c.dstLen + off) bs false)
  else
    let a := c.dstAddr + row * c.dstStep + off
    if c.dstSp then
      let gs := c.lastGranules row a bs.length (decide (c.dstLen ≤ off + bs.length))
      .inr ((s.storeScratch t a bs false).modTeam t (·.fill gs))
    else s.engWrite (s.pidOf t) (s.team t).rev a bs

/-- Write the rows of a TRANS command. -/
def State.copyPutRows (s : State) (t : Nat) (c : CopyCmd) (slot : Nat) (rows : List (List Byte)) : Nat → Nat → Sum MErr State
  | 0, _ => .inr s
  | n + 1, j =>
    match s.copyPut t c slot j 0 (transRow c.outW j rows) with
    | .inl e => .inl e
    | .inr s => s.copyPutRows t c slot rows n (j + 1)

/-! ## Errors, faults, status (R349, R354) -/

/-- The CODE of a cause. -/
def copyCode (c : Cause) : Nat :=
  if c = 0x04C then 2 else if c = 0x148 then 5 else if c.toNat / 64 = 5 then 4 else 3

/-- What keeps a channel from writing STATUS of a command. -/
def State.statusErr (s : State) (t addr : Nat) : Option MErr :=
  let tm := s.team t
  if tm.rev ≠ 0 ∧ (s.findRev tm.rev).isNone then none else s.engWriteErr (s.pidOf t) (addr + 0x1C) 4

/-- The window of another channel that STATUS of a command waits for (R352: a request from any requester). -/
def State.statusHeld (s : State) (k ch t addr : Nat) : Option (Nat × Nat) := s.heldByOther (s.pidOf t) (addr + 0x1C) 4 k ch

/-- Write STATUS of a command: a relaxed write at home in the team's revision. -/
def State.copyStatus (s : State) (t addr code rows : Nat) : State :=
  let tm := s.team t
  if tm.rev ≠ 0 ∧ (s.findRev tm.rev).isNone then s
  else match s.engWrite (s.pidOf t) tm.rev (addr + 0x1C) (bytesOfNat 4 (2 ^ 31 + at_ (code % 256) 16 + rows % 2 ^ 16)) with
    | .inl _ => s
    | .inr s => s

/-- A command fails: STATUS, ERROR, the window disarms, and the cause is raised in the owning team. While STATUS waits on a window the
command stays, and fails again at its next turn. -/
def State.chanError (s : State) (k ch t addr : Nat) (e : MErr) : State :=
  let h := (s.core k).chan ch
  match s.statusHeld k ch t addr with
  | some w => s.modChan k ch fun h => { h with st := if h.st == .faulted then h.before else h.st, heldOn := some w }
  | none =>
  let s := s.copyStatus t addr (copyCode e.cause) h.row
  let s := s.modChan k ch fun h => { h with st := .error, cmd := none, heldOn := none, withdrawn := false }
  (s.disarm k ch).engineCause t { e with vaddr := if e.vaddr = 0 then addr else e.vaddr }

/-- A failure of a channel: a translation fault with the fault service enabled parks the channel (R354), any other ends it. -/
def State.chanFail (s : State) (k ch t addr : Nat) (e : MErr) : State :=
  let pid := s.pidOf t
  if e.serviceable && (s.part pid).fltEnable then
    let r : Raise := { cause := e.cause, stream := 4, group := 0xFE, vaddr := e.vaddr, serviceable := true, kind := e.kind }
    let p : Pending := { part := pid, who := .chan k ch, ctx := .c t, raise := r }
    { (s.modChan k ch fun h => { h with st := .faulted, before := h.st }) with pending := s.pending ++ [p] }
  else s.chanError k ch t addr e

/-! ## cpy, chkick (09 R209, R340, R341) -/

/-- Whether a channel belongs to another team. -/
def Chan.foreign (h : Chan) (t : Nat) : Bool := h.owner.isSome && h.owner != some t

def execCpy (a b : BitVec 6) (s : State) : Outcome :=
  cWord s fun s t =>
    let tm := s.team t
    let addr := (tm.cReg a).toNat
    let ch := (tm.cReg b).toNat
    if addr % 32 ≠ 0 then s.errEff { cause := 0x0C1, vaddr := addr }
    else if 8 ≤ ch then s.trapWith 0x041
    else
      let h := (s.core tm.core).chan ch
      if h.foreign t then s.trapWith 0x041
      else match h.st with
        | .idle => .done (s.modChan tm.core ch fun h => { h with st := .linked, fetch := addr, owner := some t })
        | .error => s.trapWith 0x04D
        | _ => if h.next.isSome then s.trapWith 0x04D
          else .done (s.modChan tm.core ch fun h => { h with next := some addr })

def execChkick (a : BitVec 6) (s : State) : Outcome :=
  cWord s fun s t =>
    let tm := s.team t
    let ch := (tm.cReg a).toNat
    if 8 ≤ ch then s.trapWith 0x041
    else
      let h := (s.core tm.core).chan ch
      if h.foreign t then s.trapWith 0x041
      else if h.st == .linked then
        .done ((s.releaseCore tm.core).modChan tm.core ch fun h => { h with st := .running })
      else .done s

/-! ## The events of a channel (R341 to R351) -/

/-- Run a step of the command in progress of channel `ev.ch` of core `ev.core`, when it has opcode `op` and its writes are not
all made. -/
def State.chanStep (s : State) (op : Nat) (f : State → Nat → Nat → Nat → Chan → CopyCmd → State) : State :=
  let k := s.ev.core
  let ch := s.ev.ch
  let h := (s.core k).chan ch
  match h.cmd, h.owner with
  | some c, some t =>
    if (h.st == .running || h.st == .waiting) && c.op == op && !h.written && !h.ending then f s k ch t h c else s
  | _, _ => s

/-- The event COPY_COMMAND_FETCH: an acquire at device scope at the home L2, then the checks (R341, R345). -/
def State.chanFetch (s : State) (k ch : Nat) : State :=
  let h := (s.core k).chan ch
  match h.st == .running && h.cmd.isNone && !h.ending, h.owner with
  | true, some t =>
    if h.withdrawn then s.chanError k ch t h.fetch { cause := 0x148 }
    else match s.heldByOther (s.pidOf t) h.fetch 32 k ch with
    | some w => s.modChan k ch fun x => { x with heldOn := some w }
    | none =>
      match s.engRead (s.pidOf t) (s.team t).rev h.fetch 32 with
      | .inl e => s.chanFail k ch t h.fetch e
      | .inr bs =>
        let c := parseCopy h.fetch bs
        let s := (s.engTouch (s.pidOf t) (s.team t).rev h.fetch 32).modChan k ch fun h =>
          { h with heldOn := none, cmd := some c, fetch := h.fetch + 32, row := 0, pos := 0, acquired := false, lines := [], ringSlot := none,
                   written := false, st := if c.op = 1 then .waiting else .running }
        if c.bad h (s.team t) (s.inst (s.team t).inst).image.scratchBytes then
          s.chanError k ch t c.addr { cause := 0x04C, vaddr := c.addr }
        else s
  | _, _ => s

def execCopyCommandFetch (s : State) : Outcome := .next (s.chanFetch s.ev.core s.ev.ch)

/-- The acquire of a COPY before its first read (R347). -/
def State.copyAcquire (s : State) (k ch : Nat) (c : CopyCmd) : State :=
  if c.flag 4 then
    ((s.releaseCore k).acquireAt k c.scope).modChan k ch fun h => { h with acquired := true }
  else s

/-- Reserve the tail slot of a ring destination; none while every slot is filled or reserved (R350). -/
def State.copyReserve (s : State) (k ch t : Nat) (h : Chan) (c : CopyCmd) : Option State :=
  if !c.ring ∨ h.ringSlot.isSome then some s
  else
    let n := bitsOf c.dst 0 3
    match (s.team t).rings.getD n none with
    | none => some s
    | some r =>
      if r.count ≤ r.f + r.heldPop + r.resv + r.engine ∨ (s.team t).pubsOf n ≠ 0 then none
      else
        let slot := (r.tail + r.engine) % r.count
        some ((s.modTeam t fun tm => { tm with rings := setAt none tm.rings n (some { r with engine := r.engine + 1 }) }).modChan k ch
          fun h => { h with ringSlot := some slot })

/-- The next destination segment of the current row: to the next multiple of 65,536 bytes of the row, or to its end (R353). -/
def CopyCmd.segEnd (c : CopyCmd) (pos : Nat) : Nat := min c.dstLen ((pos / 65536 + 1) * 65536)

/-- The window of another channel a segment waits for. -/
def State.copyHeld (s : State) (k ch t row pos : Nat) (c : CopyCmd) : Option (Nat × Nat) :=
  let pid := s.pidOf t
  let q := c.segEnd pos
  let src := if c.zfill ∨ c.srcSp then none
    else if c.trans then s.heldByOther pid c.srcAddr (c.srcEnd - c.srcAddr) k ch
    else s.heldByOther pid (c.srcAddr + row * c.srcStep + pos / c.outW * c.inW) ((q - pos) / c.outW * c.inW) k ch
  let dst := if c.ring ∨ c.dstSp then none
    else if c.trans then s.heldByOther pid c.dstAddr (c.dstEnd - c.dstAddr) k ch
    else s.heldByOther pid (c.dstAddr + row * c.dstStep + pos) (q - pos) k ch
  src <|> dst

/-- Record the lines a segment wrote and its progress. -/
def State.copyAdvance (s : State) (k ch t : Nat) (h : Chan) (c : CopyCmd) : State :=
  let q := c.segEnd h.pos
  let lines :=
    if c.ring ∨ c.dstSp then []
    else if c.trans then s.engLines (s.pidOf t) c.dstAddr (c.dstEnd - c.dstAddr)
    else s.engLines (s.pidOf t) (c.dstAddr + h.row * c.dstStep + h.pos) (q - h.pos)
  let rowDone := c.trans || decide (c.dstLen ≤ q)
  let row := if c.trans then c.rows else if rowDone then h.row + 1 else h.row
  s.modChan k ch fun x =>
    { x with lines := x.lines ++ lines, row := row, pos := if rowDone then 0 else q, written := decide (c.rows ≤ row), heldOn := none }

/-- Whether the copy unit can serve a channel: it has a row to move, a ring slot for it, and no window holds it. -/
def State.copyReady (s : State) (k ch : Nat) : Bool :=
  let h := (s.core k).chan ch
  match h.cmd, h.owner with
  | some c, some t =>
    h.st == .running && c.op == 0 && !h.written && !h.ending && (s.copyReserve k ch t h c).isSome &&
    (h.withdrawn || (s.copyHeld k ch t h.row h.pos c).isNone)
  | _, _ => false

/-- The channel the copy unit of a core serves next: one within a row goes on; else the first ready one in rotation after the channel
served last (R339; log 97). -/
def State.copyPick (s : State) (k : Nat) : Option Nat :=
  let ready := (List.range 8).filter fun ch => s.copyReady k ch
  match ready.find? fun ch => ((s.core k).chan ch).pos != 0 with
  | some ch => some ch
  | none => ((List.range 8).map fun j => ((s.core k).lastChan + 1 + j) % 8).find? fun ch => ready.contains ch

/-- The source bytes a step of a COPY has read close their accumulators (11 R283). -/
def State.copyTouch (s : State) (t : Nat) (h : Chan) (c : CopyCmd) : State :=
  let pid := s.pidOf t
  let rev := (s.team t).rev
  if c.zfill ∨ c.srcSp then s
  else if c.trans then (List.range c.rows).foldl (fun (s : State) row => s.engTouch pid rev (c.srcAddr + row * c.srcStep) c.rowBytes) s
  else s.engTouch pid rev (c.srcAddr + h.row * c.srcStep + h.pos / c.outW * c.inW) ((c.segEnd h.pos - h.pos) / c.outW * c.inW)

/-- One step of a COPY when the unit serves its channel: a destination segment of a row through the stages, or the whole of a TRANS
command. -/
def State.copyStep (s : State) (k ch t : Nat) (h : Chan) (c : CopyCmd) : State :=
  if s.copyReady k ch && s.copyPick k != some ch then s
  else match s.copyReserve k ch t h c with
  | none => s
  | some s =>
    let s := if h.acquired then s else s.copyAcquire k ch c
    if h.withdrawn then s.chanError k ch t c.addr { cause := 0x148 }
    else match s.copyHeld k ch t h.row h.pos c with
    | some w => s.modChan k ch fun x => { x with heldOn := some w }
    | none =>
      let slot := (((s.core k).chan ch).ringSlot).getD 0
      let r : Sum MErr State :=
        if c.trans then
          (match s.copyRows t c c.rows 0 with
          | .inl e => .inl e
          | .inr rows => s.copyPutRows t c slot rows c.dstRows 0)
        else
          let q := c.segEnd h.pos
          (match s.copySource t c h.row (h.pos / c.outW * c.inW) ((q - h.pos) / c.outW * c.inW) with
          | .inl e => .inl e
          | .inr bs => s.copyPut t c slot h.row h.pos (c.stages bs))
      match r with
      | .inl e => s.chanFail k ch t c.addr e
      | .inr s => ((s.copyTouch t h c).copyAdvance k ch t h c).modCore k fun x => { x with lastChan := ch }

def execCopy (s : State) : Outcome := .next (s.chanStep 0 fun s k ch t h c => s.copyStep k ch t h c)

/-- The event WAIT: the counter is read at home; the read that succeeds is an acquire with ACQ (R348). -/
def State.waitStep (s : State) (k ch t : Nat) (h : Chan) (c : CopyCmd) : State :=
  if h.withdrawn then s.chanError k ch t c.addr { cause := 0x148 }
  else match s.heldByOther (s.pidOf t) c.srcAddr 8 k ch with
  | some w => s.modChan k ch fun x => { x with heldOn := some w }
  | none =>
    match s.engRead (s.pidOf t) (s.team t).rev c.srcAddr 8 with
    | .inl e => s.chanFail k ch t c.addr e
    | .inr bs =>
      let s := (s.engTouch (s.pidOf t) (s.team t).rev c.srcAddr 8).modChan k ch fun x => { x with heldOn := none }
      if natOfBytes bs < c.dst then s
      else (if c.flag 4 then s.acquireAt k c.scope else s).modChan k ch fun h => { h with written := true, st := .running }

def execWait (s : State) : Outcome := .next (s.chanStep 1 fun s k ch t h c => s.waitStep k ch t h c)

/-- The event COPY_POST: an atomic add at the home of the counter, a release at SCOPE with REL (R348). -/
def State.postStep (s : State) (k ch t : Nat) (h : Chan) (c : CopyCmd) : State :=
  let pid := s.pidOf t
  if h.withdrawn then s.chanError k ch t c.addr { cause := 0x148 }
  else match s.heldByOther pid c.srcAddr 8 k ch with
  | some w => s.modChan k ch fun x => { x with heldOn := some w }
  | none =>
    match s.engTranslate pid c.srcAddr .atomic with
    | .inl e => s.chanFail k ch t c.addr e
    | .inr pa =>
      match s.engTargetFail (s.team t).rev c.srcAddr pa with
      | some x => s.chanFail k ch t c.addr (engFail x c.srcAddr pa .atomic)
      | none =>
        let s := if c.flag 5 then s.releaseAt k c.scope else s
        match s.counterAdd pid (s.team t).rev c.srcAddr (BitVec.ofNat 64 c.dst) with
        | .inl _ => s
        | .inr s => s.modChan k ch fun h => { h with written := true, heldOn := none }

def execCopyPost (s : State) : Outcome := .next (s.chanStep 2 fun s k ch t h c => s.postStep k ch t h c)

def execLink (s : State) : Outcome :=
  .next (s.chanStep 3 fun s k ch _ _ c => s.modChan k ch fun h => { h with fetch := c.srcAddr, written := true })

/-- The chain ends: the channel continues at NEXT, with the write-back of R341, or becomes IDLE (R340). -/
def State.chainEnd (s : State) (k ch : Nat) (h : Chan) : State :=
  match h.next with
  | some a => (s.releaseCore k).modChan k ch fun h => { h with cmd := none, fetch := a, next := none }
  | none => s.modChan k ch fun h => { h with cmd := none, st := .idle, owner := none }

/-- A channel writes STATUS of its command, and goes on with `k`: it waits on another channel's window, and an address it cannot write
is a failure of the command (R349, R352, R354). -/
def State.withStatus (s : State) (k ch t : Nat) (h : Chan) (c : CopyCmd) (go : State → State) : State :=
  if h.withdrawn then s.chanError k ch t c.addr { cause := 0x148 }
  else match s.statusHeld k ch t c.addr, s.statusErr t c.addr with
    | some w, _ => s.modChan k ch fun x => { x with heldOn := some w }
    | none, some e => s.chanFail k ch t c.addr e
    | none, none => go (s.modChan k ch fun x => { x with heldOn := none })

def execStop (s : State) : Outcome :=
  .next (s.chanStep 4 fun s k ch t h c => s.withStatus k ch t h c fun s => (s.copyStatus t c.addr 0 0).chainEnd k ch h)

/-- Lines of a window leave every L1 of the partition (R351). -/
def State.flushWindow (s : State) (pid base len : Nat) : State :=
  let mine (b : L1Byte) : Bool := b.pid == pid && decide (lineOf b.va < base + len) && decide (base < lineOf b.va + 128)
  let s' := s.writeBackAll (s.l1.filter fun b => mine b && b.dirty)
  { s' with l1 := s'.l1.filter fun b => !mine b }

/-- The event ARM: sets the window with DONE 0, or disarms it with length 0 (R351, R352). -/
def State.armStep (s : State) (k ch t : Nat) (c : CopyCmd) : State :=
  if c.shape = 0 then (s.disarm k ch).modChan k ch fun h => { h with written := true }
  else
    (s.flushWindow (s.pidOf t) c.srcAddr c.shape).modChan k ch fun h =>
      { h with wmBase := c.srcAddr, wmLen := c.shape, wmDone := 0, armed := true, wmTeam := t, written := true }

def execArm (s : State) : Outcome := .next (s.chanStep 5 fun s k ch t _ c => s.armStep k ch t c)

/-! ## Completion (R347, R349 to R351, R342) -/

/-- The release of a COPY: its lines leave the owning core's L1 where clean, then the release at SCOPE (R347). -/
def State.copyRelease (s : State) (k : Nat) (h : Chan) (c : CopyCmd) : State :=
  if c.flag 5 then
    ({ s with l1 := s.l1.filter fun b => !(b.core == k && !b.dirty && h.lines.contains (lineOf b.pa)) }).releaseAt k c.scope
  else s

/-- Reserved slots become filled in reservation order (R350). -/
def Ring.publish (r : Ring) : Nat → Ring
  | 0 => r
  | n + 1 =>
    if r.engine ≠ 0 ∧ r.fillsDone.contains r.tail then
      ({ r with tail := (r.tail + 1) % r.count, f := r.f + 1, engine := r.engine - 1,
                fillsDone := r.fillsDone.erase r.tail }).publish n
    else r

/-- A completed ring destination. -/
def Ring.fillDone (r : Ring) (slot : Nat) : Ring := ({ r with fillsDone := r.fillsDone ++ [slot] }).publish r.count

/-- The barrier arrival of a COPY (R349): the CODE it completes with. -/
def State.copyArrive (s : State) (k : Nat) (c : CopyCmd) : State × Nat :=
  if bitsOf c.dst 56 1 = 0 then (s, 0)
  else
    let n := bitsOf c.dst 57 7
    let core := s.postCore k n
    match s.barrier core n with
    | none => (s, 1)
    | some b => (s.setBarrier core n b.arrive, 0)

/-- The end of a COPY: its release, ring slot, arrival and watermark; the CODE. -/
def State.copyFinish (s : State) (k ch t : Nat) (h : Chan) (c : CopyCmd) : State × Nat :=
  let s := s.copyRelease k h c
  let s := match c.ring, h.ringSlot with
    | true, some slot =>
      let n := bitsOf c.dst 0 3
      s.modTeam t fun tm => { tm with rings := setAt none tm.rings n ((tm.rings.getD n none).map (Ring.fillDone · slot)) }
    | _, _ => s
  let r := s.copyArrive k c
  (if c.flag 12 then r.1.modChan k ch fun h => { h with wmDone := max h.wmDone (c.dstEnd - h.wmBase) } else r.1, r.2)

/-- A channel of an ended team: the command in progress completes with CODE 5 and the channel is free (21 R476). -/
def State.chanWithdraw (s : State) (k ch : Nat) (h : Chan) : State :=
  let held := match h.cmd, h.owner with
    | some c, some t => s.statusHeld k ch t c.addr
    | _, _ => none
  if held.isSome then s
  else
  let s := match h.cmd, h.owner with
    | some c, some t => s.copyStatus t c.addr 5 h.row
    | _, _ => s
  let s := { s with pending := s.pending.filter fun p => p.who != FaultBy.chan k ch }
  (s.disarm k ch).modChan k ch fun _ => {}

/-- Completion of the command in progress. -/
def State.chanComplete (s : State) (k ch : Nat) : State :=
  let h := (s.core k).chan ch
  if h.ending then s.chanWithdraw k ch h
  else match h.cmd, h.owner with
    | some c, some t =>
      if h.st == .running && h.written then
        s.withStatus k ch t h c fun s =>
          let r := if c.op = 0 then s.copyFinish k ch t h c else (s, 0)
          (r.1.copyStatus t c.addr r.2 h.row).modChan k ch fun h => { h with cmd := none }
      else s
    | _, _ => s

/-- The event COPY_COMMAND_COMPLETION of channel `ch` of core `core`. -/
def execCopyCommandCompletion (s : State) : Outcome := .next (s.chanComplete s.ev.core s.ev.ch)

/-! ## Sensor ingress (R356, R357) -/

/-- Whether an ingress channel takes a frame: enabled, and its port and filter match. -/
def Ingress.takes (g : Ingress) (f : Frame) : Bool :=
  let w := g.src.toNat
  bitsOf w 31 1 == 1 && bitsOf w 0 6 == f.port.toNat &&
  (if f.port.toNat ≤ 11 then bitsOf w 22 6 == f.dataType.toNat && bitsOf w 18 4 == f.channel.toNat
   else bitsOf w (10 + f.priority % 8) 1 == 1)

/-- The 64 bytes of a frame's header. -/
def ingressHeader (k time bytes : Nat) (truncated error : Bool) : List Byte :=
  bytesOfNat 8 k ++ bytesOfNat 8 time ++ bytesOfNat 4 bytes ++ bytesOfNat 4 (flag truncated 0 + flag error 1) ++ List.replicate 40 0

/-- Lines of a physical range leave every L1. -/
def State.flushPhys (s : State) (pa n : Nat) : State :=
  let mine (b : L1Byte) : Bool := decide (lineOf b.pa < pa + n) && decide (pa < lineOf b.pa + 128)
  let s' := s.writeBackAll (s.l1.filter fun b => mine b && b.dirty)
  { s' with l1 := s'.l1.filter fun b => !mine b }

/-- An accepted frame is written to its buffer with header and counter post; the lines it writes are allocated in the channel's ways and
charged to its regulator (03 R77, 15 R360). -/
def State.ingressAccept (s : State) (n : Nat) (f : Frame) : State :=
  let g := s.ing n
  let k := g.frames
  let count := bitsOf g.buf.toNat 48 10
  let size := g.len.toNat
  let base := bitsOf g.buf.toNat 7 41 * 128 + k % count * size
  let body := f.payload.take (size - 64)
  let truncated := decide (size - 64 < f.payload.length)
  let s := s.flushPhys (base + 64) (size - 64)
  let s := s.physWrite (base + 64) body
  let s := s.writeRequests (.ingress n) base (64 + body.length) s.ev.n s.ev.ok
  let time := if f.port.toNat ≤ 11 then s.now else f.ptpStamp.toNat
  let s := s.physWrite base (ingressHeader k time body.length truncated f.crcError)
  let c := g.cnt.toNat
  let s := s.recall 1000 c
  let s := (s.memRequest (.ingress n) c true false s.ev.n s.ev.ok).physWrite c (bytesOfNat 8 (natOfBytes (s.homeBytes 0 c c 8) + 1))
  s.modIng n fun g => { g with frames := g.frames + 1, winBase := base + 64, winLen := size - 64 }

/-- Whether frame k of a channel may be accepted: k - ING_REL < COUNT, modulo 2^32 (R357). -/
def Ingress.roomFor (g : Ingress) : Bool :=
  decide ((BitVec.ofNat 32 g.frames - g.rel).toNat < bitsOf g.buf.toNat 48 10)

/-- A frame reaches a port: the lowest-numbered matching channel accepts or drops it; one that finds the port's buffer full is
dropped (15 R362). -/
def State.ingressFrame (s : State) (f : Frame) : State :=
  match (List.range 32).find? fun n => (s.ing n).takes f with
  | none => s
  | some n =>
    if !s.portFull f.port.toNat && (s.ing n).roomFor then s.ingressAccept n f
    else s.modIng n fun g => { g with drops := satInc16 g.drops }

/-- The event INGRESS_FRAME: the frame of `ev.frame`. -/
def execIngressFrame (s : State) : Outcome := .next (s.ingressFrame s.ev.frame)

end Sys2Proof.Machine
end

