-- ==== Sys2Proof/Machine/Dram.lean ====
section
/-!
DEFINITION. The events of the memory controllers (15 R361 to R365; Machine/Requests.lean) and the requests of software for page moves (22
R493).
-/
namespace Sys2Proof.Machine

/-- The event MEMORY_REQUEST: requester `who` asks for the sector of `pa`; `write` and `wide` when it writes it, and writes it whole; `n`
is the way the L2's policy chooses, `ok` says whether the row counts as open. -/
def execMemoryRequest (s : State) : Outcome :=
  .next (s.memRequest s.ev.who s.ev.pa s.ev.write s.ev.wide s.ev.n s.ev.ok)

def execRegulatorWindowStart (s : State) : Outcome := .next s.windowStart

/-- The event RFM_COMMAND at controller `chan`. -/
def execRfmCommand (s : State) : Outcome := .next (s.rfmCommand s.ev.chan)

/-- The event REFRESH_WINDOW_END of bank `bank` at controller `chan`: its counters are zero. -/
def execRefreshWindowEnd (s : State) : Outcome :=
  .next (s.modCtl s.ev.chan fun c => { c with acts := c.acts.filter (·.1 != s.ev.bank) })

/-! ## Page moves (22 R493) -/

/-- A MIG_REQ write with GO set: the move starts, or is refused for an absent package, a pinned-shared page or migration off. -/
def pageMove (s : State) (w : RegWrite) : State :=
  let s := s.w0Write 0x1310 w.bits w.mask
  let pa := bitsOf s.lodge.migReq.toNat 15 33 * 2 ^ 15
  let page := pa / 2 ^ 15
  let target := bitsOf s.lodge.migReq.toNat 1 2
  if !s.packageUp target || s.physTarget pa != .mem || s.lodge.migWindow == 0 || s.pinnedPage page then
    let s := { s with lodge.migReq := s.lodge.migReq ||| 0x20 }
    if s.pinnedPage page then s.notifyHot (page / 2) target 0 else s
  else { s with lodge.moves := [(page, target, true)] }

def execPageMoveRequest (s : State) : Outcome := .next (s.withWrite .pageMove pageMove)

end Sys2Proof.Machine
end

