-- ==== Sys2Proof/Machine/Tasks.lean ====
section
/-!
DEFINITION. Child tasks (19): `fork`, `join`, `revst` (09 R224, R225), the merge of a child's revision (19 R440 to R445), and the
words that end a handler or a team, `eret` and `kexit` (09 R226, R231).
-/
namespace Sys2Proof.Machine

/-! ## Region lists (R432) -/

/-- A parsed region list. -/
structure RegionList where
  reportMax : Nat
  report : Nat
  regions : List RevRegion
  deriving DecidableEq, Repr

/-- Field of a list of bytes. -/
def bytesField (bs : List Byte) (off n : Nat) : Nat := natOfBytes ((bs.drop off).take n)

/-- Entry `j` of a region list. -/
def regionOf (bs : List Byte) (j : Nat) : RevRegion :=
  { base := bytesField bs (16 + 16 * j) 8, bytes := bytesField bs (24 + 16 * j) 4, type := bytesField bs (28 + 16 * j) 1 }

/-- Whether an entry keeps its limits. -/
def RevRegion.ok (r : RevRegion) : Bool :=
  r.base % 128 == 0 && decide (r.base < 2 ^ 51) && r.bytes % 128 == 0 && decide (128 ≤ r.bytes) &&
  decide (r.bytes ≤ 64 * 2 ^ 20) && decide (r.base + r.bytes ≤ 2 ^ 51) && decide (r.type ≤ 11)

def RevRegion.disjoint (a b : RevRegion) : Bool := decide (a.base + a.bytes ≤ b.base) || decide (b.base + b.bytes ≤ a.base)

/-- Whether no two regions of a list overlap. -/
def regionsDisjoint : List RevRegion → Bool
  | [] => true
  | r :: rs => rs.all r.disjoint && regionsDisjoint rs

/-- The list in its bytes; none when it is malformed (R432). -/
def parseRegions (bs : List Byte) : Option RegionList :=
  let n := bytesField bs 0 1
  let l : RegionList := { reportMax := bytesField bs 4 4, report := bytesField bs 8 8, regions := (List.range n).map (regionOf bs) }
  if decide (1 ≤ n) && decide (n ≤ 16) && bytesField bs 1 3 == 0 && decide (l.reportMax ≤ 65535) && l.report % 64 == 0 &&
      decide (l.report < 2 ^ 51) && !(l.reportMax != 0 && l.report == 0) &&
      ((List.range n).all fun j => bytesField bs (29 + 16 * j) 3 == 0) && l.regions.all RevRegion.ok && regionsDisjoint l.regions then
    some l
  else none

/-- Lines a fork reserves (R437). -/
def RegionList.lines (l : RegionList) : Nat := 2 * (l.regions.map (·.bytes)).sum / 128

/-! ## fork (09 R224) -/

/-- Children no `join` has named. -/
def Team.unjoined (tm : Team) : Nat := (tm.children.filter fun c => !c.joined).length

/-- Create the child of a fork (R435, R438, R439): the release, the reservation, the revision, the team record, and the agents'
decision that may place it. -/
def State.createChild (s : State) (t idx listAddr : Nat) (r : LoopRec) (l : RegionList) : State :=
  let tm := s.team t
  let pid := s.pidOf t
  let child := s.teams.length
  let handle : W64 := BitVec.ofNat 64 (tm.forkCount + 1)
  let s := s.releaseCore tm.core
  let s := s.modPart pid fun p => { p with revFree := p.revFree - l.lines }
  let rv : Revision := { id := s.nextId, parent := tm.rev, pid := pid, inst := tm.inst, regions := l.regions,
                         reserved := l.lines, report := l.report, reportMax := l.reportMax }
  let x : Team := { inst := tm.inst, copy := tm.copy, linear := tm.linear, tx := tm.tx, ty := tm.ty, tz := tm.tz, status := .waiting,
                    launchRec := r, launchIdx := idx, firstCore := tm.firstCore, firstCluster := tm.firstCluster,
                    parent := some t, depth := tm.depth + 1, rev := s.nextId, c := [0, BitVec.ofNat 64 listAddr] }
  let c : Child := { handle := handle, team := child }
  let s := { s with revs := s.revs ++ [rv], nextId := s.nextId + 1 }
  let s := s.setTeam child x
  let s := s.modTeam t fun y => { y with forkCount := y.forkCount + 1, children := y.children ++ [c] }
  s.decideMask (s.inst tm.inst).card.clusterMask

/-- The region list at an address, read under R192: its header, then its entries. -/
def State.readList (s : State) (t va : Nat) : MRes (List Byte) :=
  match s.readUnits t va 2 with
  | .ok hd s =>
    let n := bytesField hd 0 1
    if n = 0 ∨ 16 < n then .ok hd s
    else match s.readUnits t (va + 16) (2 * n) with
      | .ok es s => .ok (hd ++ es) s
      | r => r
  | r => r

def execFork (d a b : BitVec 6) (s : State) : Outcome :=
  cWord s fun s t => s.inBound t <|
    let tm := s.team t
    let x := s.inst tm.inst
    let idx := bitsOf (tm.cReg b).toNat 0 16
    let va := (tm.cReg a).toNat
    if x.image.recordCount ≤ idx then s.trapWith 0x041
    else match s.readRecord t idx with
      | .inl e => s.errEff e
      | .inr r =>
        if !recordValid x.image 3 r then s.trapWith 0x041
        else if va % 16 ≠ 0 ∧ va < 2 ^ 51 then s.errEff { cause := 0x0C1, vaddr := va }
        else s.withMem t (s.readList t va) fun bs s' =>
          match parseRegions bs with
          | none => s'.trapWith 0x2C8
          | some l =>
            if 4 ≤ tm.depth ∨ 16 ≤ tm.unjoined ∨ 65535 ≤ tm.forkCount then s'.trapWith 0x2C9
            else
              let p := s'.part x.card.pid
              if bitsOf p.revCfg.toNat 0 1 = 0 ∨ p.revFree < l.lines then
                let s' := s'.modPart x.card.pid fun p => { p with revFailed := satInc16 p.revFailed }
                (s'.modTeam t (·.setC d 0)).passCheckpoint t
              else
                let handle : W64 := BitVec.ofNat 64 (tm.forkCount + 1)
                ((s'.createChild t idx va r l).modTeam t (·.setC d handle)).passCheckpoint t

/-! ## Merge (R440 to R445) -/

/-- The binary32 word of p + c − a (FADD). -/
def mergeSum (a p c : W32) : W32 :=
  BitVec.ofNat 32 (fp32.round .rne false 0 (sumVals .rne [fp32.decode p.toNat, fp32.decode c.toNat, (fp32.decode a.toNat).neg]))

/-- FMAX and FMIN. -/
def mergePick (f : Val → Val → Val) (p c : W32) : W32 :=
  BitVec.ofNat 32 (fp32.round .rne false 0 (f (fp32.decode p.toNat) (fp32.decode c.toNat)))

/-- The merged word of a type (R440). -/
def mergeWord (type : Nat) (a p c : W32) : W32 :=
  if c = a then p
  else match type with
    | 0 => p
    | 1 => c
    | 2 => p + c - a
    | 3 => mergeSum a p c
    | 4 => if p.slt c then c else p
    | 5 => if p.ult c then c else p
    | 6 => mergePick maxVal p c
    | 7 => if c.slt p then c else p
    | 8 => if c.ult p then c else p
    | 9 => mergePick minVal p c
    | 10 => (c &&& (c ^^^ a)) ||| (p &&& ~~~(c ^^^ a))
    | _ => if p = a then c else p

/-- Whether a word of a REPORT region is a conflict. -/
def mergeConflict (type : Nat) (a p c : W32) : Bool := type == 11 && c != a && p != a && p != c

/-- A conflict to report: address, the three words, region index. -/
structure Conflict where
  va : Nat
  a : W32
  p : W32
  c : W32
  region : Nat
  deriving DecidableEq, Repr

/-- The word at an offset of a line. -/
def wordAt (bs : List Byte) (off : Nat) : W32 := BitVec.ofNat 32 (natOfBytes ((bs.drop off).take 4))

/-- Merge the words of one line from word `k`, `n` words left; conflicts last first. -/
def State.mergeLine (s : State) (pid rev type region va pa : Nat) (anc : Option (List Byte)) (copy : List Byte) :
    Nat → Nat → List Conflict → State × List Conflict
  | 0, _, cs => (s, cs)
  | n + 1, k, cs =>
    let p : W32 := BitVec.ofNat 32 (natOfBytes (s.homeBytes rev (va + 4 * k) (pa + 4 * k) 4))
    let a := match anc with
      | some bs => wordAt bs (4 * k)
      | none => p
    let c := wordAt copy (4 * k)
    let r := mergeWord type a p c
    let s := if r = p then s else s.homeWriteBytes pid rev (va + 4 * k) (pa + 4 * k) (bytesOfNat 4 r.toNat)
    let e : Conflict := { va := va + 4 * k, a := a, p := p, c := c, region := region }
    s.mergeLine pid rev type region va pa anc copy n (k + 1) (if mergeConflict type a p c then e :: cs else cs)

/-- The lines of a region a child copied, in ascending address. -/
def insertLine (l : RevLine) : List RevLine → List RevLine
  | [] => [l]
  | x :: xs => if l.va < x.va then l :: x :: xs else x :: insertLine l xs

def Revision.linesOf (rv : Revision) (g : RevRegion) : List RevLine :=
  (rv.copies.filter fun l => decide (g.base ≤ l.va) && decide (l.va < g.base + g.bytes)).foldl (fun acc l => insertLine l acc) []

/-- All copied lines of a child with their region's index and type, in merge order. -/
def Revision.mergeLines (rv : Revision) : List (Nat × Nat × RevLine) :=
  rv.regions.zipIdx.flatMap fun g => (rv.linesOf g.1).map fun l => (g.2, g.1.type, l)

/-- What a merge has done so far: the conflicts, last first, and the failures, in order. -/
structure MergeAcc where
  s : State
  conflicts : List Conflict := []
  errs : List MErr := []

/-- Merge a list of lines for a joining team; a line that cannot be translated or is uncorrectable is left alone (R445; log 95:
a store line has the sector of its base). -/
def mergeAll (t : Nat) (rv : Revision) : List (Nat × Nat × RevLine) → MergeAcc → MergeAcc
  | [], m => m
  | (idx, type, l) :: ls, m =>
    let s := m.s
    match s.translate (s.team t).core none rv.pid l.va .write with
    | .inl e => mergeAll t rv ls { m with errs := m.errs ++ [e] }
    | .inr (pa, s) =>
      let anc := rv.ancestors.find? (·.va == l.va)
      let stored : Option Cause := if l.bad || anc.any (·.bad) then some 0x141 else none
      match stored <|> (List.range 4).findSome? (fun k => s.failAt rv.parent (l.va + 32 * k) (pa + 32 * k)) with
      | some c => mergeAll t rv ls { m with s := s, errs := m.errs ++ [{ cause := c, sector := if c.toNat / 64 = 5 then lineOf pa else 0 }] }
      | none =>
        let anc := anc.map (·.bytes)
        let r := s.mergeLine rv.pid rv.parent type idx l.va pa anc l.bytes 32 0 m.conflicts
        mergeAll t rv ls { m with s := r.1, conflicts := r.2 }

/-- The first of some addresses that a joining team cannot write. -/
def State.mergeMiss (s : State) (t pid : Nat) (vas : List Nat) : Option MErr :=
  vas.findSome? fun va => match s.translate (s.team t).core none pid va .write with
    | .inl e => some e
    | .inr _ => none

/-- The report bytes of a merge with a count of conflicts, 32 at a time. -/
def Revision.reportUnits (rv : Revision) (n : Nat) : List Nat :=
  if rv.report = 0 then [] else (List.range (2 + min n rv.reportMax)).map fun k => rv.report + 32 * k

/-- The first copied line, or unit of the report area, a merge cannot translate and that the fault service may repair (R445). -/
def State.mergeFault (s : State) (t : Nat) (rv : Revision) : Option MErr :=
  let n := (mergeAll t rv rv.mergeLines { s := s }).conflicts.length
  (s.mergeMiss t rv.pid (rv.mergeLines.map (·.2.2.va) ++ rv.reportUnits n)).filter (·.serviceable)

/-- The report area of a merge (R443). -/
def reportBytes (handle : W64) (cs : List Conflict) (room : Nat) : List Byte :=
  bytesOfNat 4 cs.length ++ bytesOfNat 4 (min cs.length room) ++ bytesOfNat 8 handle.toNat ++ List.replicate 48 0 ++
  (cs.take room).flatMap fun e =>
    bytesOfNat 8 e.va ++ bytesOfNat 4 e.a.toNat ++ bytesOfNat 4 e.p.toNat ++ bytesOfNat 4 e.c.toNat ++
    [BitVec.ofNat 8 e.region] ++ List.replicate 11 0

/-- Write the report area as the joining team; a byte that cannot be reached is not written. -/
def State.writeReport (s : State) (t rev va : Nat) : List Byte → State
  | [] => s
  | b :: bs =>
    match s.translate (s.team t).core none (s.pidOf t) va .write with
    | .inl _ => s.writeReport t rev (va + 1) bs
    | .inr (pa, s) => (s.homeWrite (s.pidOf t) rev va pa b).writeReport t rev (va + 1) bs

/-- Insert a conflict in ascending address. -/
def insertConflict (e : Conflict) : List Conflict → List Conflict
  | [] => [e]
  | x :: xs => if e.va < x.va then e :: x :: xs else x :: insertConflict e xs

/-- A raise at the join word a team waits at. -/
def State.joinRaise (s : State) (t : Nat) (e : MErr) : Raise :=
  { cause := e.cause, ctx := some (.c t), pc := (s.team t).ctrl.pc, lanes := 0xFFFFFFFF#32, sector := e.sector, vaddr := e.vaddr,
    serviceable := e.serviceable, kind := .write, time := s.now, reported := true }

/-- Apply a child's merge (R443): the lines, the report area, the log entry; the revision is dropped and its reservation
returned. Every line of uncorrectable data is reported (R445); the first failure is what the join raises. -/
def State.applyMerge (s : State) (t : Nat) (c : Child) : State × Option MErr :=
  match s.findRev (s.team c.team).rev with
  | none => (s, none)
  | some rv =>
    let s := s.releaseCore (s.team t).core
    let m := mergeAll t rv rv.mergeLines { s := s }
    let cs := m.conflicts.foldl (fun acc e => insertConflict e acc) []
    let errs := m.errs ++ (m.s.mergeMiss t rv.pid (rv.reportUnits cs.length)).toList
    let u := errs.foldl (fun (s : State) e => s.reportData t { cause := e.cause, sector := e.sector }) m.s
    let s := if rv.report = 0 then u else u.writeReport t (s.team t).rev rv.report (reportBytes c.handle cs rv.reportMax)
    let s := if cs.isEmpty then s
      else s.logInst (s.team t).inst { cause := 0x2C0, kind := 0, team := (s.team t).linear, data := c.handle.toNat }
    let s := s.modPart rv.pid fun p => { p with revFree := p.revFree + rv.reserved }
    let s := { s with revs := s.revs.filter (fun x => x.id != rv.id), l1 := s.l1.filter (fun b => b.rev != rv.id),
                      samp := s.samp.filter (fun b => b.rev != rv.id), accums := s.accums.filter (fun b => b.rev != rv.id) }
    let s := s.modTeam t fun x =>
      { x with children := x.children.map fun (y : Child) =>
          if y.handle = c.handle then ({ y with merged := true, conflicts := cs.length } : Child) else y }
    (s, errs.head?)

/-- The child whose merge a waiting join applies next: the first in fork order not applied, up to the handle joined (R441). -/
def Team.nextMerge (tm : Team) : Option Child :=
  match tm.ctrl.joining with
  | none => none
  | some h => (tm.children.find? fun c => !c.merged).bind fun c => if c.handle.toNat ≤ h then some c else none

/-- Whether the work of a retired child is complete: every raster command it submitted has completed (R443). -/
def State.mergeReady (s : State) (c : Child) : Bool :=
  c.retired && !s.clusters.any fun k => k.rasters.any fun r => r.team == c.team

/-- A merge for a waiting team. -/
def State.mergeStep (s : State) (t : Nat) (c : Child) : State :=
  match s.findRev (s.team c.team).rev with
  | none => s.modTeam t fun x => { x with children := x.children.map fun (y : Child) =>
      if y.handle = c.handle then ({ y with merged := true } : Child) else y }
  | some rv =>
    match (s.part rv.pid).fltEnable, s.mergeFault t rv with
    | true, some e => s.parkFault t (.c t) (s.joinRaise t e)
    | _, _ =>
      let r := s.applyMerge t c
      match r.2 with
      | none => r.1
      | some e => r.1.raise t { (r.1.joinRaise t e) with serviceable := false } 1 ((r.1.team t).ctrl.pc + 4)

/-- Whether a team waits at a join and may have merges applied: it runs in its active bank and is not parked on a fault. -/
def State.joinWaits (s : State) (t : Nat) : Bool :=
  (s.team t).status == .running && (s.team t).ctrl.waiting && !(s.team t).ctrl.parked

/-- The event MERGE for team `team`. -/
def execMerge (s : State) : Outcome :=
  let t := s.ev.team
  .next (if s.joinWaits t then
    match (s.team t).nextMerge with
    | some c => if s.mergeReady c then s.mergeStep t c else s
    | none => s
  else s)

/-! ## join, revst (09 R225) -/

/-- A joining team may give its slot to a child of its own that no agent has placed (R439). -/
def State.giveSlot (s : State) (t : Nat) : State :=
  let tm := s.team t
  if tm.signal == .none && (tm.children.any fun c => (s.team c.team).status == .waiting) && s.admits tm.core tm.inst [t] true then
    s.modTeam t fun x => { x with sent := .join, signal := .join }
  else s

/-- Wait for merges up to a handle. -/
def State.joinUpTo (s : State) (t h : Nat) : Eff :=
  .wait ((s.giveSlot t).modCtrl t fun k => { k with joining := some h })

def execJoin (d a : BitVec 6) (s : State) : Outcome :=
  cWord s fun s t =>
    let tm := s.team t
    match tm.children.find? fun c => c.handle == tm.cReg a && !c.joined with
    | none => s.trapWith 0x2C1
    | some c =>
      if c.merged then
        let s := s.modTeam t fun x =>
          { x with lastConflicts := c.conflicts,
                   children := x.children.map fun (y : Child) => if y.handle = c.handle then ({ y with joined := true } : Child) else y }
        .done ((s.acquireCore tm.core).modTeam t (·.setC d (BitVec.ofNat 64 c.conflicts)))
      else s.joinUpTo t c.handle.toNat

/-- State of a child as `revst` gives it. -/
def Child.code (c : Child) : Nat := if c.joined then 2 else if c.retired then 1 else 0

def execRevst (d a sel : BitVec 6) (s : State) : Outcome :=
  cWord s (bad := decide (2 < sel.toNat)) fun s t =>
    let tm := s.team t
    match sel.toNat with
    | 0 => match tm.children.find? fun c => c.handle == tm.cReg a with
      | none => s.trapWith 0x2C1
      | some c => .done (s.modTeam t (·.setC d (BitVec.ofNat 64 c.code)))
    | 1 => .done (s.modTeam t (·.setC d (BitVec.ofNat 64 ((s.part (s.pidOf t)).revFree * 128))))
    | _ => .done (s.modTeam t (·.setC d (BitVec.ofNat 64 tm.lastConflicts)))

/-! ## eret and kexit (09 R226, R231) -/

def execEret (s : State) : Outcome :=
  cWord s fun s t =>
    match (s.team t).handler with
    | none => s.trapWith 0x04B
    | some h => s.endSegment t fun s => .left (s.leaveHandler t h)

/-- A stopped record moves to ABORTED and its resume list is discarded; an M stream loses its unretired operations and counts as
having ended (R231). -/
def State.abortStopped (s : State) (c : Ctx) : State :=
  let s := s.modCtx c fun x => { (abortCtx x) with stopped := false, parked := false }
  match c with
  | .m t => (s.dropOps t).modTeam t fun x => { x with mEnded := true }
  | _ => s

/-- Contexts of a team stopped at a trap: the handler's, and those of held causes. -/
def Team.stoppedCtxs (tm : Team) : List Ctx :=
  match tm.handler with
  | none => []
  | some h => h.trapped.toList ++ tm.held.filterMap (·.ctx)

/-- Step 1 of the waits: every A and X record RETIRED or ABORTED, and no store, atomic or ring fill of the team still to be
performed. -/
def Team.axDone (tm : Team) : Bool :=
  tm.groups.all fun g => g.actx.idle && g.xctx.idle && g.actx.resume.isEmpty &&
    !g.outst.any fun o => o.kind == .store || o.kind == .atomic || o.kind == .ringPut

/-- Step 2: `mend` issued, or no M record ever issued, and no operation left. -/
def State.mDone (s : State) (t : Nat) : Bool :=
  ((s.team t).mEnded || (s.team t).mctx.run.isNone) && !s.hasOps t

/-- Step 4: every channel of the team IDLE or in ERROR. -/
def State.chansDone (s : State) (t : Nat) : Bool :=
  s.cores.all fun c => c.chans.all fun h => h.owner != some t || h.st == .idle || h.st == .error

def execKexit (s : State) : Outcome :=
  cWord s fun s t => s.endSegment t fun s =>
    let s := (s.team t).stoppedCtxs.foldl (fun s c => s.abortStopped c) s
    if !(s.team t).axDone || !s.mDone t then .wait s
    else if (s.team t).children.any fun c => !c.merged then s.joinUpTo t 65536
    else if !s.chansDone t then .wait s
    else
      let pc := (s.team t).ctrl.pc
      .goto (s.retireTeam t) pc

end Sys2Proof.Machine
end

