-- ==== Sys2Proof/Machine/Records.lean ====
section
/-!
DEFINITION. Records as the sequencers start and end them: the copy of a record's bodies into the loop buffer (05 R114, 07 R159,
R161) with the event RECORD_BODY_FETCH, the overrun of a bound (01 R39, R42, 07 R158) with the event ITER_BOUND_EXPIRY, and the
meaning of a reserved encoding.
-/
namespace Sys2Proof.Machine

/-! ## Reserved encodings (05 R134, R135) -/

/-- A decoding cause precedes every other cause of its word (00 R12, 05 R135). -/
def execReservedEncoding (cause : BitVec 10) (atWord : Nat) (s : State) : Outcome :=
  s.word [.c, .a, .x, .m] .done fun s => some { (s.raiseAt cause) with pc := s.iw.pc + 4 * atWord }

/-! ## The copy of the bodies (R114, R159) -/

/-- Fetch `n` units of 4 bytes from an address of a team's image, each as a code fetch (13 R326). -/
def State.fetchUnits (s : State) (t : Nat) : Nat → Nat → Sum (MErr × Nat) (List Nat × State)
  | 0, _ => .inr ([], s)
  | n + 1, va =>
    let tm := s.team t
    match s.translate tm.core none (s.pidOf t) va .fetch with
    | .inl e => .inl (e, va)
    | .inr (pa, s) =>
      match s.failAt tm.rev va pa with
      | some c => .inl ({ cause := c, sector := if c.toNat / 64 = 5 then sectorOf pa else 0, kind := .fetch }, va)
      | none =>
        let w := natOfBytes (s.homeBytes tm.rev va pa 4)
        match s.fetchUnits t n (va + 4) with
        | .inl e => .inl e
        | .inr (ws, s) => .inr (w :: ws, s)

/-- Words of 8 bytes from units of 4. -/
def pairUnits : List Nat → List W64
  | a :: b :: rest => BitVec.ofNat 64 (a + b * 2 ^ 32) :: pairUnits rest
  | _ => []

/-- Fetch a body of `len` words at word offset `off` of a context's section. -/
def State.fetchBody (s : State) (c : Ctx) (off len : Nat) : Sum (MErr × Nat) (List W64 × State) :=
  let m := c.stream == .m
  let va := (s.inst (s.team c.team).inst).image.codeAddr (streamCode c.stream) off (if m then 8 else 4)
  match s.fetchUnits c.team (if m then 2 * len else len) va with
  | .inl e => .inl e
  | .inr (ws, s) => .inr (if m then pairUnits ws else ws.map (BitVec.ofNat 64), s)

/-- Copy the three bodies of the record a context runs. -/
def State.copyBodies (s : State) (c : Ctx) (r : RecRun) : Sum (MErr × Nat) State :=
  match s.fetchBody c r.lr.proOff r.lr.proLen with
  | .inl e => .inl e
  | .inr (pro, s) => match s.fetchBody c r.lr.kerOff r.lr.kerLen with
    | .inl e => .inl e
    | .inr (ker, s) => match s.fetchBody c r.lr.epiOff r.lr.epiLen with
      | .inl e => .inl e
      | .inr (epi, s) => .inr (s.modRun c fun x => { x with pro := pro, ker := ker, epi := epi })

/-- A raise of a context that is found outside a word. -/
def State.ctxRaise (s : State) (c : Ctx) (pc : Nat) (e : MErr) : Raise :=
  { cause := e.cause, ctx := some c, stream := streamCode c.stream, pc := pc,
    lanes := match c with
      | .x t g => (s.group t g).live
      | _ => 0xFFFFFFFF#32
    sector := e.sector, vaddr := e.vaddr,
    regionPc := s.regionPc c, group := c.frameGroup, serviceable := e.serviceable, kind := e.kind, time := s.now }

/-- Address of the first word of the record a context runs. -/
def State.recordPc (s : State) (c : Ctx) (r : RecRun) : Nat :=
  (s.inst (s.team c.team).inst).image.codeAddr (streamCode c.stream)
    (if r.lr.proLen = 0 then r.lr.kerOff else r.lr.proOff) (if c.stream == .m then 8 else 4)

/-- Whether a context's record may leave ISSUED. An IDEMPOTENT record with no prologue waits for the context's earlier
accesses and operations (log 22). -/
def State.leavesIssued (s : State) (c : Ctx) : Bool :=
  s.teamIssues c.team && !s.dueFirst c.team && !(s.ctxState c).parked && !(s.ctxState c).stopped &&
  match c, (s.ctxState c).run with
  | .c _, _ => false
  | _, none => false
  | _, some r => r.st == .issued && (!r.pro.isEmpty || r.lr.proLen != 0 || !s.holdsBoundary c r)

/-- A record leaves ISSUED (02 R54): the check of a role-table entry against PREEMPT_LIMIT (21 R473), the zero-trip record,
then the copy. The span of the first iteration starts here (07 R160). A record under replay goes on at its kernel (20 R462). -/
def State.leaveIssued (s : State) (c : Ctx) (r : RecRun) : State :=
  if !s.iterOk r then
    let event := !(s.team c.team).fallback && (s.team c.team).handler.isNone &&
      (s.inst (s.team c.team).inst).card.nibble 0x204 == 4
    let s := s.raise c.team (s.ctxRaise c (s.recordPc c r) { cause := 0x204 }) 0 0
    if event then s.retireRun c else s
  else if r.total = 0 then s.retireRun c
  else match s.copyBodies c r with
    | .inl (e, va) => s.raise c.team (s.ctxRaise c va e) 0 0
    | .inr s =>
      let kernel := r.replayed || r.lr.proLen == 0
      s.modRun c fun x =>
        { x with st := if kernel then .kernel else .prologue, pos := 0, count := 0, sig := 0,
                 spanStart := if r.replayed then x.spanStart else s.cycle, late := x.late && r.replayed,
                 gen0 := if kernel then s.genOf c else x.gen0 }

/-- The event RECORD_BODY_FETCH for context `ctx`. -/
def execRecordBodyFetch (s : State) : Outcome :=
  let c := s.ev.ctx
  .next (if s.leavesIssued c then
    match (s.ctxState c).run with
    | some r => s.leaveIssued c r
    | none => s
  else s)

/-! ## The bound (01 R39, R42; 07 R158, R160) -/

/-- An overrun of the C stream, found between its checkpoints: 0x203 at the word it would issue next, or at the word that waits,
whose wait it ends. -/
def State.lateC (s : State) (t : Nat) : State :=
  if (s.team t).ctrl.parked || !s.overC t then s
  else (s.modCtrl t fun k => { k with late := true }).raiseOverC t

/-- An overrun of a record whose next word waits: 0x203 ends the wait (07 R158). -/
def State.lateRun (s : State) (c : Ctx) : State :=
  let x := s.ctxState c
  match x.run with
  | none => s
  | some r =>
    if !r.st.issues || !x.waiting || x.parked || x.stopped || !r.overBound s.cycle then s
    else
      let pc := match x.resume with
        | o :: _ => o.info.pc
        | [] => (s.inst (s.team c.team).inst).image.codeAddr (streamCode c.stream) (r.bodyOff + r.pos)
            (if c.stream == .m then 8 else 4)
      (s.modRun c fun y => { y with late := true }).raise c.team (s.ctxRaise c pc { cause := 0x203 }) (s.nextWord c r).2 0

/-- The event ITER_BOUND_EXPIRY for context `ctx`. -/
def execIterBoundExpiry (s : State) : Outcome :=
  .next (if !s.teamIssues s.ev.ctx.team then s
    else match s.ev.ctx with
      | .c t => s.lateC t
      | c => s.lateRun c)

end Sys2Proof.Machine
end

