-- ==== Sys2Proof/Machine/Raster.lean ====
section
/-!
DEFINITION. The Pergola tiler and raster (16 R369 to R383): `rast` (09 R210), tiling and lists, fragment generation, depth and
identity, batches and retirement, completion and the report, and the decisions `vdisc` and `vzout` (10 R260).
-/
namespace Sys2Proof.Machine

/-! ## rast (09 R210) -/

def execRast (a : BitVec 6) (s : State) : Outcome :=
  cWord s fun s t =>
    let tm := s.team t
    let addr := (tm.cReg a).toNat
    let k := clusterOf tm.core
    if isMCluster k then s.trapWith 0x04A
    else if addr % 64 ≠ 0 then s.errEff { cause := 0x0C1, vaddr := addr }
    else
      let rs := (s.cluster k).rasters
      if !rs.isEmpty && decide (Config.rasterQueue < rs.length) then .wait s
      else
        let r : Raster := { team := t, addr := addr }
        .done (s.modCluster k fun c => { c with rasters := rs ++ [r] })

/-! ## Exact coordinates -/

/-- A finite binary32 word as a multiple of 2^-149. -/
def fixW (w : W32) : Int :=
  match fp32.decode w.toNat with
  | .fin n m e => signedInt n m * 2 ^ (e + 149).toNat
  | _ => 0

/-- A whole number, and the sample of a pixel, as multiples of 2^-149. -/
def fixN (n : Nat) : Int := n * 2 ^ 149
def samplePos (x : Nat) : Int := (2 * x + 1) * 2 ^ 148

/-- A multiple of 2^-k as a value. -/
def fixVal (i : Int) (k : Nat) : Val := .fin (decide (i < 0)) i.natAbs (-(k : Int))

def isFinite32 (w : W32) : Bool :=
  match fp32.decode w.toNat with
  | .fin _ _ _ => true
  | _ => false

/-- Round a value to binary32 in RNE. -/
def toF32 (v : Val) : W32 := BitVec.ofNat 32 (fp32.round .rne false 0 v)

/-! ## Primitives (R374, R375) -/

/-- Word `k` of a primitive. -/
abbrev Prim := List W32
def Prim.w (p : Prim) (k : Nat) : W32 := p.getD k 0
def Prim.f (p : Prim) (k : Nat) : Int := fixW (Prim.w p k)

/-- (xb - xa)(py - ya) - (yb - ya)(px - xa). -/
def edgeFn (xa ya xb yb px py : Int) : Int := (xb - xa) * (py - ya) - (yb - ya) * (px - xa)

/-- Twice the area of a triangle. -/
def Prim.area (p : Prim) : Int :=
  edgeFn (Prim.f p 0) (Prim.f p 1) (Prim.f p 3) (Prim.f p 4) (Prim.f p 6) (Prim.f p 7)

/-- Whether a primitive is degenerate (R374). -/
def Prim.degenerate (p : Prim) (splat : Bool) : Bool :=
  let n := if splat then 8 else 9
  !((List.range n).all fun k => isFinite32 (Prim.w p k)) || (p.drop n).any (· != 0) ||
  (if splat then decide (Prim.f p 6 < 0) || decide (fixN 1 < Prim.f p 6) || decide (Prim.f p 7 < 0) else Prim.area p == 0)

/-- The key of a primitive (R375). -/
def Prim.key (p : Prim) (splat : Bool) : Int :=
  if splat then Prim.f p 2 else min (Prim.f p 2) (min (Prim.f p 5) (Prim.f p 8))

/-- Its box: min x, max x, min y, max y. -/
def Prim.box (p : Prim) (splat : Bool) : Int × Int × Int × Int :=
  if splat then (Prim.f p 0 - Prim.f p 7, Prim.f p 0 + Prim.f p 7, Prim.f p 1 - Prim.f p 7, Prim.f p 1 + Prim.f p 7)
  else
    (min (Prim.f p 0) (min (Prim.f p 3) (Prim.f p 6)), max (Prim.f p 0) (max (Prim.f p 3) (Prim.f p 6)),
     min (Prim.f p 1) (min (Prim.f p 4) (Prim.f p 7)), max (Prim.f p 1) (max (Prim.f p 4) (Prim.f p 7)))

/-- Whether a tile touches the box of a primitive. -/
def Prim.touches (p : Prim) (splat : Bool) (tx ty : Nat) : Bool :=
  let b := Prim.box p splat
  decide (b.1 ≤ fixN (32 * tx + 32)) && decide (fixN (32 * tx) ≤ b.2.1) &&
  decide (b.2.2.1 ≤ fixN (32 * ty + 32)) && decide (fixN (32 * ty) ≤ b.2.2.2)

/-- Insert a primitive index in list order. -/
def insertKey (ps : List Prim) (splat desc : Bool) (i : Nat) : List Nat → List Nat
  | [] => [i]
  | j :: js =>
    let a := Prim.key (ps.getD i []) splat
    let b := Prim.key (ps.getD j []) splat
    if (if desc then decide (b < a) else decide (a < b)) || (a == b && decide (i < j)) then i :: j :: js
    else j :: insertKey ps splat desc i js

/-- The list of a tile. -/
def tileList (ps : List Prim) (splat desc : Bool) (tx ty : Nat) : List Nat :=
  ((List.range ps.length).filter fun i =>
    !Prim.degenerate (ps.getD i []) splat && Prim.touches (ps.getD i []) splat tx ty).foldl
    (fun acc i => insertKey ps splat desc i acc) []

/-! ## Command fields (R372, R373) -/

def Raster.flag (r : Raster) (n : Nat) : Bool := bitsOf r.ctl n 1 == 1
def Raster.splat (r : Raster) : Bool := r.flag 0
def Raster.noDisc (r : Raster) : Bool := r.flag 2
def Raster.zfunc (r : Raster) : Nat := bitsOf r.ctl 4 3
def Raster.zwrite (r : Raster) : Bool := r.flag 7
def Raster.queue (r : Raster) : Nat := 12 + bitsOf r.ctl 8 2

/-- The tiles of TILE_RECT in row-major order. -/
def rectTiles (rect : Nat) : List (Nat × Nat) :=
  let x0 := bitsOf rect 0 8
  let y0 := bitsOf rect 8 8
  (List.range (bitsOf rect 24 8 + 1 - y0)).flatMap fun j => (List.range (bitsOf rect 16 8 + 1 - x0)).map fun i => (x0 + i, y0 + j)

/-- The limits of R372 and R373 on the 64 bytes of a command. -/
def rastOk (bs : List Byte) (groups : Nat) : Bool :=
  let f (off n : Nat) : Nat := natOfBytes ((bs.drop off).take n)
  let ctl := f 0x0C 4
  let rect := f 0x14 4
  let named := f 0x18 8 != 0 || f 0x20 8 != 0
  f 0 8 % 16 == 0 && decide (f 0 8 < 2 ^ 51) && decide (1 ≤ f 8 4) && decide (f 8 4 ≤ 16777215) &&
  decide (ctl < 2 ^ 12) && bitsOf ctl 1 1 == 0 && decide (bitsOf ctl 4 3 ≤ 5) && f 0x10 2 != 0 && decide (f 0x10 2 < 2 ^ groups) &&
  f 0x13 1 == 0 && decide (bitsOf rect 0 8 ≤ bitsOf rect 16 8) && decide (bitsOf rect 8 8 ≤ bitsOf rect 24 8) &&
  f 0x18 8 % 4 == 0 && decide (f 0x18 8 < 2 ^ 51) && f 0x20 8 % 4 == 0 && decide (f 0x20 8 < 2 ^ 51) &&
  f 0x28 4 % 4 == 0 && (!named || decide (128 * (bitsOf rect 16 8 + 1) ≤ f 0x28 4)) && decide (f 0x30 8 < 2 ^ 51) &&
  f 0x38 8 % 64 == 0 && decide (f 0x38 8 < 2 ^ 51) &&
  !(bitsOf ctl 4 3 != 0 && f 0x18 8 == 0) && !(bitsOf ctl 7 1 == 1 && bitsOf ctl 4 3 == 0)

/-- Whether a delivery queue may serve the raster (R373). -/
def Que.rasterOk (q : Que) : Bool := decide (5 ≤ q.depth) && (q.bind == .none || q.bind == .raster)

/-! ## Ending a command (R383, R391) -/

/-- The raster at the head of a cluster's commands. -/
def State.rasterHead (s : State) (k : Nat) : Option Raster := (s.cluster k).rasters.head?

def State.modRaster (s : State) (k : Nat) (f : Raster → Raster) : State :=
  s.modCluster k fun c => { c with rasters := match c.rasters with
    | [] => []
    | r :: rs => f r :: rs }

/-- The report area but for its counter. -/
def Raster.reportBytes (r : Raster) (code : Nat) : List Byte :=
  bytesOfNat 4 (2 ^ 31 + at_ code 16) ++ bytesOfNat 4 r.overs.length ++ bytesOfNat 4 r.degen ++ List.replicate 12 0 ++
  r.overs.flatMap fun o => bytesOfNat 4 (o.1 + at_ o.2.1 8 + at_ (min 65535 o.2.2) 16)

/-- What keeps the raster from writing a command's report (R383, 14 R352). -/
def State.rasterReportErr (s : State) (r : Raster) : Option MErr :=
  s.unitWriteErr (s.pidOf r.team) r.report (8 + (r.reportBytes 0).length)

/-- Write a command's report and post its counter; a part that cannot be reached is not written. -/
def State.rasterReport (s : State) (r : Raster) (code : Nat) : State :=
  let pid := s.pidOf r.team
  let rev := (s.team r.team).rev
  let s := match s.engWrite pid rev (r.report + 8) (r.reportBytes code) with
    | .inl _ => s
    | .inr s => s
  match s.counterAdd pid rev r.report 1 with
  | .inl _ => s
  | .inr s => s

/-- A command leaves the raster: with its report, unless it was malformed or its own read failed (log 94), and its cause in the
submitting team; then the cause of an overflow without SPILL_OK (R376). -/
def State.rasterEnd (s : State) (k : Nat) (r : Raster) (code : Nat) (e : Option MErr) : State :=
  let s := if code = 2 ∨ !r.bound then s else s.rasterReport r code
  let s := s.modCluster k fun c => { c with rasters := c.rasters.drop 1 }
  let s := match e with
    | some e => s.engineCause r.team e
    | none => s
  if r.overs.isEmpty || r.flag 10 then s else s.engineCause r.team { cause := 0x240, vaddr := r.addr }

/-- A failed access of the raster: a record of the fault service, or CODE 3 or 4. -/
def State.rasterFault (s : State) (k : Nat) (r : Raster) (e : MErr) : State :=
  s.unitFail (.raster k) (.c r.team) (s.pidOf r.team) 5 0xFD e fun s e =>
    match r.bound, s.heldBy (s.pidOf r.team) r.report (8 + (r.reportBytes 0).length) with
    | true, some w => s.hold (.unit (.raster k)) w
    | _, _ => s.rasterEnd k r (if e.cause.toNat / 64 = 5 then 4 else 3) (some e)

/-- Whether a unit works for a team (R371): the team runs, or has retired with work left in the unit (19 R443). -/
def TeamStatus.served (x : TeamStatus) : Bool := x == .running || x == .retired

/-- Whether the raster of a cluster may work for a command: its team is served and no fault of it is with the service (R371). -/
def State.rasterRuns (s : State) (k : Nat) (r : Raster) : Bool :=
  (s.team r.team).status.served && !(s.cluster k).thermalStop && !s.pending.any fun p => p.who == .raster k

/-- A turn of the raster of a cluster on its first command. -/
def State.rasterTurn (s : State) (k : Nat) (go : State → Raster → State) : State :=
  match s.rasterHead k with
  | none => s
  | some r =>
    if !s.rasterRuns k r then s
    else s.unitTurn (.raster k) (fun s e => s.rasterEnd k r 4 (some e)) fun s => go s r

/-! ## Starting a command (R375 to R377, R383) -/

/-- Read the primitives of a command. -/
def State.readRastPrims (s : State) (pid rev base : Nat) : Nat → Nat → Sum MErr (List Prim)
  | 0, _ => .inr []
  | n + 1, p =>
    match s.unitRead pid rev (base + 48 * p) 48 with
    | .inl e => .inl e
    | .inr bs => match s.readRastPrims pid rev base n (p + 1) with
      | .inl e => .inl e
      | .inr ps => .inr (((List.range 12).map fun k => BitVec.ofNat 32 (natOfBytes ((bs.drop (4 * k)).take 4))) :: ps)

/-- Tiles with a rank in the window: tile x, tile y, the window's primitives. -/
def windowTiles (r : Raster) (lists : List (Nat × Nat × List Nat)) : List (Nat × Nat × List Nat) :=
  (lists.map fun l => (l.1, l.2.1, (l.2.2.drop (256 * r.pass)).take 256)).filter fun l => !l.2.2.isEmpty

/-- The tiles of the `j`-th of `n` named groups. -/
def dealTiles (n j : Nat) (ts : List (Nat × Nat × List Nat)) : List (Nat × Nat × List Nat) :=
  (ts.zipIdx.filter fun x => x.2 % n == j).map (·.1)

/-- A command with its tiles dealt to groups. -/
def Raster.tiled (r : Raster) (ps : List Prim) (mask : Nat) : Raster :=
  let lists := (rectTiles r.rect).map fun t => (t.1, t.2, tileList ps r.splat (r.flag 3) t.1 t.2)
  let ts := windowTiles r lists
  let gs := maskGroups mask
  { r with
    started := true, prims := ps, degen := (ps.filter fun p => Prim.degenerate p r.splat).length,
    overs := (lists.filter fun l => decide (256 * r.pass + 256 < l.2.2.length)).map fun l => (l.1, l.2.1, l.2.2.length),
    groups := gs.zipIdx.map fun g => { group := g.1, tiles := dealTiles gs.length g.2 ts } }

/-- Bind a delivery queue to the raster with the command's attribute array (R369). -/
def Que.bindRaster (q : Que) (base stride : Nat) : Que := { q with bind := .raster, attrBase := base, attrStride := stride }

/-- The primitives of a command are read, and its tiles dealt (R374, R377). -/
def State.rasterPrims (s : State) (k : Nat) (r : Raster) : State :=
  let pid := s.pidOf r.team
  let rev := (s.team r.team).rev
  match s.readRastPrims pid rev r.primBase r.primCount 0 with
  | .inl e => s.rasterFault k r e
  | .inr ps => (s.engTouch pid rev r.primBase (48 * r.primCount)).modRaster k fun _ => r.tiled ps r.mask

/-- The event RASTER_COMMAND_START on cluster `cluster`: the command is read and binds its queues (R369), then its primitives are
read. -/
def State.rasterStart (s : State) (k : Nat) : State :=
  s.rasterTurn k fun s r =>
    let tm := s.team r.team
    let pid := s.pidOf r.team
    if r.started then s
    else if r.bound then s.rasterPrims k r
    else match s.unitRead pid tm.rev r.addr 64 with
      | .inl e => s.rasterFault k r e
      | .inr bs =>
        let f (off n : Nat) : Nat := natOfBytes ((bs.drop off).take n)
        let mask := f 0x10 2
        let r : Raster := { r with ctl := f 0x0C 4, pass := f 0x12 1, rect := f 0x14 4, depthBase := f 0x18 8, idBase := f 0x20 8,
                                   pitch := f 0x28 4, report := f 0x38 8, primBase := f 0 8, primCount := f 8 4, mask := mask,
                                   bound := true }
        let s := s.engTouch pid tm.rev r.addr 64
        if !rastOk bs tm.groups.length || !(maskGroups mask).all fun g => (Team.queue (tm.group g) r.queue).rasterOk then
          s.rasterEnd k r 2 (some { cause := 0x249, vaddr := r.addr })
        else
          let s := s.modTeam r.team fun tm => (maskGroups mask).foldl (fun (tm : Team) g =>
            tm.modGroup g (·.modQueue r.queue (·.bindRaster (f 0x30 8) (f 0x2C 4)))) tm
          (s.modRaster k fun _ => r).rasterPrims k r

def execRasterCommandStart (s : State) : Outcome := .next (s.rasterStart s.ev.cluster)

/-! ## Fragments (R378, R379) -/

/-- Whether an edge value covers a sample: positive, or zero on a top or left edge. -/
def edgeCovers (e dx dy : Int) : Bool :=
  decide (0 < e) || (e == 0 && (decide (0 < dy) || (dy == 0 && decide (dx < 0))))

/-- The fragment of a triangle at a pixel. -/
def triFrag (p : Prim) (cull : Bool) (prim x y : Nat) : Option Frag :=
  let px := samplePos x
  let py := samplePos y
  let x0 := Prim.f p 0
  let y0 := Prim.f p 1
  let x1 := Prim.f p 3
  let y1 := Prim.f p 4
  let x2 := Prim.f p 6
  let y2 := Prim.f p 7
  let e0 := edgeFn x1 y1 x2 y2 px py
  let e1 := edgeFn x2 y2 x0 y0 px py
  let e2 := edgeFn x0 y0 x1 y1 px py
  let a := e0 + e1 + e2
  if a < 0 ∧ cull then none
  else
    let g : Int := if a < 0 then -1 else 1
    if edgeCovers (g * e0) (g * (x2 - x1)) (g * (y2 - y1)) && edgeCovers (g * e1) (g * (x0 - x2)) (g * (y0 - y2)) &&
        edgeCovers (g * e2) (g * (x1 - x0)) (g * (y1 - y0)) then
      let v (i : Int) : Val := fixVal (g * i) 298
      let div (n : Val) : W32 := match n, v a with
        | .fin s m e, .fin s' m' e' => toF32 (divFin s m e s' m' e')
        | _, _ => 0
      let z (k : Nat) : Val := fp32.decode (Prim.w p k).toNat
      some { xy := BitVec.ofNat 32 (x + at_ y 16),
             depth := div (sumVals .rne [mulVal (v e0) (z 2), mulVal (v e1) (z 5), mulVal (v e2) (z 8)]),
             prim := BitVec.ofNat 32 prim, a := div (v e1), b := div (v e2) }
    else none

/-- An enclosure of e^(-m·2^e)·2^(p+k) at precision `p`, with k: e^-x = 2^-(k+1)·e^(ln 2 - r), x = k ln 2 + r. -/
def expNegBox (m : Nat) (e : Int) (p : Nat) : Nat × Nat × Nat :=
  let x := if 0 ≤ e + p then m * 2 ^ (e + p).toNat else m / 2 ^ (-(e + p)).toNat
  let l := ln2Fix p
  let k := x / l
  let r := expGo p (l - x % l) p 1 (2 ^ p) 0
  (r - 2 ^ 24, r + 2 ^ 24, k + 1)

/-- o × e^-x for a positive dyadic x = m·2^e below 2^7 and a positive o, as a value of 80 bits (R379). -/
def scaledExp (om : Nat) (oe : Int) (m : Nat) (e : Int) : Val :=
  let k := (expNegBox m e 256).2.2
  let box (p : Nat) : Nat × Nat :=
    let b := expNegBox m e p
    if b.2.2 < k then (om * b.1 * 2, om * b.2.1 * 2) else if k < b.2.2 then (om * b.1 / 2, om * b.2.1 / 2 + 1)
    else (om * b.1, om * b.2.1)
  (refine box doublings 256).scale (oe - k)

/-- α of a splat: o × e^(-Q/2) for Q ≥ 0. -/
def splatAlpha (o : W32) (q : Val) : W32 :=
  match fp32.decode o.toNat, q with
  | .fin _ om oe, .fin _ m e =>
    if m = 0 then o
    else if om = 0 then 0
    else if 7 < bitLen m + (e - 1) then 0
    else toF32 (scaledExp om oe m (e - 1))
  | _, _ => 0

/-- The fragment of a splat at a pixel (R379). -/
def splatFrag (p : Prim) (prim x y : Nat) : Option Frag :=
  let dx := samplePos x - Prim.f p 0
  let dy := samplePos y - Prim.f p 1
  let r := Prim.f p 7
  if r < dx.natAbs ∨ r < dy.natAbs then none
  else
    let v (k : Nat) : Val := fp32.decode (Prim.w p k).toNat
    let vx := fixVal dx 149
    let vy := fixVal dy 149
    let q := sumVals .rne [mulVal (v 3) (mulVal vx vx), mulVal (.ofInt 2) (mulVal (v 4) (mulVal vx vy)), mulVal (v 5) (mulVal vy vy)]
    if ltVal q .zero then none
    else
      let alpha := splatAlpha (Prim.w p 6) q
      if ltVal (fp32.decode alpha.toNat) (fp32.decode 0x3B800000) then none
      else
        let g := if q.isZero then 0 else toF32 ((q.scale (-1)).neg)
        some { xy := BitVec.ofNat 32 (x + at_ y 16), depth := Prim.w p 2, prim := BitVec.ofNat 32 prim, a := alpha, b := g }

/-- The fragments of a primitive in a tile, pixels in row-major order. -/
def primFrags (r : Raster) (tx ty i : Nat) : List Frag :=
  let p := r.prims.getD i []
  (List.range 1024).filterMap fun k =>
    let x := 32 * tx + k % 32
    let y := 32 * ty + k / 32
    if r.splat then splatFrag p i x y else triFrag p (r.flag 11) i x y

/-! ## Depth and identity (R380, R381) -/

/-- depth ZFUNC stored value; false for a NaN but under NONE and ALWAYS. -/
def zpass (zfunc : Nat) (d stored : W32) : Bool :=
  let x := fp32.decode d.toNat
  let y := fp32.decode stored.toNat
  match zfunc with
  | 0 => true
  | 5 => true
  | _ =>
    if x == .nan || y == .nan then false
    else match zfunc with
      | 1 => ltVal x y
      | 2 => ltVal x y || eqVal x y
      | 3 => ltVal y x
      | _ => ltVal y x || eqVal x y

/-- Index of a fragment's pixel in its tile buffer. -/
def Frag.pix (f : Frag) : Nat := bitsOf f.xy.toNat 0 16 % 32 + 32 * (bitsOf f.xy.toNat 16 16 % 32)

/-- Test a fragment with a depth against a group's tile buffer and write it when it passes: whether it passed. -/
def RastGroup.test (g : RastGroup) (r : Raster) (f : Frag) (depth : W32) : RastGroup × Bool :=
  let k := f.pix
  if zpass r.zfunc depth (g.depth.getD k 0) then
    ({ g with depth := if r.zwrite then setAt 0 g.depth k depth else g.depth,
              ids := if r.idBase = 0 then g.ids else setAt 0 g.ids k f.prim }, true)
  else (g, false)

/-- The hierarchical depth at tile start: the farthest loaded depth, NaN elements left out (log 26). -/
def farthest (zfunc : Nat) (ds : List W32) : Option W32 :=
  ds.foldl (fun best d =>
    if fp32.decode d.toNat == .nan then best
    else match best with
      | none => some d
      | some b => if zfunc ≤ 2 then (if ltVal (fp32.decode b.toNat) (fp32.decode d.toNat) then some d else some b)
        else (if ltVal (fp32.decode d.toNat) (fp32.decode b.toNat) then some d else some b)) none

/-- The fragments a tile delivers: tested at generation with NO_DISC, else only against H (R380). -/
def RastGroup.generate (g : RastGroup) (r : Raster) (tx ty : Nat) (prims : List Nat) : RastGroup :=
  let all := prims.flatMap fun i => primFrags r tx ty i
  if r.noDisc then
    all.foldl (fun (g : RastGroup) f =>
      let t := g.test r f f.depth
      if t.2 then { t.1 with frags := t.1.frags ++ [f] } else t.1) g
  else
    let h := if r.zfunc = 0 ∨ r.zfunc = 5 then none else farthest r.zfunc g.depth
    { g with frags := all.filter fun f => match h with
        | some d => zpass r.zfunc f.depth d
        | none => true }

/-- Whether a lane of a batch was discarded or given a depth. -/
def Batch.depthOf (b : Batch) (l : Nat) (f : Frag) : W32 := if b.zset.getLsbD l then lane b.zout l else f.depth

/-- A batch retires: under late testing its fragments are tested and written in lane order (R381). -/
def RastGroup.retire (g : RastGroup) (r : Raster) (b : Batch) : RastGroup :=
  if r.noDisc then g
  else b.frags.zipIdx.foldl (fun (g : RastGroup) f => if b.disc.getLsbD f.2 then g else (g.test r f.1 (b.depthOf f.2 f.1)).1) g

/-- Sources of the slots of a queue that its consumer has not passed for good. -/
def Que.liveSources (q : Que) : List Nat :=
  (List.range (q.f + q.heldPop)).map fun k =>
    (q.slots.getD ((q.head + q.depth - q.heldPop + k) % q.depth) {}).source

/-- Retire the batches whose slots have all been passed, in delivery order; a retired team has passed all. -/
def RastGroup.settle (g : RastGroup) (r : Raster) (q : Que) (retired : Bool) : RastGroup :=
  let done := g.batches.takeWhile fun b => retired || !q.liveSources.contains b.id
  let g := done.foldl (fun (g : RastGroup) b => g.retire r b) g
  { g with batches := g.batches.drop done.length }

/-! ## Tiles (R380, R381) -/

/-- Read the 1,024 elements of a tile of a surface, zero when there is none. -/
def State.readTile (s : State) (pid rev base pitch tx ty : Nat) : Sum MErr (List W32) :=
  if base = 0 then .inr (List.replicate 1024 0)
  else go 32 0
where
  go : Nat → Nat → Sum MErr (List W32)
    | 0, _ => .inr []
    | n + 1, y =>
      match s.unitRead pid rev (base + (32 * ty + y) * pitch + 128 * tx) 128 with
      | .inl e => .inl e
      | .inr bs => match go n (y + 1) with
        | .inl e => .inl e
        | .inr rest => .inr (((List.range 32).map fun k => BitVec.ofNat 32 (natOfBytes ((bs.drop (4 * k)).take 4))) ++ rest)

/-- The tile's elements of a surface close their accumulators (11 R283). -/
def State.tileTouch (s : State) (pid rev base pitch tx ty : Nat) : State :=
  if base = 0 then s
  else (List.range 32).foldl (fun (s : State) y => s.engTouch pid rev (base + (32 * ty + y) * pitch + 128 * tx) 128) s

/-- Write the elements of a tile to a surface at home. -/
def State.writeTile (s : State) (pid rev base pitch tx ty : Nat) (es : List W32) : Sum MErr State :=
  if base = 0 then .inr s
  else go 32 0 s
where
  go : Nat → Nat → State → Sum MErr State
    | 0, _, s => .inr s
    | n + 1, y, s =>
      match s.unitWrite pid rev (base + (32 * ty + y) * pitch + 128 * tx)
          (((List.range 32).map fun k => es.getD (32 * y + k) 0).flatMap fun w => bytesOfNat 4 w.toNat) with
      | .inl e => .inl e
      | .inr s => go n (y + 1) s

/-- A group's part of a raster. -/
def Raster.part (r : Raster) (g : Nat) : Option RastGroup := r.groups.find? (·.group == g)
def Raster.setPart (r : Raster) (x : RastGroup) : Raster :=
  { r with groups := r.groups.map fun y => if y.group = x.group then x else y }

/-- Start a group's next tile: load the buffers and generate its fragments. -/
def State.startTile (s : State) (k : Nat) (r : Raster) (x : RastGroup) : State :=
  match x.tiles with
  | [] => s
  | (tx, ty, ps) :: rest =>
    let pid := s.pidOf r.team
    let rev := (s.team r.team).rev
    match s.readTile pid rev r.depthBase r.pitch tx ty, s.readTile pid rev r.idBase r.pitch tx ty with
    | .inl e, _ => s.rasterFault k r e
    | _, .inl e => s.rasterFault k r e
    | .inr ds, .inr is =>
      let x : RastGroup := { x with tiles := rest, cur := some (tx, ty), depth := ds, ids := is }
      let s := (s.tileTouch pid rev r.depthBase r.pitch tx ty).tileTouch pid rev r.idBase r.pitch tx ty
      s.modRaster k fun r => r.setPart (x.generate r tx ty ps)

/-- Complete a group's current tile: its buffer goes to the surfaces. -/
def State.finishTile (s : State) (k : Nat) (r : Raster) (x : RastGroup) : State :=
  match x.cur with
  | none => s
  | some (tx, ty) =>
    let pid := s.pidOf r.team
    let rev := (s.team r.team).rev
    match s.writeTile pid rev r.depthBase r.pitch tx ty x.depth with
    | .inl e => s.rasterFault k r e
    | .inr s => match s.writeTile pid rev r.idBase r.pitch tx ty x.ids with
      | .inl e => s.rasterFault k r e
      | .inr s => s.modRaster k fun r => r.setPart { x with cur := none }

/-! ## Batches (R370, R377) -/

/-- The five slots of a batch. -/
def batchSlots (id : Nat) (noDisc : Bool) (fs : List Frag) : List QSlot :=
  let valid : W32 := mkMask fun l => decide (l < fs.length)
  let put (f : Frag → W32) : QSlot :=
    { lanes := mkLanes fun l => match fs[l]? with
        | some x => f x
        | none => 0
      valid := valid, source := id, noDisc := noDisc, stale := false }
  [put (·.xy), put (·.depth), put (·.prim), put (·.a), put (·.b)]

/-- Fill consecutive tail slots. -/
def Que.deliver (q : Que) : List QSlot → Que
  | [] => q
  | x :: xs => ((q.modSlot q.tail fun _ => x).push 1 false).deliver xs

/-- Deliver the next batch of a group's current tile when the queue has five free slots. No word of a retired team is left to pass a slot:
its batches are passed at once (log 27). -/
def State.deliverBatch (s : State) (k : Nat) (r : Raster) (x : RastGroup) : State :=
  let q := Team.queue ((s.team r.team).group x.group) r.queue
  if (s.team r.team).status == .retired then
    let b : Batch := { id := s.nextId, frags := x.frags.take 32 }
    s.modRaster k fun r => r.setPart ({ x with frags := x.frags.drop 32 }.retire r b)
  else if q.bind != .raster ∨ q.room < 5 ∨ x.frags.isEmpty then s
  else
    let fs := x.frags.take 32
    let id := s.nextId
    let s := s.modGroup r.team x.group (·.modQueue r.queue (·.deliver (batchSlots id r.noDisc fs)))
    let b : Batch := { id := id, frags := fs }
    ({ s with nextId := id + 1 }).modRaster k fun r =>
      r.setPart { x with frags := x.frags.drop 32, batches := x.batches ++ [b] }

/-- The event RASTER_BATCH_DELIVERY on cluster `cluster` for group `group`: retired batches take effect, then the group's tile
completes, the next one starts, or the next batch is delivered. -/
def State.rasterStep (s : State) (k g : Nat) : State :=
  s.rasterTurn k fun s r =>
    match r.part g with
    | none => s
    | some x =>
      if !r.started then s
      else
        let x := x.settle r (Team.queue ((s.team r.team).group g) r.queue) ((s.team r.team).status == .retired)
        let r := r.setPart x
        let s := s.modRaster k fun _ => r
        if x.cur.isNone then s.startTile k r x
        else if x.frags.isEmpty && x.batches.isEmpty then s.finishTile k r x
        else s.deliverBatch k r x

def execRasterBatchDelivery (s : State) : Outcome := .next (s.rasterStep s.ev.cluster s.ev.group)

/-! ## Completion (R376, R382, R383) -/

def RastGroup.finished (g : RastGroup) : Bool := g.tiles.isEmpty && g.cur.isNone && g.frags.isEmpty && g.batches.isEmpty

/-- The code of a command whose tiles are done (R382, R383). -/
def Raster.outcome (r : Raster) : Nat := if r.code ≠ 0 then r.code else if r.overs.isEmpty then 0 else 1

/-- The event RASTER_COMMAND_COMPLETE on cluster `cluster`: once every tile is done. -/
def State.rasterComplete (s : State) (k : Nat) : State :=
  s.rasterTurn k fun s r =>
    if !r.started || !r.groups.all RastGroup.finished then s
    else match s.rasterReportErr r with
      | some e => s.rasterFault k r e
      | none => s.rasterEnd k r r.outcome none

def execRasterCommandComplete (s : State) : Outcome := .next (s.rasterComplete s.ev.cluster)

/-! ## vdisc, vzout (10 R260, R382) -/

/-- The raster's answer to a decision on a NO_DISC command (R382): buffers are dropped, no further tile, CODE 5. -/
def Raster.violate (r : Raster) : Raster :=
  { r with code := 5, groups := r.groups.map fun (g : RastGroup) =>
      ({ g with tiles := [], cur := none, frags := [], batches := [] } : RastGroup) }

/-- Whether a command delivered the batch of a number and has not ended. -/
def Raster.delivered (r : Raster) (id : Nat) : Bool := r.groups.any fun g => g.batches.any fun b => b.id == id

/-- Change a delivered batch of a team's raster by its number. -/
def State.modBatch (s : State) (k t id : Nat) (f : Batch → Batch) : State :=
  s.modCluster k fun c => { c with rasters := c.rasters.map fun (r : Raster) =>
    if r.team = t then
      ({ r with groups := r.groups.map fun (g : RastGroup) =>
          ({ g with batches := g.batches.map fun b => if b.id = id then f b else b } : RastGroup) } : Raster)
    else r }

/-- A word that decides on the fragments of the head batch of a delivery queue. -/
def fragWord (op : Nat) (t : Tpl) (p : BitVec 4) (s : State) (f : TEnv → W32 → Batch → Batch) : Outcome :=
  tplWord .x op {} t p s (fun _ _ => kindOf t.srcA == 1 && decide (12 ≤ indexOf t.srcA)) fun e s =>
    let u := s.cur.team
    let k := clusterOf (s.team u).core
    let q := Team.queue (s.group u s.cur.group) (indexOf t.srcA)
    if q.bind != .raster then s.trapWith 0x248
    else if q.headSlot.noDisc then
      let id := q.headSlot.source
      .trap (s.modCluster k fun c => { c with rasters := c.rasters.map fun (r : Raster) => if r.team == u && r.delivered id then r.violate else r })
        (s.raiseAt 0x241)
    else (s.modBatch k u q.headSlot.source (f e (e.act &&& q.headSlot.valid))).finishTpl op t

def execVdisc (t : Tpl) (p : BitVec 4) (s : State) : Outcome :=
  fragWord 0x4B t p s fun _ m b => { b with disc := b.disc ||| m }

def execVzout (t : Tpl) (p : BitVec 4) (s : State) : Outcome :=
  fragWord 0x4C t p s fun e m b => { b with zset := b.zset ||| m, zout := mergeLanes m b.zout e.b.lanes }

end Sys2Proof.Machine
end

