-- ==== Sys2Proof/Machine/Sampler.lean ====
section
/-!
DEFINITION. Requests to delivery queues (11 R284): what `smp`, `trace` and `attr` share, the sampler path (16 R384 to R386) with
the event SAMPLER_DELIVERY, and `attr`.
-/
namespace Sys2Proof.Machine

/-! ## Delivery queues (11 R284, 16 R369) -/

/-- Delivery queue of a request word: 12 + OS[27:26]. -/
def TEnv.reqQueue (e : TEnv) : Nat := 12 + e.aux 26 2

/-- A request to a delivery queue by its binding rule: M-cluster 0x04A, unconfigured 0x080, wrong unit 0x248. -/
def State.withDelivery (s : State) (q : Nat) (ok : QBind → Bool) (k : Que → Eff) : Eff :=
  let t := s.cur.team
  let x := Team.queue (s.group t s.cur.group) q
  if isMCluster (clusterOf (s.team t).core) then s.trapWith 0x04A
  else if x.depth = 0 then s.trapWith 0x080
  else if !ok x.bind then s.trapWith 0x248
  else k x

/-- Unbound, or bound to the unit: the word binds it (R369). -/
def bindsTo (u : QBind) (b : QBind) : Bool := b == .none || b == u

/-- A cause found by a unit for a group: raised at its next A word, or logged when its team has ended (R391, 20 R503). -/
def State.groupCause (s : State) (t g : Nat) (e : MErr) : State :=
  let s := s.engReport t e
  let r : Raise := { cause := e.cause, vaddr := e.vaddr, shown := true, sector := e.sector, reported := true }
  if (s.team t).status.live then s.modGroup t g fun x => { x with araise := x.araise ++ [r] }
  else s.logInst (s.team t).inst { stream := 1, cause := e.cause, kind := 3, team := (s.team t).linear }

/-- Whether a request of a group to the sampler, or to the traversal unit, waits for the fault service. -/
def State.smpFaulted (s : State) (t g : Nat) : Bool := s.pending.any fun p => match p.who with
  | .smp u h _ _ => u == t && h == g
  | _ => false
def State.traceFaulted (s : State) (t g : Nat) : Bool := s.pending.any fun p => match p.who with
  | .trace u h _ => u == t && h == g
  | _ => false

/-- Read a record a request names at its issue, through the core's L1 as a load does; at home for a tainted address (18 R430). -/
def State.visionRecord (s : State) (l : LaneAcc) (n : Nat) : MRes (List Byte) :=
  if l.home then s.homeReadAt s.cur.team l.va l.pa n else s.coreRead s.cur.team l.va l.pa n

/-- Whether the record reads of a request wait for the group's earlier outstanding words, as a load of the same bytes does (11 R279, 18
R416). -/
def State.recordWaits (s : State) (n : Nat) (ls : List LaneAcc) : Bool :=
  !s.mayPerform s.cur.team { seq := 0, kind := .load, instr := .nop, info := {}, lanes := ls, width := n }
    (s.group s.cur.team s.cur.group).outst

/-- Read the records of the lanes of a request in ascending order. -/
def State.readRecords (s : State) (n : Nat) : List LaneAcc → MRes (List (LaneAcc × List Byte))
  | [] => .ok [] s
  | l :: ls =>
    match s.visionRecord l n with
    | .wait c => .wait c
    | .err e => .err e
    | .ok bs s => match s.readRecords n ls with
      | .wait c => .wait c
      | .err e => .err e
      | .ok rest s => .ok ((l, bs) :: rest) s

/-- The lanes whose record fails with a cause. -/
def State.recordFails (s : State) (n : Nat) (c : Cause) (ls : List LaneAcc) : List LaneAcc :=
  ls.filter fun l => match s.visionRecord l n with
    | .err e => e.cause == c
    | _ => false

/-- Continue after the records of a request: a word held on a watch window waits, and takes 0x148 when the window ends under it (14
R352). -/
def State.withRecords (s : State) (n : Nat) (ls : List LaneAcc) (k : List (LaneAcc × List Byte) → State → Eff) : Eff :=
  if s.recordWaits n ls then .wait s
  else if s.holdLost (.word s.cur) then (s.unhold (.word s.cur)).trapWith 0x148
  else match s.readRecords n ls with
  | .ok rs s => k rs (s.unhold (.word s.cur))
  | .wait w => .wait (s.hold (.word s.cur) w)
  | .err e => .trap s { (s.raiseAt e.cause (lanesMask (s.recordFails n e.cause ls))) with sector := e.sector }

/-! ## Descriptors (16 R384) -/

def SmpDesc.fmt (d : SmpDesc) : Nat := bitsOf d.ctl 0 5
def SmpDesc.norm (d : SmpDesc) : Bool := bitsOf d.ctl 5 1 == 1
def SmpDesc.bilinear (d : SmpDesc) : Bool := bitsOf d.ctl 6 2 == 1
def SmpDesc.wrapU (d : SmpDesc) : Nat := bitsOf d.ctl 8 2
def SmpDesc.wrapV (d : SmpDesc) : Nat := bitsOf d.ctl 10 2
def SmpDesc.elem (d : SmpDesc) : Nat := elemBits d.fmt / 8
def SmpDesc.step (d : SmpDesc) : Nat := if d.stride = 0 then d.elem else d.stride

def parseSmp (bs : List Byte) : SmpDesc :=
  let f (off n : Nat) : Nat := natOfBytes ((bs.drop off).take n)
  { base := f 0 8, width := f 8 2, height := f 10 2, pitch := f 12 4, ctl := f 16 4, stride := f 20 2, chOff := f 22 2,
    border := BitVec.ofNat 32 (f 24 4) }

/-- The limits of R384 on the 64 bytes of a descriptor. -/
def smpOk (bs : List Byte) : Bool :=
  let d := parseSmp bs
  accCodes.contains d.fmt && decide (d.base < 2 ^ 51) && d.base % d.elem == 0 && d.width != 0 && d.height != 0 &&
  decide (d.ctl < 2 ^ 12) && decide (bitsOf d.ctl 6 2 ≤ 1) && d.wrapU != 3 && d.wrapV != 3 && (bs.drop 28).all (· == 0)

/-- What a value of an integer format is divided by under NORM, and 1 otherwise. -/
def SmpDesc.divisor (d : SmpDesc) : Nat :=
  if !d.norm then 1
  else match d.fmt with
    | 8 => 2 ^ 31 - 1
    | 9 => 32767
    | 10 => 127
    | 11 => 255
    | 26 => 65535
    | _ => 1

/-! ## Taps (16 R385) -/

/-- The unit of weight on an axis. -/
def oneW : Nat := 2 ^ 149
def oneI : Int := 2 ^ 149

/-- A tap index under a wrap rule: clamp, repeat, border (none reads BORDER). -/
def wrapTap (wrap n : Nat) (i : Int) : Option Nat :=
  match wrap with
  | 0 => some (if i < 0 then 0 else if (n : Int) ≤ i then n - 1 else i.toNat)
  | 1 => some (i % (n : Int)).toNat
  | _ => if 0 ≤ i ∧ i < n then some i.toNat else none

/-- The taps of a finite coordinate, or of an infinite one on a clamp axis: index and weight, zero weights left out. -/
def axisTaps (bilinear : Bool) (wrap n : Nat) (w : W32) : List (Option Nat × Nat) :=
  match fp32.decode w.toNat with
  | .inf neg => [(some (if neg then 0 else n - 1), oneW)]
  | .nan => []
  | .fin _ _ _ =>
    let x := fixW w
    if !bilinear then [(wrapTap wrap n (x / oneI), oneW)]
    else
      let y : Int := x - 2 ^ 148
      let i := y / oneI
      let f := (y % oneI).toNat
      ([(wrapTap wrap n i, oneW - f), (wrapTap wrap n (i + 1), f)].filter fun t => t.2 != 0)

def isInf32 (w : W32) : Bool :=
  match fp32.decode w.toNat with
  | .inf _ => true
  | _ => false

/-- The lane of a sample that its coordinates decide alone (R385). -/
def SmpDesc.special (d : SmpDesc) (u v : W32) : Option W32 :=
  let nan (w : W32) : Bool := fp32.decode w.toNat == .nan
  let on (k : Nat) : Bool := (isInf32 u && d.wrapU == k) || (isInf32 v && d.wrapV == k)
  if nan u || nan v then some 0x7FC00000#32
  else if on 1 then some 0x7FC00000#32
  else if on 2 then some d.border
  else none

/-- The taps of a sample: texel (none for BORDER) and weight as a multiple of 2^-298. -/
def SmpDesc.taps (d : SmpDesc) (u v : W32) : List (Option (Nat × Nat) × Nat) :=
  (axisTaps d.bilinear d.wrapV d.height v).flatMap fun y => (axisTaps d.bilinear d.wrapU d.width u).map fun x =>
    ((match x.1, y.1 with
      | some i, some j => some (i, j)
      | _, _ => none), x.2 * y.2)

/-- The rounded weighted sum of tap values: element values over the divisor, BORDER as it is. -/
def SmpDesc.blend (d : SmpDesc) (ts : List (Option Nat × Nat)) : W32 :=
  let term (x : Option Nat × Nat) : Val :=
    match x.1 with
    | some w => mulVal (.fin false x.2 (-298)) ((elemOf d.fmt).val w)
    | none => mulVal (.fin false (x.2 * d.divisor) (-298)) (fp32.decode d.border.toNat)
  match sumVals .rne (ts.map term) with
  | .fin n m e => toF32 (if m = 0 ∨ d.divisor = 1 then .fin n m e else divFin n m e false d.divisor 0)
  | x => toF32 x

/-! ## The sampler cache (16 R386) -/

/-- Read a byte for a partition and revision through the sampler cache of a cluster. -/
def State.texByte (s : State) (k pid rev va : Nat) : Sum MErr (Byte × State) :=
  match s.engTranslate pid va .read with
  | .inl e => .inl e
  | .inr pa =>
    let r := s.revAt revDepth rev va
    if s.physTarget pa matches .window _ then .inl (engFail 0x380 va pa .read)
    else
      let find (s : State) : Option SampByte := s.samp.find? fun b => b.cluster == k && b.pid == pid && b.rev == r && b.pa == pa
      match find s with
      | some b => .inr (b.val, s)
      | none =>
        match s.heldBy pid va 1, s.failAt r va pa with
        | some w, _ => .inl (heldErr va w)
        | none, some c => .inl (engFail c va pa .read)
        | none, none => .inr (s.homeByte r va pa, s.sampFill k pid r va pa)

def State.texBytes (s : State) (k pid rev va : Nat) : Nat → Sum MErr (List Byte × State)
  | 0 => .inr ([], s)
  | n + 1 =>
    match s.texByte k pid rev va with
    | .inl e => .inl e
    | .inr (b, s) => match s.texBytes k pid rev (va + 1) n with
      | .inl e => .inl e
      | .inr (bs, s) => .inr (b :: bs, s)

/-- Address of texel (i, j). -/
def SmpDesc.texel (d : SmpDesc) (i j : Nat) : Nat := d.base + j * d.pitch + i * d.step + d.chOff

/-- Read the taps of a sample. -/
def State.readTaps (s : State) (k pid rev : Nat) (d : SmpDesc) :
    List (Option (Nat × Nat) × Nat) → Sum MErr (List (Option Nat × Nat) × State)
  | [] => .inr ([], s)
  | x :: xs =>
    let one : Sum MErr (Option Nat × State) := match x.1 with
      | none => .inr (none, s)
      | some p => match s.texBytes k pid rev (d.texel p.1 p.2) d.elem with
        | .inl e => .inl e
        | .inr (bs, s) => .inr (some (natOfBytes bs), s)
    match one with
    | .inl e => .inl e
    | .inr (v, s) => match s.readTaps k pid rev d xs with
      | .inl e => .inl e
      | .inr (rest, s) => .inr ((v, x.2) :: rest, s)

/-- The lanes of a request, lowest first. -/
def State.sampleLanes (s : State) (k pid rev : Nat) (r : SmpReq) : List Nat → Lanes → Sum MErr (Lanes × State)
  | [], acc => .inr (acc, s)
  | l :: ls, acc =>
    let u := lane r.u l
    let v := lane r.v l
    match r.desc.special u v with
    | some w => s.sampleLanes k pid rev r ls (setAt 0 acc l w)
    | none => match s.readTaps k pid rev r.desc (r.desc.taps u v) with
      | .inl e => .inl e
      | .inr (ts, s) => s.sampleLanes k pid rev r ls (setAt 0 acc l (r.desc.blend ts))

/-! ## smp (11 R284) -/

/-- A slot reserved for a request at the tail of its delivery queue, its valid mask the active lanes (R284, R370). -/
def Que.reserve (q : Que) (valid : W32) (held : Bool) : Que :=
  (q.modSlot q.tail fun _ => { lanes := mkLanes fun _ => 0, valid := valid, pend := 1, stale := false }).passTail held 1

/-- Record the request of an `smp` word and reserve its slot. -/
def State.pushSmp (s : State) (q : Nat) (e : TEnv) (d : SmpDesc) : State :=
  let held := s.idempotent s.cur
  s.modCurGroup fun g =>
    let r : SmpReq := { q := q, slot := (Team.queue g q).tail, desc := d, mask := e.act, u := e.b.lanes, v := e.c.lanes }
    { (g.modQueue q fun x => ({ x with bind := .sampler } : Que).reserve e.act held) with smps := g.smps ++ [r] }

def execSmp (t : Tpl) (p : BitVec 4) (s : State) : Outcome :=
  accWord 0x58 { aux := 0xFFFF + 0xC000000 } t p s
    (fun _ _ => kindOf t.srcA == 2 && decide (indexOf t.srcA < 32) && decide (kindOf t.srcB ≤ 1) && decide (kindOf t.srcC ≤ 1))
    fun e s => s.withDelivery e.reqQueue (bindsTo .sampler) fun q =>
      if q.room = 0 then .wait s
      else
        let va := (((s.scalarSrc (indexOf t.srcA)).toNat + e.disp) % (2 ^ 64 : Nat)).toNat
        let l : List LaneAcc := (maskLanes e.act).map fun n => { lane := n, va := va }
        s.checkLanes .global none 64 .read l fun ls s =>
          s.withRecords 64 (ls.take 1) fun rs s => match rs with
            | [] => (s.pushSmp e.reqQueue e {}).finishAcc 0x58 t
            | (_, bs) :: _ =>
              if !smpOk bs then s.trapWith 0x24A
              else (s.pushSmp e.reqQueue e (parseSmp bs)).finishAcc 0x58 t

/-! ## Delivery -/

/-- A request leaves the group's list. -/
def Group.dropSmp (g : Group) (n : Nat) : Group := { g with smps := g.smps.eraseIdx n }

/-- Fill the slot of a request. -/
def Group.fillSmp (g : Group) (r : SmpReq) (lanes : Lanes) (held : Bool) : Group :=
  g.modQueue r.q fun q => (q.modSlot r.slot fun x => { x with lanes := mergeLanes r.mask x.lanes lanes, pend := 0 }).settle held 16

/-- The `n`-th request of a group delivers. A failed one never fills its slot (R391). -/
def State.sampleStep (s : State) (t g n : Nat) : State :=
  let tm := s.team t
  match (s.group t g).smps[n]? with
  | none => s
  | some r =>
    let who : FaultBy := .smp t g r.q r.slot
    let fail (s : State) (e : MErr) : State := (s.modGroup t g (·.dropSmp n)).groupCause t g e
    if tm.status != .running || s.smpFaulted t g then s
    else s.unitTurn who fail fun s =>
      match s.sampleLanes (clusterOf tm.core) (s.pidOf t) tm.rev r (maskLanes r.mask) [] with
      | .inr (lanes, s) => s.modGroup t g fun x => (x.dropSmp n).fillSmp r lanes (s.idempotent (.a t g))
      | .inl e => s.unitFail who (.a t g) (s.pidOf t) 5 0xFD e fail

/-- The event SAMPLER_DELIVERY: request `n` of group `group` of team `team`. -/
def execSamplerDelivery (s : State) : Outcome := .next (s.sampleStep s.ev.team s.ev.group s.ev.n)

/-! ## attr (11 R284) -/

/-- The effective address of a lane of `attr`. -/
def attrAddr (e : TEnv) (q : Que) (l : Nat) : Nat :=
  let i : Int := if kindOf e.t.srcB = 3 then e.t.imm.toInt else (lane e.b.lanes l).toInt
  ((q.attrBase + i * q.attrStride + e.disp) % (2 ^ 64 : Nat)).toNat

def execAttr (t : Tpl) (p : BitVec 4) (s : State) : Outcome :=
  accWord 0x64 { fmts := accCodes, dsts := [1], aux := 0xFFFF + 0xC000000 } t p s
    (fun _ _ => kindOf t.srcB != 1 && t.free != 0)
    fun e s => s.withDelivery e.reqQueue (· == .raster) fun q =>
      let l : List LaneAcc := (maskLanes e.act).map fun n => { lane := n, va := attrAddr e q n, home := e.eaTaint.getLsbD n }
      s.checkLanes .global none (accBytes e.code) .read l fun ls s =>
        s.sendOut { s.outOf .load (.attr t p) e ls with dst := some (t.dstIdx.toNat, 0), order := 0, scope := 0, prm := false }
          fun s => s.finishAcc 0x64 t

end Sys2Proof.Machine
end

