-- ==== Sys2Proof/Machine/Trellis.lean ====
section
/-!
DEFINITION. The Trellis builder (17): the `bvh` words, `gpin` and `gunpin` (09 R211, R212), builder commands with build, refit,
rebalance, publish and quality (R396 to R409), and pins and reclaim (R405, R406).
-/
namespace Sys2Proof.Machine

/-! ## Pins (09 R212, R405, R406) -/

def execGpin (d a : BitVec 6) (s : State) : Outcome :=
  cWord s fun s t =>
    let tm := s.team t
    match s.pinFor (s.pidOf t) t (tm.cReg a) with
    | none => s.trapWith 0x283
    | some (h, s') =>
      if 4 ≤ tm.pins.length then s.trapWith 0x282
      else .done ((s'.acquireCore tm.core).modTeam t fun x => ({ x with pins := x.pins ++ [h] } : Team).setC d h)

/-- A list without the last occurrence of a handle. -/
def eraseLast (h : W64) (l : List W64) : List W64 := (l.reverse.erase h).reverse

def execGunpin (a : BitVec 6) (s : State) : Outcome :=
  cWord s fun s t =>
    let tm := s.team t
    let h := tm.cReg a
    if !tm.pins.contains h then s.trapWith 0x283
    else .done ((s.dropPin (s.pidOf t) t h).modTeam t fun x => { x with pins := eraseLast h x.pins })

/-- The event PIN_DROP for entry `n` of the generation table: dropped pins whose traces are done go, and superseded generations
without a pin are reclaimed. -/
def State.pinDrop (s : State) (n : Nat) : State :=
  match s.gen n with
  | none => s
  | some e => s.setGenEntry n (s.settlePins e)

def execPinDrop (s : State) : Outcome := .next (s.pinDrop s.ev.n)

/-! ## Submission (09 R211, R396) -/

/-- The handles by which a team is reached from the first task of its copy (19 R438). -/
def State.teamPath (s : State) : Nat → Nat → List Nat
  | 0, _ => []
  | n + 1, t => match (s.team t).parent with
    | none => []
    | some p => ((((s.team p).children.find? (·.team == t)).map (·.handle.toNat)).getD 0) :: s.teamPath n p

/-- What names a builder command in every run: job, instance number, linear index, path of handles, place among the team's commands. -/
def State.buildKey (s : State) (t : Nat) : List Nat :=
  let tm := s.team t
  (s.inst tm.inst).job :: (s.inst tm.inst).number :: tm.linear :: tm.buildCount :: s.teamPath 64 t

/-- Whether the builders of a team's die have queue space (R211, log 73). -/
def State.buildRoom (s : State) (t : Nat) : Bool :=
  let die := dieOf (clusterOf (s.team t).core)
  let cs := s.lodge.builds.filter fun c => dieOf (clusterOf c.core) == die
  cs.isEmpty || decide (cs.length ≤ Config.builderQueue)

/-- Submit a builder command: the write-back of R396, then its place in the queue. -/
def State.submitBuild (s : State) (t fn addr : Nat) : State :=
  let tm := s.team t
  let c : BuildCmd := { id := s.nextId, fn := fn, team := t, pid := s.pidOf t, core := tm.core, addr := addr, key := s.buildKey t }
  let s := (s.releaseCore tm.core).modTeam t fun x => { x with buildCount := x.buildCount + 1 }
  { s with lodge.builds := s.lodge.builds ++ [c], nextId := s.nextId + 1 }

/-- A `bvh` word that waits only for queue space. -/
def bvhSubmit (fn : Nat) (a : BitVec 6) (s : State) : Outcome :=
  cWord s fun s t =>
    let addr := ((s.team t).cReg a).toNat
    if addr % 64 ≠ 0 then s.errEff { cause := 0x0C1, vaddr := addr }
    else if !s.buildRoom t then .wait s
    else .done (s.submitBuild t fn addr)

/-- A `bvh` word that waits for its outcome. -/
def bvhWait (fn : Nat) (d a : BitVec 6) (s : State) : Outcome :=
  cWord s fun s t =>
    let addr := ((s.team t).cReg a).toNat
    if addr % 64 ≠ 0 then s.errEff { cause := 0x0C1, vaddr := addr }
    else match (s.team t).ctrl.ticket with
      | none => if !s.buildRoom t then .wait s
        else .wait ((s.submitBuild t fn addr).modCtrl t fun k => { k with ticket := some s.nextId })
      | some id =>
        match s.lodge.builds.find? fun c => c.id == id with
        | none => .wait (s.modCtrl t fun k => { k with ticket := none })
        | some c =>
          if !c.finished then .wait s
          else
            let s := { s with lodge.builds := s.lodge.builds.filter (·.id != id) }
            match c.fail with
            | some x => .trap (s.modCtrl t fun k => { k with ticket := none }) 
                { (s.raiseAt x) with vaddr := c.addr, shown := true, sector := c.sector, reported := true }
            | none => .done (s.modTeam t (·.setC d c.value))

def execBvhBuild (a : BitVec 6) (s : State) : Outcome := bvhSubmit 0 a s
def execBvhRefit (a : BitVec 6) (s : State) : Outcome := bvhSubmit 1 a s
def execBvhRebalance (a : BitVec 6) (s : State) : Outcome := bvhSubmit 2 a s
def execBvhPublish (d a : BitVec 6) (s : State) : Outcome := bvhWait 3 d a s
def execBvhQuality (d a : BitVec 6) (s : State) : Outcome := bvhWait 4 d a s

/-! ## Boxes and nodes (R399, R401, R402) -/

/-- A box: MIN x, y, z, MAX x, y, z as binary32 words. -/
abbrev Box3 := List W32

def nan32 : W32 := 0x7FC00000#32
def nanBox : Box3 := List.replicate 6 nan32
def f32v (w : W32) : Val := fp32.decode w.toNat
def isNan32 (w : W32) : Bool := f32v w == .nan
def Box3.at (b : Box3) (k : Nat) : W32 := b.getD k 0
def Box3.isNan (b : Box3) : Bool := (List.range 6).all fun k => isNan32 (Box3.at b k)

/-- The lesser and the greater of two words, NaN if either is (08 R175). -/
def minWord (x y : W32) : W32 := if isNan32 x || isNan32 y then nan32 else if ltOrd (f32v y) (f32v x) then y else x
def maxWord (x y : W32) : W32 := if isNan32 x || isNan32 y then nan32 else if ltOrd (f32v x) (f32v y) then y else x

/-- The union of two boxes; an all-NaN box contributes nothing. -/
def Box3.union (a b : Box3) : Box3 :=
  if Box3.isNan a then b
  else if Box3.isNan b then a
  else (List.range 3).map (fun k => minWord (Box3.at a k) (Box3.at b k)) ++
    (List.range 3).map fun k => maxWord (Box3.at a (k + 3)) (Box3.at b (k + 3))

/-- A node (R401). -/
structure Node where
  box : Box3 := nanBox
  left : Nat := 0
  right : Nat := 0
  parent : Nat := 0xFFFFFFFF
  flags : Nat := 0
  region : Nat := 0
  prim : Nat := 0
  work : Nat := 0
  changed : Nat := 0
  deriving DecidableEq, Repr

def Node.isLeaf (n : Node) : Bool := bitsOf n.flags 0 1 == 1

def Node.bytes (n : Node) : List Byte :=
  n.box.flatMap (fun w => bytesOfNat 4 w.toNat) ++ bytesOfNat 4 n.left ++ bytesOfNat 4 n.right ++ bytesOfNat 4 n.parent ++
  bytesOfNat 4 n.flags ++ bytesOfNat 8 n.region ++ bytesOfNat 4 n.prim ++ bytesOfNat 4 n.work ++ bytesOfNat 8 n.changed

def parseNode (bs : List Byte) : Node :=
  let f (off n : Nat) : Nat := natOfBytes ((bs.drop off).take n)
  { box := (List.range 6).map fun k => BitVec.ofNat 32 (f (4 * k) 4), left := f 24 4, right := f 28 4, parent := f 32 4,
    flags := f 36 4, region := f 40 8, prim := f 48 4, work := f 52 4, changed := f 56 8 }

/-- ⌊v / c⌋ of a finite value and a positive one. -/
def floorDiv (v c : Val) : Int :=
  match v, c with
  | .fin n m e, .fin _ m' e' =>
    let k := if e < e' then e else e'
    (signedInt n m * 2 ^ (e - k).toNat) / ((m' : Int) * 2 ^ (e' - k).toNat)
  | _, _ => 0

/-- The cell of a coordinate (R402); an infinite coordinate clamps to its end. -/
def cellOf (x origin cell : W32) : Nat :=
  match f32v x with
  | .inf true => 0
  | .inf false => 3
  | .nan => 0
  | v =>
    let q := floorDiv (sumVals .rne [v, (f32v origin).neg]) (f32v cell)
    if q < 0 then 0 else if 3 < q then 3 else q.toNat

/-- CELLS of a box (R402). -/
def cellsOf (b : Box3) (origin : List W32) (cell : W32) : Nat :=
  if Box3.isNan b then 0
  else
    let lo (k : Nat) : Nat := cellOf (Box3.at b k) (origin.getD k 0) cell
    let hi (k : Nat) : Nat := cellOf (Box3.at b (k + 3)) (origin.getD k 0) cell
    ((List.range 64).filter fun c =>
      decide (lo 0 ≤ c % 4) && decide (c % 4 ≤ hi 0) && decide (lo 1 ≤ c / 4 % 4) && decide (c / 4 % 4 ≤ hi 1) &&
      decide (lo 2 ≤ c / 16) && decide (c / 16 ≤ hi 2)).foldl (fun m c => m + 2 ^ c) 0

/-! ## Primitives (R399) -/

/-- Bytes of a primitive of a kind. -/
def primStride (kind : Nat) : Nat := if kind = 2 then 48 else 32

/-- A word rounded outward. -/
def roundDir (mode : RMode) (v : Val) : W32 := BitVec.ofNat 32 (fp32.round mode false 0 v)

/-- The leaf box of a primitive, none when it is degenerate. -/
def leafBox (kind : Nat) (bs : List Byte) : Option Box3 :=
  let f (k : Nat) : W32 := BitVec.ofNat 32 (natOfBytes ((bs.drop (4 * k)).take 4))
  let fields := if kind = 0 then 6 else if kind = 1 then 7 else 9
  let finite := (List.range fields).all fun k => match f32v (f k) with
    | .fin _ _ _ => true
    | _ => false
  let zero := (List.range (primStride kind / 4 - fields)).all fun k => f (fields + k) == 0
  if !finite || !zero then none
  else match kind with
    | 0 => if (List.range 3).any fun k => ltVal (f32v (f (k + 3))) (f32v (f k)) then none else some ((List.range 6).map f)
    | 1 =>
      let r := f32v (f 6)
      if ltVal r .zero then none
      else some ((List.range 3).map (fun k => roundDir .rdn (sumVals .rdn [f32v (minWord (f k) (f (k + 3))), r.neg])) ++
        (List.range 3).map fun k => roundDir .rup (sumVals .rup [f32v (maxWord (f k) (f (k + 3))), r]))
    | _ => some ((List.range 3).map (fun k => minWord (minWord (f k) (f (k + 3))) (f (k + 6))) ++
        (List.range 3).map fun k => maxWord (maxWord (f k) (f (k + 3))) (f (k + 6)))

/-! ## Build (R400) -/

/-- A leaf to place: its primitive index and box. -/
abbrev Leaf := Nat × Box3

/-- Twice the centre of a box on an axis. -/
def centre (b : Box3) (k : Nat) : Val := sumVals .rne [f32v (Box3.at b k), f32v (Box3.at b (k + 3))]

/-- The extent of the centres on an axis, twice its size; boxes with a NaN centre are left out. -/
def extent (ls : List Leaf) (k : Nat) : Val :=
  let cs := (ls.map fun l => centre l.2 k).filter (· != .nan)
  match cs with
  | [] => .zero
  | c :: rest =>
    let lo := rest.foldl (fun m x => if ltVal x m then x else m) c
    let hi := rest.foldl (fun m x => if ltVal m x then x else m) c
    match sumVals .rne [hi, lo.neg] with
    | .nan => .zero
    | v => v

/-- The axis of largest extent, ties x, then y, then z. -/
def splitAxis (ls : List Leaf) : Nat :=
  let x := extent ls 0
  let y := extent ls 1
  let z := extent ls 2
  if ltVal x y then (if ltVal y z then 2 else 1) else if ltVal x z then 2 else 0

/-- The order of leaves on an axis: NaN centres after all others, then the centre, then the primitive index. -/
def leafLt (k : Nat) (a b : Leaf) : Bool :=
  let x := centre a.2 k
  let y := centre b.2 k
  match x == .nan, y == .nan with
  | false, true => true
  | true, false => false
  | true, true => decide (a.1 < b.1)
  | false, false => ltVal x y || (!ltVal y x && decide (a.1 < b.1))

def insertLeaf (k : Nat) (l : Leaf) : List Leaf → List Leaf
  | [] => [l]
  | x :: xs => if leafLt k l x then l :: x :: xs else x :: insertLeaf k l xs

def sortLeaves (k : Nat) (ls : List Leaf) : List Leaf := ls.foldl (fun acc l => insertLeaf k l acc) []

/-- Nodes in preorder from node number `base` with a parent; the fuel bounds the depth. -/
def buildNodes (origin : List W32) (cell : W32) : Nat → List Leaf → Nat → Nat → List Node
  | 0, _, _, _ => []
  | fuel + 1, ls, base, parent =>
    match ls with
    | [] => []
    | [l] => [{ box := l.2, parent := parent, flags := 1, region := cellsOf l.2 origin cell, prim := l.1 }]
    | _ =>
      let sorted := sortLeaves (splitAxis ls) ls
      let h := (ls.length + 1) / 2
      let left := buildNodes origin cell fuel (sorted.take h) (base + 1) base
      let right := buildNodes origin cell fuel (sorted.drop h) (base + 1 + left.length) base
      let box := Box3.union (left.headD {}).box (right.headD {}).box
      { box := box, left := base + 1, right := base + 1 + left.length, parent := parent } :: left ++ right

/-- The nodes of a build over leaves. -/
def buildAll (origin : List W32) (cell : W32) (ls : List Leaf) : List Node :=
  buildNodes origin cell (ls.length + 1) ls 0 0xFFFFFFFF

/-- Boxes of internal nodes recomputed from their children, last node first (R397, R401). -/
def refitBoxes (nodes : List Node) : List Node :=
  (List.range nodes.length).reverse.foldl (fun (ns : List Node) k =>
    let n := ns.getD k {}
    if n.isLeaf then ns
    else setAt {} ns k { n with box := Box3.union (ns.getD n.left {}).box (ns.getD n.right {}).box }) nodes

/-! ## Quality (R409) -/

/-- Area of a box, exact. -/
def boxArea (b : Box3) : Val :=
  let d (k : Nat) : Val := sumVals .rne [f32v (Box3.at b (k + 3)), (f32v (Box3.at b k)).neg]
  let p := sumVals .rne [mulVal (d 0) (d 1), mulVal (d 1) (d 2), mulVal (d 2) (d 0)]
  mulVal (.ofInt 2) p

/-- SAH of a hierarchy. -/
def sahOf (nodes : List Node) : W32 :=
  let root := (nodes.headD {}).box
  let a := boxArea root
  if Box3.isNan root ∨ a.isZero then nan32
  else
    let sum := sumVals .rne ((nodes.filter fun n => !Box3.isNan n.box).map fun n => boxArea n.box)
    BitVec.ofNat 32 (fp32.round .rne false 0 (quotVal .rne sum a))

/-- SAH_RATIO. -/
def sahRatio (sah base : W32) : W32 :=
  if isNan32 sah || isNan32 base || (f32v base).isZero then nan32
  else BitVec.ofNat 32 (fp32.round .rne false 0 (quotVal .rne (f32v sah) (f32v base)))

/-- Levels of a hierarchy: the longest chain of parents. -/
def nodeDepth (nodes : List Node) : Nat → Nat → Nat
  | 0, _ => 0
  | fuel + 1, k =>
    let n := nodes.getD k {}
    if nodes.length ≤ k then 0
    else if n.isLeaf then 1
    else 1 + max (nodeDepth nodes fuel n.left) (nodeDepth nodes fuel n.right)

def maxDepth (nodes : List Node) : Nat := nodeDepth nodes 64 0
def leafNodes (nodes : List Node) : List Node := nodes.filter Node.isLeaf
def degenLeaves (nodes : List Node) : Nat := ((leafNodes nodes).filter fun n => Box3.isNan n.box).length

/-! ## The arena -/

/-- The next generation number (R394). -/
def nextGen (g : Nat) : Nat := if g = 0 ∨ g = 524287 then 1 else g + 1

/-- Address of the slot of a generation (R392, R395). -/
def GenEntry.slotAddr (e : GenEntry) (g : Nat) : Nat := e.arena + g % e.slots * e.slotNodes * 64

/-- Nodes of a hierarchy of `n` leaves. -/
def nodeCount (n : Nat) : Nat := 2 * n - 1

/-- Cut a list of bytes into nodes. -/
def splitNodes : Nat → List Byte → List Node
  | 0, _ => []
  | n + 1, bs => parseNode (bs.take 64) :: splitNodes n (bs.drop 64)

/-- Read the nodes of a slot; builders see the base revision (19 R434). -/
def State.readNodes (s : State) (e : GenEntry) (g leaves : Nat) : Sum MErr (List Node) :=
  match s.unitRead e.pid 0 (e.slotAddr g) (nodeCount leaves * 64) with
  | .inl x => .inl x
  | .inr bs => .inr (splitNodes (nodeCount leaves) bs)

/-- A builder's read of a slot closes the accumulators of its words (11 R283). -/
def State.nodesTouch (s : State) (e : GenEntry) (g leaves : Nat) : State := s.engTouch e.pid 0 (e.slotAddr g) (nodeCount leaves * 64)

/-- Write nodes to a slot. -/
def State.writeNodes (s : State) (e : GenEntry) (g : Nat) (nodes : List Node) : Sum MErr State :=
  s.unitWrite e.pid 0 (e.slotAddr g) (nodes.flatMap Node.bytes)

/-- A descriptor's fields (R392). -/
structure Desc where
  primBase : Nat
  primCount : Nat
  entry : GenEntry
  ok : Bool

def parseDesc (pid desc : Nat) (bs : List Byte) : Desc :=
  let f (off n : Nat) : Nat := natOfBytes ((bs.drop off).take n)
  let w (off : Nat) : W32 := BitVec.ofNat 32 (f off 4)
  let finite (x : W32) : Bool := match f32v x with
    | .fin _ _ _ => true
    | _ => false
  let e : GenEntry := { pid := pid, desc := desc, kind := bitsOf (f 12 4) 0 2, arena := f 16 8, slotNodes := f 24 4, slots := f 28 1,
                        origin := [w 0x20, w 0x24, w 0x28], cell := w 0x2C }
  { primBase := f 0 8, primCount := f 8 4, entry := e,
    ok := f 0 8 % 16 == 0 && decide (f 0 8 < 2 ^ 51) && decide (1 ≤ f 8 4) && decide (f 8 4 ≤ 16777215) && decide (f 12 4 < 3) &&
      f 16 8 % 4096 == 0 && decide (f 16 8 < 2 ^ 51) && decide (1 ≤ e.slotNodes) && decide (e.slotNodes ≤ 33554431) &&
      decide (2 ≤ e.slots) && decide (e.slots ≤ 64) && f 0x1D 3 == 0 && e.origin.all finite && finite e.cell &&
      ltVal .zero (f32v e.cell) }

/-! ## Ending a command (R407, R409) -/

/-- The lowest primitive whose leaf box is all NaN (R409). -/
def firstDegenOf (nodes : List Node) : Nat :=
  (((leafNodes nodes).filter fun n => Box3.isNan n.box).map (·.prim)).foldl min 0xFFFFFFFF

/-- What a command reports: its code, its cause with the sector of a failing read, and of one that completes the fields of R409. -/
structure BuildOut where
  code : Nat := 0
  cause : Option Cause := none
  sector : Nat := 0
  degenPrim : Nat := 0xFFFFFFFF
  handle : Nat := 0
  changed : Nat := 0
  nodes : List Node := []
  leaves : Nat := 0
  sah : W32 := 0
  refits : Nat := 0
  ratio : W32 := 0
  value : W64 := 0

/-- The 64 bytes of a report. After a failure the fields R409 does not give are free (log 25). -/
def reportOf (key : List Nat) (o : BuildOut) : List Byte :=
  let status := bytesOfNat 4 (2 ^ 31 + at_ o.code 16)
  if o.code ≠ 0 then
    status ++ bytesOfNat 4 o.degenPrim ++ (List.range 44).map (fun k => Config.reportByte key (8 + k)) ++ List.replicate 12 0
  else status ++ bytesOfNat 4 (firstDegenOf o.nodes) ++ bytesOfNat 8 o.handle ++ bytesOfNat 8 o.changed ++ bytesOfNat 4 o.nodes.length ++ bytesOfNat 4 o.leaves ++
    bytesOfNat 4 (maxDepth o.nodes) ++ bytesOfNat 4 (degenLeaves o.nodes) ++ bytesOfNat 4 o.sah.toNat ++
    bytesOfNat 4 o.refits ++ bytesOfNat 4 o.ratio.toNat ++ List.replicate 12 0

/-- Whether a command names a report area within its limits. -/
def BuildCmd.reports (c : BuildCmd) : Bool := c.report != 0 && c.report % 64 == 0 && decide (c.report < 2 ^ 51)

/-- What keeps a builder from writing a command's report. -/
def State.reportErr (s : State) (c : BuildCmd) : Option MErr := if c.reports then s.unitWriteErr c.pid c.report 64 else none

/-- Write the report area of a command; one that names none, or cannot be reached, is not written. -/
def State.writeBuildReport (s : State) (c : BuildCmd) (o : BuildOut) : State :=
  if !c.reports then s
  else match s.engWrite c.pid 0 c.report (reportOf c.key o) with
    | .inl _ => s
    | .inr s => s

def State.modBuild (s : State) (id : Nat) (f : BuildCmd → BuildCmd) : State :=
  { s with lodge.builds := s.lodge.builds.map fun c => if c.id = id then f c else c }

/-- A command ends: its report, then its cause in the issuing team, or its outcome for the waiting word. -/
def State.endBuild (s : State) (c : BuildCmd) (o : BuildOut) : State :=
  let s := s.writeBuildReport c o
  if c.fn ≤ 2 ∨ !(s.team c.team).status.live then
    let s := { s with lodge.builds := s.lodge.builds.filter (·.id != c.id) }
    match o.cause with
    | some x => s.engineCause c.team { cause := x, vaddr := c.addr, sector := o.sector }
    | none => s
  else
    let s := match o.cause with
      | some x => s.engReport c.team { cause := x, sector := o.sector }
      | none => s
    s.modBuild c.id fun b =>
      { b with started := true, finished := true, waiting := false, value := o.value, fail := o.cause, sector := o.sector }

/-- A failed access of a command: parked on the fault service, or CODE 3 or 4 (R407). -/
def State.buildFault (s : State) (c : BuildCmd) (e : MErr) : State :=
  s.unitFail (.builder c.id) (.c c.team) c.pid 6 0xFC e fun s e =>
    s.endBuild c { code := if e.cause.toNat / 64 = 5 then 4 else 3, cause := some e.cause, sector := e.sector }

/-- A turn of a builder on a command. -/
def State.buildTurn (s : State) (c : BuildCmd) (go : State → State) : State :=
  s.unitTurn (.builder c.id) (fun s e => s.endBuild c { code := 4, cause := some e.cause }) go

/-- Whether a builder command waits for an answer of the fault service. -/
def State.buildParked (s : State) (id : Nat) : Bool := s.pending.any fun p => p.who == .builder id

/-! ## Starting a command (R393, R396) -/

/-- Whether the 64 bytes of a command keep R396. -/
def buildCmdOk (fn : Nat) (bs : List Byte) : Bool :=
  let f (off n : Nat) : Nat := natOfBytes ((bs.drop off).take n)
  let ctl := f 8 4
  f 0 8 % 64 == 0 && decide (f 0 8 < 2 ^ 51) && decide (ctl < 16) && (fn == 1 || bitsOf ctl 2 1 == 0) &&
  (fn == 0 || bitsOf ctl 3 1 == 0) && f 12 4 == 0 && (fn == 4 || f 16 8 == 0) && f 24 8 % 64 == 0 &&
  decide (f 24 8 < 2 ^ 51) && (bs.drop 32).all (· == 0)

/-- The first free entry of the generation table. -/
def State.freeGen (s : State) : Option Nat := (List.range 256).find? fun n => (s.gen n).isNone

/-- Register the descriptor of a started command when the table does not hold it. -/
def State.registerDesc (s : State) (c : BuildCmd) : State :=
  if (s.findGen c.pid c.desc).isSome then s
  else match s.unitRead c.pid 0 c.desc 64 with
    | .inl e => (s.modBuild c.id fun b => { b with started := false }).buildFault c e
    | .inr bs =>
      let s := s.engTouch c.pid 0 c.desc 64
      let d := parseDesc c.pid c.desc bs
      if !d.ok then s.endBuild c { code := 2, cause := some 0x289 }
      else match s.freeGen with
        | none => s.endBuild c { code := 7, cause := some 0x288 }
        | some n => s.setGenEntry n (some d.entry)

/-- Commands of the team submitted before one and not started. -/
def earlierOf (cs : List BuildCmd) (c : BuildCmd) : Bool :=
  (cs.takeWhile (·.id != c.id)).any fun b => b.team == c.team && !b.started

/-- Commands in progress on a die's builders. -/
def State.buildersBusy (s : State) (die : Nat) : Nat :=
  (s.lodge.builds.filter fun b => b.started && !b.finished && !b.waiting && dieOf (clusterOf b.core) == die).length

/-- The event BUILDER_COMMAND_START: a free builder of the die takes a command when it is the next of its team and no other is
in progress on its descriptor. -/
def State.buildStart (s : State) (id : Nat) : State :=
  match s.lodge.builds.find? fun c => c.id == id with
  | none => s
  | some c =>
    if c.started || s.buildParked id || earlierOf s.lodge.builds c || decide (2 ≤ s.buildersBusy (dieOf (clusterOf c.core))) then s
    else s.buildTurn c fun s => match s.unitRead c.pid 0 c.addr 64 with
      | .inl e => s.buildFault c e
      | .inr bs =>
        let s := s.engTouch c.pid 0 c.addr 64
        let f (off n : Nat) : Nat := natOfBytes ((bs.drop off).take n)
        let c : BuildCmd := { c with desc := f 0 8, ctl := f 8 4, handle := BitVec.ofNat 64 (f 16 8), report := f 24 8, started := true }
        if s.lodge.builds.any fun b => b.started && !b.finished && b.pid == c.pid && b.desc == c.desc then s
        else match s.reportErr c with
        | some x => s.buildFault c x
        | none =>
          let s := s.modBuild id fun _ => c
          if !buildCmdOk c.fn bs then s.endBuild c { code := 2, cause := some 0x289 } else s.registerDesc c

def execBuilderCommandStart (s : State) : Outcome := .next (s.buildStart s.ev.cmd)

/-! ## Performing a command (R397 to R403) -/

/-- Read the primitives of a descriptor as leaves; the first degenerate one, if any. -/
def State.readPrims (s : State) (pid kind base : Nat) : Nat → Nat → Sum MErr (List Leaf × Option Nat)
  | 0, _ => .inr ([], none)
  | n + 1, p =>
    match s.unitRead pid 0 (base + p * primStride kind) (primStride kind) with
    | .inl e => .inl e
    | .inr bs =>
      match s.readPrims pid kind base n (p + 1) with
      | .inl e => .inl e
      | .inr (ls, first) =>
        match leafBox kind bs with
        | some b => .inr ((p, b) :: ls, first)
        | none => .inr ((p, nanBox) :: ls, some p)

/-- Whether the draft slot of an entry is held by a resident superseded generation, or by the current one (R395, R398). -/
def GenEntry.draftHeld (e : GenEntry) : Bool := e.gens.any fun g => g.num % e.slots == nextGen e.cur % e.slots

/-- An exhausted command (R398). -/
def State.exhausted (s : State) (c : BuildCmd) : State :=
  if bitsOf c.ctl 1 1 = 1 then s.modBuild c.id fun b => { b with waiting := true }
  else s.endBuild c { code := 1, cause := some 0x280 }

/-- The current generation of an entry. -/
def GenEntry.curGen (e : GenEntry) : Option Generation := e.gens.find? fun g => g.num == e.cur

/-- A saturating 32-bit increment. -/
def satInc32 (n : Nat) : Nat := if n < 0xFFFFFFFF then n + 1 else n

/-- Open a draft with its nodes (R397): the slot, the entry, DRAFT in the descriptor, and the report. -/
def State.openDraft (s : State) (c : BuildCmd) (n : Nat) (e : GenEntry) (nodes : List Node) (leaves : Nat) (copied : Option Nat)
    (refits : Nat) (base : Option W32) : State :=
  let num := nextGen e.cur
  match s.unitWriteErr e.pid (e.desc + 0x38) 8, s.writeNodes e num nodes with
  | some x, _ => s.buildFault c x
  | none, .inl x => s.buildFault c x
  | none, .inr s =>
    let sah := sahOf nodes
    let d : Draft := { num := num, leaves := leaves, copied := copied, refits := refits, baseSah := base.getD sah }
    let s := s.setGenEntry n (some { e with draft := some d })
    let s := match s.engWrite e.pid 0 (e.desc + 0x38) (bytesOfNat 8 (e.slotAddr num)) with
      | .inl _ => s
      | .inr s => s
    s.endBuild c { handle := (mkHandle e.desc num).toNat, nodes := nodes, leaves := leaves, sah := sah, refits := refits,
                   ratio := sahRatio sah d.baseSah }

/-- Read a descriptor's primitive fields again (R392): none when they break their limits. -/
def State.primFields (s : State) (c : BuildCmd) : Sum MErr (Option (Nat × Nat)) :=
  match s.unitRead c.pid 0 c.desc 16 with
  | .inl e => .inl e
  | .inr bs =>
    let f (off n : Nat) : Nat := natOfBytes ((bs.drop off).take n)
    if f 0 8 % 16 = 0 ∧ f 0 8 < 2 ^ 51 ∧ 1 ≤ f 8 4 ∧ f 8 4 ≤ 16777215 then .inr (some (f 0 8, f 8 4)) else .inr none

/-- The leaves of the primitive array, with degenerate ones as SKIP_DEGEN says. -/
def State.withPrims (s : State) (c : BuildCmd) (e : GenEntry) (base count : Nat) (k : State → List Leaf → State) : State :=
  match s.readPrims c.pid e.kind base count 0 with
  | .inl x => s.buildFault c x
  | .inr (ls, first) =>
    let s := (s.engTouch c.pid 0 c.desc 16).engTouch c.pid 0 base (count * primStride e.kind)
    match first, bitsOf c.ctl 0 1 with
    | some p, 0 => s.endBuild c { code := 5, cause := some 0x281, degenPrim := p }
    | _, _ => k s ls

/-- build (R397, R400). -/
def State.doBuild (s : State) (c : BuildCmd) (n : Nat) (e : GenEntry) : State :=
  if bitsOf c.ctl 3 1 = 1 then
    match s.unitWrite e.pid 0 (e.desc + 0x38) (bytesOfNat 8 0) with
    | .inl x => s.buildFault c x
    | .inr s => (s.setGenEntry n ({ e with draft := none, retire := true } : GenEntry).settle).endBuild c {}
  else match s.primFields c with
    | .inl x => s.buildFault c x
    | .inr none => s.endBuild c { code := 2, cause := some 0x289 }
    | .inr (some (base, count)) =>
      if e.slotNodes < nodeCount count then s.endBuild c { code := 2, cause := some 0x289 }
      else if e.draftHeld then s.exhausted c
      else s.withPrims c e base count fun s ls => s.openDraft c n e (buildAll e.origin e.cell ls) count none 0 none

/-- refit (R397, R401); with COPY every node is a bit copy but for WORK, written as zero (24 R497). -/
def State.doRefit (s : State) (c : BuildCmd) (n : Nat) (e : GenEntry) : State :=
  match e.curGen with
  | none => s.endBuild c { code := 6, cause := some 0x28A }
  | some g => match s.primFields c with
    | .inl x => s.buildFault c x
    | .inr none => s.endBuild c { code := 2, cause := some 0x289 }
    | .inr (some (base, count)) =>
      if count ≠ g.leaves then s.endBuild c { code := 2, cause := some 0x289 }
      else if e.draftHeld then s.exhausted c
      else match s.readNodes e g.num g.leaves with
        | .inl x => s.buildFault c x
        | .inr nodes =>
          let s := s.nodesTouch e g.num g.leaves
          if bitsOf c.ctl 2 1 = 1 then s.openDraft c n e (nodes.map fun x => { x with work := 0 }) count (some g.num) (satInc32 g.refits) (some g.baseSah)
          else s.withPrims c e base count fun s ls =>
            let leaf (x : Node) : Node :=
              if x.isLeaf then
                let b := ((ls.find? fun l => l.1 == x.prim).getD (0, nanBox)).2
                { x with box := b, region := cellsOf b e.origin e.cell, work := 0, changed := 0 }
              else { x with region := 0, work := 0, changed := 0 }
            s.openDraft c n e (refitBoxes (nodes.map leaf)) count (some g.num) (satInc32 g.refits) (some g.baseSah)

/-- rebalance (R397). -/
def State.doRebalance (s : State) (c : BuildCmd) (n : Nat) (e : GenEntry) : State :=
  match e.curGen with
  | none => s.endBuild c { code := 6, cause := some 0x28A }
  | some g =>
    if e.draftHeld then s.exhausted c
    else match s.readNodes e g.num g.leaves with
      | .inl x => s.buildFault c x
      | .inr nodes =>
        let ls : List Leaf := (leafNodes nodes).map fun x => (x.prim, x.box)
        (s.nodesTouch e g.num g.leaves).openDraft c n e (buildAll e.origin e.cell ls) g.leaves none 0 none

/-- Whether two nodes agree in the fields a refit keeps (R403). -/
def Node.sameShape (a b : Node) : Bool :=
  a.left == b.left && a.right == b.right && a.parent == b.parent && a.flags == b.flags && a.prim == b.prim

/-- CHANGED of a published generation (R403). -/
def changedMask (e : GenEntry) (old new : Option (List Node)) : Nat :=
  match old, new with
  | some os, some ns =>
    if (leafNodes os).length ≠ (leafNodes ns).length then 2 ^ 64 - 1
    else (leafNodes ns).foldl (fun m x =>
      match (leafNodes os).find? fun y => y.prim == x.prim with
      | some y => if y.box = x.box then m else m ||| cellsOf y.box e.origin e.cell ||| cellsOf x.box e.origin e.cell
      | none => m ||| cellsOf x.box e.origin e.cell) 0
  | _, _ => 2 ^ 64 - 1

/-- REGION of every node, and CHANGED of node 0. -/
def publishNodes (e : GenEntry) (changed : Nat) (nodes : List Node) : List Node :=
  nodes.zipIdx.map fun x =>
    ({ x.1 with region := if x.1.isLeaf then cellsOf x.1.box e.origin e.cell else 0,
                changed := if x.2 = 0 then changed else x.1.changed } : Node)

/-- The table step of a publish (R403), and the writes after it. The caller has found that the descriptor can be written. -/
def State.publishStep (s : State) (c : BuildCmd) (n : Nat) (e : GenEntry) (d : Draft) (nodes : List Node) (changed : Nat) : State :=
  let g : Generation := { num := d.num, leaves := d.leaves, refits := d.refits, baseSah := d.baseSah }
  let h := mkHandle e.desc d.num
  let s := s.setGenEntry n ({ e with cur := d.num, draft := none, gens := e.gens ++ [g] } : GenEntry).settle
  let s := match s.engWrite e.pid 0 (e.desc + 0x30) (bytesOfNat 8 h.toNat ++ bytesOfNat 8 0) with
    | .inl _ => s
    | .inr s => s
  let sah := sahOf nodes
  s.endBuild c { handle := h.toNat, changed := changed, nodes := nodes, leaves := d.leaves, sah := sah, refits := d.refits,
                 ratio := sahRatio sah d.baseSah, value := h }

/-- publish (R403). -/
def State.doPublish (s : State) (c : BuildCmd) (n : Nat) (e : GenEntry) : State :=
  match e.draft with
  | none => s.endBuild c { code := 6, cause := some 0x28A }
  | some d =>
    if e.gens.any fun g => g.num == d.num then s.exhausted c
    else
      let s := if (s.team c.team).status.live then s.releaseCore (s.team c.team).core else s
      let s := s.nodesTouch e d.num d.leaves
      match s.readNodes e d.num d.leaves with
      | .inl x => s.buildFault c x
      | .inr nodes =>
        let old : Sum MErr (Option (List Node)) := match e.curGen with
          | none => .inr none
          | some g => match s.readNodes e g.num g.leaves with
            | .inl x => .inl x
            | .inr ns => .inr (some ns)
        match old with
        | .inl x => s.buildFault c x
        | .inr old =>
          let broken := d.copied.isSome && !((old.getD []).zip nodes).all fun p => p.1.sameShape p.2
          if broken then s.endBuild c { code := 2, cause := some 0x289 }
          else
            let sameCount := (e.curGen.map (·.leaves)) == some d.leaves
            let changed := if sameCount then changedMask e old (some nodes) else 2 ^ 64 - 1
            let nodes := publishNodes e changed nodes
            match s.unitWriteErr e.pid (e.desc + 0x30) 16, s.writeNodes e d.num nodes with
            | some x, _ => s.buildFault c x
            | none, .inl x => s.buildFault c x
            | none, .inr s => s.publishStep c n e d nodes changed

/-- quality (R409). -/
def State.doQuality (s : State) (c : BuildCmd) : State :=
  match s.resolve c.pid c.handle true with
  | none => s.endBuild c { code := 6, cause := some 0x283 }
  | some (_, e, num) =>
    match e.gens.find? fun g => g.num == num with
    | none => s.endBuild c { code := 6, cause := some 0x283 }
    | some g => match s.readNodes e num g.leaves with
      | .inl x => s.buildFault c x
      | .inr nodes =>
        let s := s.nodesTouch e num g.leaves
        let sah := sahOf nodes
        let ratio := sahRatio sah g.baseSah
        let word := at_ ratio.toNat 32 + at_ (maxDepth nodes) 24 + at_ (min 255 g.refits) 16 + at_ (min 255 (degenLeaves nodes)) 8
        s.endBuild c { handle := (mkHandle e.desc num).toNat, nodes := nodes, leaves := g.leaves, sah := sah, refits := g.refits,
                       ratio := ratio, value := BitVec.ofNat 64 word }

/-- The event BUILDER_COMMAND_COMPLETE of the command numbered `cmd`: a started command whose report area can be written is performed and
ends, or waits for a slot (R398). -/
def State.buildComplete (s : State) (id : Nat) : State :=
  match s.lodge.builds.find? fun c => c.id == id with
  | none => s
  | some c =>
    if !c.started || c.finished || s.buildParked id then s
    else s.buildTurn c fun s => match s.reportErr c with
    | some x => s.buildFault c x
    | none =>
    if c.fn = 4 then s.doQuality c
    else match s.findGen c.pid c.desc with
      | none => s.endBuild c { code := 6, cause := some 0x28A }
      | some (n, e) => match c.fn with
        | 0 => s.doBuild c n e
        | 1 => s.doRefit c n e
        | 2 => s.doRebalance c n e
        | _ => s.doPublish c n e

def execBuilderCommandComplete (s : State) : Outcome := .next (s.buildComplete s.ev.cmd)

end Sys2Proof.Machine
end

