-- ==== Sys2Proof/Machine/Traversal.lean ====
section
/-!
DEFINITION. The traversal unit (16 R387 to R390): `trace` (11 R284), its walk, candidate rounds and result with the events
TRAVERSAL_ROUND and TRAVERSAL_RESULT, and the decisions `cacc` and `crej` (10 R261).
-/
namespace Sys2Proof.Machine

/-! ## Records (R387) -/

def TraceLane.w (x : TraceLane) (k : Nat) : W32 := x.words.getD k 0
def TraceLane.f (x : TraceLane) (k : Nat) : Int := fixW (x.w k)
def TraceLane.ctl (x : TraceLane) (sweep : Bool) : Nat := (x.w (if sweep then 13 else 7)).toNat

/-- A lane as its record gives it: valid when its fields are finite, TMAX or r is not negative, and CTL keeps its limits. -/
def parseLane (sweep : Bool) (l : LaneAcc) (bs : List Byte) : TraceLane :=
  let ws := (List.range (if sweep then 16 else 8)).map fun k => BitVec.ofNat 32 (natOfBytes ((bs.drop (4 * k)).take 4))
  let x : TraceLane := { lane := l.lane, addr := l.va, words := ws }
  let n := if sweep then 13 else 7
  let ctl := x.ctl sweep
  { x with
    tmax := x.w 6
    valid := ((List.range n).all fun k => isFinite32 (x.w k)) && decide (0 ≤ x.f (n - 1)) && ctl != 0 && decide (ctl < 256) }

/-- The round count of a word: the largest ROUNDS of its valid lanes. -/
def roundsOf (sweep : Bool) (ls : List TraceLane) : Nat :=
  ((ls.filter (·.valid)).map fun x => x.ctl sweep).foldl max 0

/-! ## trace (11 R284) -/

/-- The handle a `trace` word names: srcC, or the team's latest pin. -/
def State.traceHandle (s : State) (t : Tpl) : W64 :=
  if t.srcC = 0 then s.special s.cur.team (some s.cur.group) 50 else s.scalarSrc (indexOf t.srcC)

/-- Whether a queue has two free slots not reserved by words in flight (R389, log 30). -/
def State.traceReady (s : State) (q : Nat) : Bool :=
  let g := s.group s.cur.team s.cur.group
  decide (2 + 2 * (g.traces.filter (·.q == q)).length ≤ (Team.queue g q).room)

/-- Record the request of a `trace` word. -/
def State.pushTrace (s : State) (q : Nat) (sweep : Bool) (h : W64) (ls : List TraceLane) : State :=
  let r : TraceReq := { id := s.nextId, q := q, sweep := sweep, handle := h, rounds := roundsOf sweep ls, lanes := ls,
                        inIter := s.idempotent s.cur }
  { (s.modCurGroup fun g =>
      { (g.modQueue q fun x => { x with bind := .traversal }) with traces := g.traces ++ [r] }) with nextId := s.nextId + 1 }

def execTrace (t : Tpl) (p : BitVec 4) (s : State) : Outcome :=
  accWord 0x62 { aux := auxMem + 0x1C000000 } t p s
    (fun e _ => e.memOk && (t.srcC == 0 || kindOf t.srcC == 2))
    fun e s =>
      let h := s.traceHandle t
      let sweep := e.os 28
      let w := if sweep then 64 else 32
      s.withDelivery e.reqQueue (bindsTo .traversal) fun _ =>
        if !(s.team s.cur.team).pins.contains h then s.trapWith 0x283
        else if !s.traceReady e.reqQueue then .wait s
        else s.checkLanes .global (some (indexOf t.srcA)) w .read (s.laneAddrs e e.act) fun ls s =>
          s.withRecords w ls fun rs s =>
            (s.pushTrace e.reqQueue sweep h (rs.map fun r => parseLane sweep r.1 r.2)).finishAcc 0x62 t

/-! ## Box tests (R388) -/

/-- A fraction with a positive denominator. -/
structure Frac where
  num : Int
  den : Nat
  deriving DecidableEq, Repr

def Frac.le (a b : Frac) : Bool := decide (a.num * b.den ≤ b.num * a.den)
def Frac.max (a b : Frac) : Frac := if a.le b then b else a
def Frac.min (a b : Frac) : Frac := if a.le b then a else b

/-- A coordinate or bound as a multiple of 2^-149; an infinite bound lies beyond every exact quotient. -/
def fixB (w : W32) : Int :=
  match fp32.decode w.toNat with
  | .inf true => -(2 ^ 1500)
  | .inf false => 2 ^ 1500
  | _ => fixW w

/-- A finite word as a fraction. -/
def fracOf (w : W32) : Frac := ⟨fixW w, 2 ^ 149⟩

/-- (b - o) / d for d ≠ 0. -/
def slabAt (b o d : Int) : Frac := if 0 < d then ⟨b - o, d.natAbs⟩ else ⟨o - b, d.natAbs⟩

/-- The exact entry distance of a ray into a closed box, none when it misses; the interval is clipped to [0, TMAX]. -/
def rayMeets (x : TraceLane) (b : Box3) : Option Frac :=
  if (List.range 6).any fun k => isNan32 (Box3.at b k) then none
  else
    let axis (r : Option (Frac × Frac)) (k : Nat) : Option (Frac × Frac) :=
      match r with
      | none => none
      | some (lo, hi) =>
        let o := x.f k
        let d := x.f (3 + k)
        let b0 := fixB (Box3.at b k)
        let b1 := fixB (Box3.at b (k + 3))
        if d = 0 then (if b0 ≤ o ∧ o ≤ b1 then some (lo, hi) else none)
        else
          let lo := lo.max (slabAt (if 0 < d then b0 else b1) o d)
          let hi := hi.min (slabAt (if 0 < d then b1 else b0) o d)
          if lo.le hi then some (lo, hi) else none
    (([0, 1, 2] : List Nat).foldl axis (some (⟨0, 1⟩, fracOf x.tmax))).map (·.1)

/-- Whether the closed bounding box of a sweep, widened by r, overlaps a box. -/
def sweepMeets (x : TraceLane) (b : Box3) : Bool :=
  !((List.range 6).any fun k => isNan32 (Box3.at b k)) &&
  ([0, 1, 2] : List Nat).all fun k =>
    let ps := [x.f k, x.f (3 + k), x.f (6 + k), x.f (9 + k)]
    decide (ps.foldl min (x.f k) - x.f 12 ≤ fixB (Box3.at b (k + 3))) && decide (fixB (Box3.at b k) ≤ ps.foldl max (x.f k) + x.f 12)

/-! ## The walk (R388) -/

/-- Where a generation's nodes are: partition, revision, first address, count. -/
structure Tree where
  pid : Nat
  rev : Nat
  addr : Nat
  count : Nat

/-- Candidates before others: by entry distance, then primitive index; all distances of a sweep are zero. -/
def Cand.before (a b : Cand) : Bool :=
  let x : Frac := ⟨a.num, a.den⟩
  let y : Frac := ⟨b.num, b.den⟩
  if x.le y && y.le x then decide (a.prim < b.prim) else x.le y

def insertCand (c : Cand) : List Cand → List Cand
  | [] => [c]
  | d :: ds => if c.before d then c :: d :: ds else d :: insertCand c ds

/-- Visit a node and the nodes below it for a lane; the fuel is the levels of the traversal stack. An index outside the
generation names no node (log 37). -/
def State.walkNode (s : State) (tr : Tree) (sweep : Bool) : Nat → Nat → TraceLane → Sum MErr (TraceLane × State)
  | 0, _, x => .inr ({ x with deep := true }, s)
  | n + 1, k, x =>
    if tr.count ≤ k then .inr (x, s)
    else match s.unitRead tr.pid tr.rev (tr.addr + 64 * k) 64 with
      | .inl e => .inl e
      | .inr bs =>
        let s := s.engTouch tr.pid tr.rev (tr.addr + 64 * k) 64
        let nd := parseNode bs
        let met : Option Frac := if sweep then (if sweepMeets x nd.box then some ⟨0, 1⟩ else none) else rayMeets x nd.box
        match met with
        | none => .inr (x, s)
        | some te =>
          let x : TraceLane := { x with visit := x.visit ||| nd.region }
          if nd.isLeaf then
            let c : Cand := { num := te.num, den := te.den, prim := nd.prim }
            .inr ({ x with cands := insertCand c x.cands }, s)
          else match s.walkNode tr sweep n nd.left x with
            | .inl e => .inl e
            | .inr (x, s) => s.walkNode tr sweep n nd.right x

/-- Walk for every valid lane; a lane that needs more than 64 levels has no candidate. -/
def State.walkLanes (s : State) (tr : Tree) (sweep : Bool) : List TraceLane → Sum MErr (List TraceLane × State)
  | [] => .inr ([], s)
  | x :: xs =>
    let r : Sum MErr (TraceLane × State) := if x.valid then s.walkNode tr sweep 64 0 x else .inr (x, s)
    match r with
    | .inl e => .inl e
    | .inr (x, s) => match s.walkLanes tr sweep xs with
      | .inl e => .inl e
      | .inr (ys, s) => .inr ((if x.deep then { x with cands := [] } else x) :: ys, s)

/-- The nodes of the generation a handle names. -/
def State.treeOf (s : State) (t : Nat) (h : W64) : Tree :=
  let pid := s.pidOf t
  let rev := (s.team t).rev
  match s.findGen pid (handleDesc h) with
  | none => ⟨pid, rev, 0, 0⟩
  | some (_, e) =>
    let leaves := match e.gens.find? (·.num == handleGen h) with
      | some g => g.leaves
      | none => 0
    ⟨pid, rev, e.slotAddr (handleGen h), nodeCount leaves⟩

/-! ## Rounds (R389) -/

/-- Whether a candidate of a lane is culled. -/
def TraceLane.culled (x : TraceLane) (sweep : Bool) (c : Cand) : Bool :=
  !sweep && !(Frac.le ⟨c.num, c.den⟩ (fracOf x.tmax))

/-- Move to a lane's next candidate that is not culled; the former one, undecided, is rejected. -/
def TraceLane.next (x : TraceLane) (sweep : Bool) : TraceLane :=
  let rest := x.cands.filter fun c => !x.culled sweep c
  { x with cur := rest.head?, cands := rest.drop 1, decided := false }

/-- A slot that a traversal unit fills (R370). -/
def traceSlot (id : Nat) (valid : W32) (lanes : Lanes) : QSlot := { lanes := lanes, valid := valid, source := id, stale := false }

/-- The slot of a round: each lane's candidate. -/
def TraceReq.roundSlot (r : TraceReq) : QSlot :=
  let find (l : Nat) : Option Cand := (r.lanes.find? (·.lane == l)).bind (·.cur)
  traceSlot r.id (mkMask fun l => (find l).isSome) (mkLanes fun l => match find l with
    | some c => BitVec.ofNat 32 c.prim
    | none => 0)

def Group.setTrace (g : Group) (r : TraceReq) : Group := { g with traces := g.traces.map fun x => if x.id = r.id then r else x }

/-- The request a queue serves: its first, whose slots are passed (`source` gone), while its unit may deliver. The unit finishes the
words of a retired team, whose slots no word is left to pass (17 R406, log 27). -/
def State.traceReq (s : State) (t g q : Nat) : Option TraceReq :=
  let x := s.group t g
  match x.traces.find? (·.q == q) with
  | none => none
  | some r =>
    let st := (s.team t).status
    if r.failed || !st.served || s.traceFaulted t g ||
      (st == .running && ((Team.queue x q).liveSources.contains r.id || (Team.queue x q).room = 0)) then none
    else some r

/-- A word of the unit never delivers (R391). -/
def State.traceLost (s : State) (t g : Nat) (r : TraceReq) (e : MErr) : State :=
  (s.modGroup t g (·.setTrace { r with failed := true })).groupCause t g e

/-- A read of a unit fails: recorded with the fault service, or the word never delivers (R391). -/
def State.traceFail (s : State) (t g : Nat) (r : TraceReq) (e : MErr) : State :=
  s.unitFail (.trace t g r.id) (.a t g) (s.pidOf t) 5 0xFD e fun s e => s.traceLost t g r e

/-- A turn of the unit on the request a queue serves. -/
def State.traceTurn (s : State) (t g q : Nat) (go : State → TraceReq → State) : State :=
  match s.traceReq t g q with
  | none => s
  | some r => s.unitTurn (.trace t g r.id) (fun s e => s.traceLost t g r e) fun s => go s r

/-- Slots of a delivery; a retired team has no queue to take them. -/
def State.traceSlots (s : State) (t g q : Nat) (x : QSlot) : State :=
  if (s.team t).status == .running then s.modGroup t g (·.modQueue q (·.deliver [x])) else s

/-- The walk of a request. -/
def State.traceWalk (s : State) (t : Nat) (r : TraceReq) : Sum MErr (TraceReq × State) :=
  if r.walked then .inr (r, s)
  else match s.walkLanes (s.treeOf t r.handle) r.sweep r.lanes with
    | .inl e => .inl e
    | .inr (ls, s) => .inr ({ r with walked := true, lanes := ls }, s)

/-- Deliver the next round of the request a queue serves. -/
def State.traceRound (s : State) (t g q : Nat) : State :=
  s.traceTurn t g q fun s r =>
    if r.rounds ≤ r.round then s
    else match s.traceWalk t r with
      | .inl e => s.traceFail t g r e
      | .inr (r, s) =>
        let r : TraceReq := { r with round := r.round + 1, lanes := r.lanes.map (·.next r.sweep) }
        (s.modGroup t g (·.setTrace r)).traceSlots t g q r.roundSlot

/-- The event TRAVERSAL_ROUND on queue `q` of group `group` of team `team`. -/
def execTraversalRound (s : State) : Outcome := .next (s.traceRound s.ev.team s.ev.group s.ev.q)

/-! ## The result (R388 to R390) -/

/-- The result of a lane of a word after its last round. -/
def TraceLane.result (x : TraceLane) (sweep : Bool) : W32 :=
  if !x.valid then 0xFFFFFFFD#32
  else if x.deep then 0xFFFFFFFE#32
  else if x.cands.any fun c => !x.culled sweep c then 0xFFFFFFFC#32
  else match x.win with
    | some (_, _, u) => u
    | none => 0xFFFFFFFF#32

/-- What the unit writes into a lane's record: TMAX, or VISIT. -/
def TraceLane.writeBack (x : TraceLane) (sweep : Bool) : Nat × List Byte :=
  if sweep then (x.addr + 0x38, bytesOfNat 8 x.visit) else (x.addr + 0x18, bytesOfNat 4 x.tmax.toNat)

/-- Write the records of the valid lanes at home. -/
def State.writeRecords (s : State) (pid rev : Nat) (sweep : Bool) : List TraceLane → Sum MErr State
  | [] => .inr s
  | x :: xs =>
    if !x.valid then s.writeRecords pid rev sweep xs
    else match s.unitWrite pid rev (x.writeBack sweep).1 (x.writeBack sweep).2 with
      | .inl e => .inl e
      | .inr s => s.writeRecords pid rev sweep xs

/-- Records are written, then the result slot is filled, and the word is done; a lane that was too deep raises 0x242. -/
def State.traceFinish (s : State) (t g : Nat) (r : TraceReq) : State :=
  match s.writeRecords (s.pidOf t) (s.team t).rev r.sweep r.lanes with
  | .inl e => s.traceFail t g r e
  | .inr s =>
    let find (l : Nat) : Option TraceLane := r.lanes.find? (·.lane == l)
    let slot := traceSlot r.id (mkMask fun l => (find l).isSome) (mkLanes fun l => match find l with
      | some x => x.result r.sweep
      | none => 0)
    let s := (s.traceSlots t g r.q slot).modGroup t g fun x => { x with traces := x.traces.filter (·.id != r.id) }
    match r.lanes.find? (·.deep) with
    | some x => s.groupCause t g { cause := 0x242, vaddr := x.addr }
    | none => s

/-- Deliver the result of the request a queue serves, once every round has been passed. -/
def State.traceResult (s : State) (t g q : Nat) : State :=
  s.traceTurn t g q fun s r =>
    if r.round < r.rounds then s
    else match s.traceWalk t r with
      | .inl e => s.traceFail t g r e
      | .inr (r, s) => s.traceFinish t g r

/-- The event TRAVERSAL_RESULT on queue `q` of group `group` of team `team`. -/
def execTraversalResult (s : State) : Outcome := .next (s.traceResult s.ev.team s.ev.group s.ev.q)

/-! ## cacc, crej (10 R261, 16 R390) -/

/-- Whether an accepted distance passes its check. -/
def TraceLane.accepts (x : TraceLane) (sweep : Bool) (c : Cand) (t : W32) : Bool :=
  isFinite32 t &&
    (if sweep then decide (0 ≤ fixW t) && decide (fixW t ≤ fixN 1)
     else Frac.le ⟨c.num, c.den⟩ (fracOf t) && decide (fixW t ≤ fixW x.tmax))

/-- Whether (t, prim) comes before the winner so far. -/
def beats (t : W32) (prim : Nat) : Option (W32 × Nat × W32) → Bool
  | none => true
  | some (u, p, _) => decide (fixW t < fixW u) || (fixW t == fixW u && decide (prim < p))

/-- A decision on a lane's candidate: the first stands. `hit` is the distance and user word of an acceptance. -/
def TraceLane.decide (x : TraceLane) (sweep : Bool) (hit : Option (W32 × Option W32)) : TraceLane :=
  match x.cur with
  | none => x
  | some c =>
    if x.decided then x
    else
      let x : TraceLane := { x with decided := true }
      match hit with
      | none => x
      | some (t, user) =>
        if !x.accepts sweep c t then x
        else
          let x : TraceLane := if beats t c.prim x.win then
              { x with win := some (t, c.prim, user.getD (BitVec.ofNat 32 c.prim)) } else x
          if sweep then x else { x with tmax := t }

/-- Decide on the lanes of a mask of the round in the head slot. -/
def Group.decideTrace (g : Group) (id : Nat) (m : W32) (hit : Nat → Option (W32 × Option W32)) : Group :=
  { g with traces := g.traces.map fun r =>
      if r.id = id then { r with lanes := r.lanes.map fun x => if m.getLsbD x.lane then x.decide r.sweep (hit x.lane) else x }
      else r }

/-- A word that decides on the candidates of the head slot of a delivery queue. -/
def candWord (op : Nat) (r : TRule) (t : Tpl) (p : BitVec 4) (s : State) (hit : TEnv → Nat → Option (W32 × Option W32)) : Outcome :=
  tplWord .x op r t p s (fun _ _ => kindOf t.srcA == 1 && decide (12 ≤ indexOf t.srcA)) fun e s =>
    let q := Team.queue (s.group s.cur.team s.cur.group) (indexOf t.srcA)
    if q.bind != .traversal then s.trapWith 0x248
    else
      let x := q.headSlot
      (s.modCurGroup (·.decideTrace x.source (e.act &&& x.valid) (hit e))).finishTpl op t

def execCacc (t : Tpl) (p : BitVec 4) (s : State) : Outcome :=
  candWord 0x4D { aux := 0x10000 } t p s fun e l =>
    some (lane e.b.lanes l, if e.os 16 then some (lane e.c.lanes l) else none)

def execCrej (t : Tpl) (p : BitVec 4) (s : State) : Outcome := candWord 0x4E {} t p s fun _ _ => none

end Sys2Proof.Machine
end

