-- ==== Sys2Proof/Machine/Faults.lean ====
section
/-!
DEFINITION. The fault service (13 R330 to R332, 14 R354, 16 R391, 17 R407): posting a record, and the two answers; the walks of
the page tables (13 R326) and the invalidation of cached translations (13 R329).
-/
namespace Sys2Proof.Machine

/-! ## Posting (R331) -/

/-- KIND of a fault record. -/
def faultKind : AccessKind → Nat
  | .read => 0
  | .write => 1
  | .atomic => 2
  | .fetch => 3

/-- The team a fault belongs to: of a builder command the issuing one. -/
def Pending.team (p : Pending) : Nat := p.ctx.team

/-- The 32 bytes of a fault record (R331). -/
def State.faultRecord (s : State) (p : Pending) : List Byte :=
  let tm := s.team p.team
  [1, BitVec.ofNat 8 (faultKind p.raise.kind)] ++ bytesOfNat 2 p.raise.cause.toNat ++ bytesOfNat 4 s.fltTag.toNat ++
    bytesOfNat 8 p.raise.vaddr ++ bytesOfNat 2 (s.inst tm.inst).job ++ [BitVec.ofNat 8 p.raise.group, BitVec.ofNat 8 p.raise.stream] ++
    [BitVec.ofNat 8 tm.firstCore, 0, 0, 0] ++ bytesOfNat 8 tm.linear

/-- Address of the next record of a partition's ring. -/
def Part.fltSlot (p : Part) : Nat := p.fltBase.toNat * 2048 + p.fltNext % 64 * 32

/-- Whether a ring slot can take a record: its address reaches memory, and software has cleared its VALID byte. -/
def State.fltFree (s : State) (a : Nat) : Bool := !(s.physTarget a matches .window _) && (s.homeFail a).isNone && s.baseByte a != 1

/-- Post the record of the `n`-th fault of the service, if it has none and its ring has room. -/
def State.postFault (s : State) (n : Nat) : State :=
  match s.pending[n]? with
  | none => s
  | some p =>
    let a := (s.part p.part).fltSlot
    if p.posted || !s.fltFree a then s
    else
      let s := (s.flushPhys a 32).physWrite a (s.faultRecord p)
      let s := s.modPart p.part fun x => { x with fltNext := (x.fltNext + 1) % 64 }
      let s := { s with pending := setAt p s.pending n { p with posted := true, tag := s.fltTag }, fltTag := s.fltTag + 1,
                        out := s.out ++ [OutMsg.fault p.part] }
      s.signalVector (s.part p.part).fltVec.toNat

/-- The event FAULT_RECORD_POST of fault `n`. -/
def execFaultRecordPost (s : State) : Outcome := .next (s.postFault s.ev.n)

/-! ## Answers (R331, R332) -/

/-- The context of a fault issues again. -/
def State.unpark (s : State) (c : Ctx) : State :=
  match c with
  | .c t => s.modCtrl t fun k => { k with parked := false }
  | c => s.modCtx c fun x => { x with parked := false }

/-- A fault is resolved: the context re-issues its word, or the unit goes on where it stopped. -/
def State.resolveFault (s : State) (p : Pending) : State :=
  match p.who with
  | .ctx => s.unpark p.ctx
  | .chan k ch => s.modChan k ch fun h => if h.st == .faulted then { h with st := h.before } else h
  | _ => s

/-- The cause of an unresolved fault of a context. A merge that faulted is applied as far as it can be (19 R443). -/
def State.failCtx (s : State) (c : Ctx) (r : Raise) : State :=
  let t := c.team
  let s := s.unpark c
  let r := { r with serviceable := false, time := s.now }
  let merge : Option Child := match c with
    | .c t => if (s.team t).ctrl.waiting && r.kind == .write then (s.team t).nextMerge else none
    | _ => none
  match merge with
  | some h => (s.applyMerge t h).1.raise t r 1 ((s.team t).ctrl.pc + 4)
  | none => s.raise t r 1 ((s.team t).ctrl.pc + 4)

/-- A fault is unresolved: its cause goes to the disposition, and a unit's command ends (14 R354, 16 R391, 17 R407). -/
def State.failFault (s : State) (p : Pending) : State :=
  let e : MErr := { cause := p.raise.cause, vaddr := p.raise.vaddr, kind := p.raise.kind }
  match p.who with
  | .ctx => s.failCtx p.ctx p.raise
  | .chan k ch =>
    let h := (s.core k).chan ch
    s.chanError k ch p.team ((h.cmd.map (·.addr)).getD h.fetch) e
  | .raster k => match (s.cluster k).rasters with
    | r :: _ => if r.team = p.team then s.rasterEnd k r 3 (some e) else s
    | [] => s
  | .smp t g q slot =>
    match (s.group t g).smps.findIdx? fun r => r.q == q && r.slot == slot with
    | some n => (s.modGroup t g (·.dropSmp n)).groupCause t g e
    | none => s
  | .trace t g id =>
    match (s.group t g).traces.find? (·.id == id) with
    | some r => (s.modGroup t g (·.setTrace { r with failed := true })).groupCause t g e
    | none => s
  | .builder id => match s.lodge.builds.find? (·.id == id) with
    | some c => s.endBuild c { code := 3, cause := some e.cause }
    | none => s

/-- An FLT_ANSWER write of partition `p`: a tag not pending is ignored. -/
def State.answerFault (s : State) (p : Nat) (tag : W32) (f : State → Pending → State) : State :=
  match s.pending.find? fun x => x.posted && x.part == p && x.tag == tag with
  | none => s
  | some x => f { s with pending := s.pending.filter fun y => !(y.posted && y.part == p && y.tag == tag) } x

def fltAnswer (f : State → Pending → State) (s : State) (w : RegWrite) : State :=
  s.answerFault ((w.w0 - 0x0900) / 8) (w.bits.setWidth 32) f

def execFltAnswerResolved (s : State) : Outcome := .next (s.withWrite .fltResolved (fltAnswer State.resolveFault))
def execFltAnswerUnresolved (s : State) : Outcome := .next (s.withWrite .fltUnresolved (fltAnswer State.failFault))

/-! ## Page walks (R326 to R328) -/

/-- The walk a core makes for an address of a team's partition ends: a translation is cached. A walk that fails caches nothing;
its cause is raised at the word that waits, when it issues. -/
def State.pageWalk (s : State) (t va : Nat) : State :=
  let core := (s.team t).core
  if !(s.team t).status.live || decide (2 ^ 51 ≤ va) || (s.cachedTlb core none (s.pidOf t) va).isSome then s
  else match s.walk (clusterOf core) (s.pidOf t) va with
    | .inl _ => s
    | .inr (e, ws) => s.installTlb core e ws

/-- The event PAGE_WALK for address `va` of team `team`. -/
def execPageWalk (s : State) : Outcome := .next (s.pageWalk s.ev.team s.ev.va)

/-! ## TLB_INV (R329) -/

/-- A TLB_INV write is accepted while no invalidation is in progress; else it waits. -/
def tlbStart (s : State) (w : RegWrite) : State :=
  if s.lodge.tlbInv.isEmpty then { s with lodge.tlbInv := [w.bits] } else s

/-- The write of a TLB_INV row, kept in its queue while it waits. -/
def State.tlbWrite (s : State) (row : RegRow) : State := if s.lodge.tlbInv.isEmpty then s.withWrite row tlbStart else s

def execTlbInvPage (s : State) : Outcome := .next (s.tlbWrite .tlbPage)
def execTlbInvPartition (s : State) : Outcome := .next (s.tlbWrite .tlbPart)
def execTlbInvTablePage (s : State) : Outcome := .next (s.tlbWrite .tlbTable)

/-- Whether an invalidation matches a cached translation. -/
def TlbEntry.invalid (e : TlbEntry) (d : Nat) : Bool :=
  match bitsOf d 61 3 with
  | 0 => e.covers (bitsOf d 52 4) (bitsOf d 15 36 * 2 ^ 15)
  | 1 => e.pid == bitsOf d 52 4
  | _ => e.tables.contains (bitsOf d 15 33 * 2 ^ 15)

/-- Whether an invalidation matches a cached table entry. -/
def WalkEntry.invalid (e : WalkEntry) (d : Nat) : Bool :=
  match bitsOf d 61 3 with
  | 0 => e.pid == bitsOf d 52 4 && e.index == ptSlot e.table e.level (bitsOf d 15 36 * 2 ^ 15)
  | 1 => e.pid == bitsOf d 52 4
  | _ => e.table == bitsOf d 15 33 * 2 ^ 15

/-- The invalidation in progress removes every matching entry, and BUSY clears. -/
def State.tlbComplete (s : State) : State :=
  match s.lodge.tlbInv with
  | [] => s
  | d :: ds => { s with tlb := s.tlb.filter (fun e => !e.invalid d.toNat), walks := s.walks.filter (fun e => !e.invalid d.toNat),
                        lodge.tlbInv := ds }

def execTlbInvComplete (s : State) : Outcome := .next s.tlbComplete

/-! ## Bank switch on a fault (R333) -/

/-- Residents of a bank of a core. -/
def State.bankTeams (s : State) (core bank : Nat) : List Nat := (s.residents core).filter fun t => (s.team t).bank == bank

/-- Whether the agent of a core's cluster has a team it could place on an empty bank of the core. -/
def State.agentHasTeam (s : State) (core : Nat) : Bool :=
  let k := clusterOf core
  let s' := s.modCore core fun c => { c with active := 1 - c.active }
  (s.ranked k).any fun i => s.hasWaiting k i && s'.admits core i [] true

/-- The conditions of a bank switch. -/
def State.switchDue (s : State) (core : Nat) : Bool :=
  let c := s.core core
  !c.switching && decide (64 ≤ c.idle) && !((s.residents core).any fun t => (s.team t).status == .resuming) &&
  ((s.bankTeams core c.active).any fun t => (s.team t).status == .running && s.faultParked t) &&
  (((s.bankTeams core (1 - c.active)).any fun t => !s.faultParked t) ||
    ((s.bankTeams core (1 - c.active)).isEmpty && s.agentHasTeam core))

/-- The event FAULT_BANK_SWITCH on core `core`: the pipes stop issuing for the bank and its work drains. -/
def execFaultBankSwitch (s : State) : Outcome :=
  .next (if s.switchDue s.ev.core then s.modCore s.ev.core fun c => { c with switching := true } else s)

/-- Whether a team has nothing left to land but `ldf` words of the wait list. -/
def Team.drained (tm : Team) : Bool := tm.groups.all fun g => g.outst.all fun o => o.kind == .fullEmpty

/-- Whether the active bank of a core has drained. -/
def State.bankDrained (s : State) (core : Nat) : Bool :=
  (s.bankTeams core (s.core core).active).all fun t => (s.team t).drained && !s.hasOps t

end Sys2Proof.Machine
end

