-- ==== Sys2Proof/Machine/Matrix.lean ====
section
/-!
DEFINITION. The M stream (12): issue of matrix words to the array of a core (R288 to R293, 21 R474), operand formats (R296,
R297), the retirement step of each operation (R298 to R308, R312), loops and stream end (R309, R310), and pulled bodies (03
R84 to R86).
-/
namespace Sys2Proof.Machine

/-! ## Fields -/

def MFields.opBits (w : MFields) (lo n : Nat) : Nat := bitsOf w.op.toNat lo n

/-- A ring of a team. -/
def Team.ring (tm : Team) (n : Nat) : Option Ring := tm.rings.getD n none
def Team.setRing (tm : Team) (n : Nat) (r : Ring) : Team := { tm with rings := setAt none tm.rings n (some r) }
def Team.modRing (tm : Team) (n : Nat) (f : Ring → Ring) : Team :=
  match tm.ring n with
  | some r => tm.setRing n (f r)
  | none => tm

/-- Filled slots the M stream sees. -/
def Ring.visible (r : Ring) : Nat := r.f - r.heldFill

/-- The next `n` slots from the read pointer (R293). -/
def Ring.nextSlots (r : Ring) (n : Nat) : List Nat := (List.range n).map fun k => (r.head + r.claimed + k) % r.count

/-! ## Formats (R296, R297) -/

/-- The formats a word reads: fields, indirect, or the latch; none is 0x041. -/
def State.mFormats (s : State) (t : Nat) (w : MFields) (lat : Bool) : Option (Nat × Nat) :=
  let tm := s.team t
  if lat then
    if w.ind ∨ w.fmtA ≠ 0 ∨ w.fmtB ≠ 0 then none
    else tm.latch.map fun p => (p.1.toNat, p.2.toNat)
  else if w.ind then
    let n := (tm.lcReg w.lc.toNat).toNat
    if 15 ≤ n then none
    else match tm.ft.getD n none, tm.ft.getD (n + 1) none with
      | some a, some b => some (a.toNat, b.toNat)
      | _, _ => none
  else some (w.fmtA.toNat, w.fmtB.toNat)

/-- The pairing rule of 08 R188. -/
def pairOk (accf fa fb : Nat) : Bool :=
  let int (c : Nat) : Bool := (8 ≤ c && c ≤ 13) || c = 26
  accf != 1 || (int fa && int fb)

/-! ## Costs (R299, R300, 21 R474) -/

/-- Cycles of a block on an M-core by rate class; a V-core takes sixteen times them. -/
def classCycles (code : Nat) : Nat :=
  if [5, 6, 7, 12, 13, 16, 17, 18, 23, 24, 25, 28, 29].contains code then 16
  else if [1, 2, 9, 26].contains code then 64
  else if code = 0 ∨ code = 8 ∨ code = 31 then 512
  else 32

/-- Cost of a block of an `mma` or `mmas` on a kind of core. -/
def blockCost (mcore sparse : Bool) (fa fb : Nat) : Nat :=
  let c := max (classCycles fa) (classCycles fb) * (if mcore then 1 else 16)
  if sparse then c / 2 else c

/-! ## Issue (R289) -/

/-- The recorded phase of a team's M stream for a barrier: 0 from `bar.init` (R307). -/
def State.mPhase (s : State) (t b : Nat) : W16 :=
  match s.barRec (.m t) b with
  | some r => if r.gone then 0 else r.phase
  | none => 0

/-- Whether the wait of a word is met (R307). -/
def State.mWaitMet (s : State) (t : Nat) (w : MFields) : Bool :=
  !w.waitEn || match s.barrier (s.team t).core w.waitB.toNat with
    | some b => b.phase != s.mPhase t w.waitB.toNat
    | none => false

/-- Whether a wait or post names an uninitialised barrier. -/
def State.mBarMissing (s : State) (t : Nat) (w : MFields) : Bool :=
  let core := (s.team t).core
  (w.waitEn && (s.barrier core w.waitB.toNat).isNone) || (w.postEn && (s.barrier (s.postCore core w.postB.toNat) w.postB.toNat).isNone)

/-- What a word asks of a ring: the ring, slots claimed, KEEP. -/
structure Claim where
  ring : Nat
  n : Nat
  keep : Bool
  deriving DecidableEq, Repr

/-- Whether the claimed slots are filled (R293). -/
def Team.claimReady (tm : Team) (c : Claim) : Bool :=
  match tm.ring c.ring with
  | some r => decide (r.claimed + c.n ≤ r.visible)
  | none => false

def Team.claim (tm : Team) (c : Claim) : Team :=
  if c.keep then tm else tm.modRing c.ring fun r => { r with claimed := r.claimed + c.n }

/-- Slots of a claim. -/
def Team.claimSlots (tm : Team) (c : Claim) : List Nat :=
  match tm.ring c.ring with
  | some r => r.nextSlots c.n
  | none => []

/-- Whether a ring has a slot for an `mreq` (R293). -/
def Team.fillReady (tm : Team) (n : Nat) : Bool :=
  match tm.ring n with
  | some r => decide (r.f + r.heldPop + r.resv < r.count)
  | none => false

/-- Room in the operation queue (R288, 21 R474). -/
def State.mRoom (s : State) (core cost : Nat) : Bool :=
  let ops := (s.core core).mops
  decide ((ops.filter fun o => !o.marker).length < 8) &&
    (!isMCluster (clusterOf core) || decide ((ops.map (·.cost)).sum + cost ≤ s.preMcost))

/-- A wait that is met takes the completed phase (R307). -/
def State.mTakeWait (s : State) (t : Nat) (w : MFields) : State :=
  if w.waitEn then
    match s.barrier (s.team t).core w.waitB.toNat with
    | some b => s.setBarRec { ctx := .m t, bar := w.waitB.toNat, phase := b.phase, arrived := false }
    | none => s
  else s

/-- A word that waits on its barrier is recorded as waiting; the recorded phase and the arrived flag stay (09 R218, R219). -/
def State.mNoteWait (s : State) (t : Nat) (w : MFields) : State :=
  if w.waitEn && !s.mWaitMet t w then
    s.setBarRec { (s.barRec (.m t) w.waitB.toNat).getD { ctx := .m t, bar := w.waitB.toNat, phase := 0, arrived := false } with
                  waiting := true }
  else s

/-- Whether the barrier a word waited on was invalidated (09 R221). -/
def State.mWaitGone (s : State) (t : Nat) (w : MFields) : Bool :=
  w.waitEn && match s.barRec (.m t) w.waitB.toNat with
    | some r => r.gone
    | none => false

/-- What a discard restores of a wait: the recorded phase before the word's issue (R312). -/
def State.mWaitBefore (s : State) (t : Nat) (w : MFields) : Option (Nat × Option BarRec) :=
  if w.waitEn then some (w.waitB.toNat, (s.barRec (.m t) w.waitB.toNat).map fun r => { r with waiting := false }) else none

/-- Issue an operation with its claims, reservation, cost, and what it is limited by (R289, 21 R474). Every issued word takes a place
in the operation queue (R288). Of the conditions of R289 the fourth holds of every word that can issue: while a record of the team is
pulled, the words the team's M context issues are that record's own. -/
def State.mSend (s : State) (t : Nat) (w : MFields) (o : MOp) (claims : List Claim) (fill : Option Nat) (step : Nat)
    (k : State → State) : Eff :=
  let tm := s.team t
  let array := s.arrayOf t
  if s.mWaitGone t w then (s.clearBarRec (.m t) w.waitB.toNat).trapWith 0x1C0
  else if s.mBarMissing t w then s.trapWith 0x1C8
  else if s.preMcost < (if isMCluster (clusterOf array) then o.cost else step) then s.trapWith 0x204
  else if !s.mWaitMet t w || !claims.all tm.claimReady || !(match fill with
      | some n => tm.fillReady n
      | none => true) || !s.mRoom array o.cost then .wait (s.mNoteWait t w)
  else
    let o := { o with team := t, info := s.iw, runBefore := tm.mctx.run, latchBefore := tm.latch, issued := s.cycle,
                      waitBefore := s.mWaitBefore t w }
    let s := s.mTakeWait t w
    let s := s.modTeam t fun tm => claims.foldl Team.claim tm
    let s := match fill with
      | some n => s.modTeam t (·.modRing n fun r => { r with resv := r.resv + 1 })
      | none => s
    .done (k ((s.pushOp o).loopPost t))

/-- A word of the M stream: its field conditions (0x041 at issue, before any other cause of its own; R289), then its effect. -/
def mWord (s : State) (bad : State → Nat → Bool) (f : State → Nat → Eff) : Outcome :=
  s.word [.m] (fun s => f s s.cur.team) (fields := fun s => badField (bad s s.cur.team) s)

/-- Whether a ring is loaded with slots of at least `bytes` and at least `n` of them. -/
def Team.ringOk (tm : Team) (ring n bytes : Nat) : Bool :=
  match tm.ring ring with
  | some r => decide (n ≤ r.count) && decide (bytes ≤ r.slotBytes)
  | none => false

/-- Whether a tile is the team's. -/
def Team.tileOk (tm : Team) (n : Nat) : Bool := decide (n < tm.tiles.length)

/-! ## Words -/

def execMzero (w : MFields) (s : State) : Outcome :=
  mWord s (fun s t => !(s.team t).tileOk w.acc.toNat) fun s t =>
    s.mSend t w { team := t, instr := .mzero w, cost := 8 } [] none 8 id

/-- The field conditions of `mma` and `mmas` (R298). -/
def mmaBad (sparse : Bool) (w : MFields) (s : State) (t : Nat) : Bool :=
  let tm := s.team t
  let kb := MFields.opBits w 0 5
  match s.mFormats t w (w.op.getLsbD 8) with
  | none => true
  | some (fa, fb) =>
    MFields.opBits w 9 7 != 0 || kb == 0 || decide (16 < kb) || !tm.tileOk w.acc.toNat || w.ringA == w.ringB ||
      (w.op.getLsbD 5 && !(decide (fb ≤ 4) || (decide (8 ≤ fb) && decide (fb ≤ 11)) || fb == 26 || fb == 31)) ||
      !pairOk w.accf.toNat fa fb ||
      !tm.ringOk w.ringA.toNat kb (blockBytes sparse fa) || !tm.ringOk w.ringB.toNat kb (blockBytes false fb)

/-- `mma` and `mmas` (R298). -/
def mmaWord (sparse : Bool) (i : Instr) (w : MFields) (s : State) : Outcome :=
  mWord s (mmaBad sparse w) fun s t =>
    let tm := s.team t
    let kb := MFields.opBits w 0 5
    let keepA := w.op.getLsbD 6
    let keepB := w.op.getLsbD 7
    let (fa, fb) := (s.mFormats t w (w.op.getLsbD 8)).getD (0, 0)
    let ca : Claim := { ring := w.ringA.toNat, n := kb, keep := keepA }
    let cb : Claim := { ring := w.ringB.toNat, n := kb, keep := keepB }
    let block := blockCost (isMCluster (clusterOf (s.arrayOf t))) sparse fa fb
    let o : MOp := { team := t, instr := i, fmtA := fa, fmtB := fb, slotsA := tm.claimSlots ca, slotsB := tm.claimSlots cb,
                     popA := if keepA then 0 else kb, popB := if keepB then 0 else kb, cost := kb * block }
    s.mSend t w o [ca, cb] none (block / 32) id

def execMma (w : MFields) (s : State) : Outcome := mmaWord false (.mma w) w s
def execMmas (w : MFields) (s : State) : Outcome := mmaWord true (.mmas w) w s

/-- The rounding mode of an `mreq` or `mst` word: none for 5, 6, and for 7 with FPCTL.MODE at SR (R301, R306). -/
def Team.mMode (tm : Team) (code : Nat) : Option Nat :=
  if code ≤ 4 then some code
  else if code = 7 ∧ tm.fpMode.toNat ≠ 5 then some tm.fpMode.toNat
  else none

/-- The field conditions of `mreq` (R301, R302). -/
def mreqBad (w : MFields) (s : State) (t : Nat) : Bool :=
  let tm := s.team t
  match s.mFormats t w (w.op.getLsbD 6), tm.mMode (MFields.opBits w 1 3) with
  | some (src, dst), some _ =>
    MFields.opBits w 7 9 != 0 || w.ringA == w.ringB || !reqCode dst || (w.op.getLsbD 0 && (src == 22 || src == 25 || src == 30)) ||
      !tm.ringOk w.ringA.toNat 1 (blockBytes false src) || !tm.ringOk w.ringB.toNat 1 (blockBytes false dst)
  | _, _ => true

def execMreq (w : MFields) (s : State) : Outcome :=
  mWord s (mreqBad w) fun s t =>
    let tm := s.team t
    let keep := w.op.getLsbD 5
    let (src, dst) := (s.mFormats t w (w.op.getLsbD 6)).getD (0, 0)
    let c : Claim := { ring := w.ringA.toNat, n := 1, keep := keep }
    let o : MOp := { team := t, instr := .mreq w, fmtA := src, fmtB := dst, mode := (tm.mMode (MFields.opBits w 1 3)).getD 0,
                     slotsA := tm.claimSlots c, popA := if keep then 0 else 1, cost := 64 }
    s.mSend t w o [c] (some w.ringB.toNat) 64 id

/-- Slot bytes an `mld` needs (R305). -/
def mldBytes (accf : Nat) : Nat := if accf = 2 then 8192 else 16384

def execMld (w : MFields) (s : State) : Outcome :=
  mWord s (fun s t => MFields.opBits w 2 14 != 0 || !(s.team t).tileOk w.acc.toNat ||
      !(s.team t).ringOk w.ringA.toNat 1 (mldBytes w.accf.toNat)) fun s t =>
    let keep := w.op.getLsbD 1
    let c : Claim := { ring := w.ringA.toNat, n := 1, keep := keep }
    let o : MOp := { team := t, instr := .mld w, slotsA := (s.team t).claimSlots c, popA := if keep then 0 else 1, cost := 32 }
    s.mSend t w o [c] none 32 id

/-- Bytes of the region of an `mst` (R306). -/
def mstBytes (d : Nat) : Nat := 512 * elemBits d + (if 14 ≤ d ∧ d ≤ 19 then 128 else 0)

/-- The field conditions of `mst` (R306). -/
def mstBad (w : MFields) (s : State) (t : Nat) : Bool :=
  ((s.team t).mMode (MFields.opBits w 8 3)).isNone || MFields.opBits w 13 3 != 0 || !mstCode (MFields.opBits w 3 5) ||
    !(s.team t).tileOk w.acc.toNat

def execMst (w : MFields) (s : State) : Outcome :=
  mWord s (mstBad w) fun s t =>
    let tm := s.team t
    let d := MFields.opBits w 3 5
    let off := (tm.lcReg (MFields.opBits w 0 3)).toNat
    if off % 64 ≠ 0 then s.trapWith 0x0C1
    else if (s.inst tm.inst).image.scratchBytes < off + mstBytes d then s.trapWith 0x0C0
    else s.mSend t w { team := t, instr := .mst w, fmtA := d, mode := (tm.mMode (MFields.opBits w 8 3)).getD 0, offset := off, cost := 32 }
      [] none 32 id

def execMbar (w : MFields) (s : State) : Outcome :=
  mWord s (fun _ _ => false) fun s t => s.mSend t w { team := t, instr := .mbar w } [] none 0 id

/-- The field conditions of `mfmt` (R297). -/
def mfmtBad (w : MFields) (s : State) (t : Nat) : Bool :=
  MFields.opBits w 1 15 != 0 ||
    (if w.op.getLsbD 0 then w.ind || w.fmtA != 0 || w.fmtB != 0 else (s.mFormats t w false).isNone)

/-- `mfmt` (R297): the latch takes effect in issue order. -/
def execMfmt (w : MFields) (s : State) : Outcome :=
  mWord s (mfmtBad w) fun s t =>
    let latch := if w.op.getLsbD 0 then none
      else (s.mFormats t w false).map fun p => (BitVec.ofNat 5 p.1, BitVec.ofNat 5 p.2)
    s.mSend t w { team := t, instr := .mfmt w } [] none 0 fun s => s.modTeam t fun x => { x with latch := latch }

/-- The field conditions of `mloop` in a record (R309). -/
def RecRun.loopBad (r : RecRun) (w : MFields) : Bool :=
  let len := MFields.opBits w 0 8
  len == 0 || decide (64 < len) || MFields.opBits w 8 8 == 0 || decide (r.body.length < r.pos + 1 + len) ||
    ((r.body.drop (r.pos + 1)).take len).any fun x => [8, 9, 10].contains (bitsOf x.toNat 58 6)

/-- A condition on the record a team's M context runs. -/
def State.mRecord (s : State) (t : Nat) (p : RecRun → Bool) : Bool :=
  match (s.team t).mctx.run with
  | some r => p r
  | none => false

/-- `mloop` (R309): its own place in the queue carries no post; that follows the last word of the loop. -/
def execMloop (w : MFields) (s : State) : Outcome :=
  mWord s (fun s t => !s.mRecord t fun r => !r.loopBad w) fun s t =>
    let post (x : RecRun) : LoopPost := { instr := .mloop w, info := s.iw, count := x.count, sig := x.sig, latch := (s.team t).latch,
                                          wait := s.mWaitBefore t w }
    s.mSend t w { team := t, instr := .mloop { w with postEn := false, postB := 0 } } [] none 0 fun s =>
      s.modRun (.m t) fun x => { x with loopStart := x.pos + 1, loopLen := MFields.opBits w 0 8, loopLeft := MFields.opBits w 8 8 - 1,
                                        loopOp := if w.postEn then some (post x) else none }

/-- `mend` (R310): legal only as the last word of a record's epilogue. -/
def execMend (w : MFields) (s : State) : Outcome :=
  mWord s (fun s t => !s.mRecord t fun r => r.st == .epilogue && r.pos + 1 == r.epi.length) fun s t =>
    s.mSend t w { team := t, instr := .mend w } [] none 0 fun s => s.modTeam t fun x => { x with mEnded := true }

/-- `mrel` (06 R147): legal only as the first word of a record's body. -/
def execMrel (w : MFields) (s : State) : Outcome :=
  mWord s (fun s t => !s.mRecord t fun r => r.pos == 0 && (r.st == .prologue || (r.st == .kernel && r.pro.isEmpty))) fun s t =>
    s.mSend t w { team := t, instr := .mrel w } [] none 0 id

/-! ## Retirement (R288, R298 to R308, R312) -/

/-- The bytes of a ring slot. -/
def Team.slotBytes (tm : Team) (ring slot n : Nat) : List Byte :=
  match tm.ring ring with
  | some r => (tm.scratch.drop (r.base + slot * r.slotBytes)).take n
  | none => []

/-- A tile of a team. -/
def Team.tileOf (tm : Team) (n : Nat) : List W32 := tm.tiles.getD n []
def Team.setTile (tm : Team) (n : Nat) (x : List W32) : Team := { tm with tiles := setAt [] tm.tiles n x }

/-- Operand blocks of an `mma` or `mmas`: lines of A, columns of B. -/
def Team.operands (tm : Team) (o : MOp) (w : MFields) (sparse : Bool) : List (List (List Val) × List (List Val)) :=
  List.zipWith (fun sa sb =>
    let a := tm.slotBytes w.ringA.toNat sa (blockBytes sparse o.fmtA)
    let b := tm.slotBytes w.ringB.toNat sb (blockBytes false o.fmtB)
    (if sparse then sparseLines o.fmtA a else denseLines o.fmtA 64 128 a,
     if w.op.getLsbD 5 then transposeLines 64 (denseLines o.fmtB 128 64 b) else denseLines o.fmtB 64 128 b)) o.slotsA o.slotsB

/-- Perform `n` steps of an `mma` or `mmas` from its next step (R300). -/
def Team.mmaRun (tm : Team) (o : MOp) (w : MFields) (sparse : Bool) (n : Nat) : Team :=
  tm.setTile w.acc.toNat
    (mmaSteps o.fmtA o.fmtB w.accf.toNat (tm.operands o w sparse) o.step n (tm.tileOf w.acc.toNat))

/-- Steps of an operation on a V-core. -/
def MOp.steps (o : MOp) : Nat := o.slotsA.length * 32

/-- The lines an `mreq` writes (R302). -/
def Team.reqLines (tm : Team) (o : MOp) (w : MFields) : List (List Val) :=
  let bs := tm.slotBytes w.ringA.toNat (o.slotsA.headD 0) (blockBytes false o.fmtA)
  if w.op.getLsbD 0 then transposeLines 64 (denseLines o.fmtA 128 64 bs) else denseLines o.fmtA 64 128 bs

/-- The bytes an `mst` writes (R306). -/
def Team.mstData (tm : Team) (o : MOp) (w : MFields) : List Byte :=
  let tile := tm.tileOf w.acc.toNat
  let at2 (r c : Nat) : W32 := tile.getD (if w.op.getLsbD 12 then c * 64 + r else r * 64 + c) 0
  let accf := w.accf.toNat
  let own := if accf = 1 then 8 else if accf = 2 then 1 else 0
  if o.fmtA = own then
    (List.range 64).flatMap fun r => packElems (elemBits own) ((List.range 64).map fun c => (at2 r c).toNat)
  else
    writeLines o.fmtA (rmodeOf o.mode 0) (w.op.getLsbD 11)
      ((List.range 64).map fun r => (List.range 64).map fun c => accVal accf (at2 r c))

/-- The tile an `mld` writes (R305). -/
def Team.mldTile (tm : Team) (o : MOp) (w : MFields) : List W32 :=
  let b := if w.accf = 2 then 2 else 4
  let bs := tm.slotBytes w.ringA.toNat (o.slotsA.headD 0) (mldBytes w.accf.toNat)
  (List.range 4096).map fun i =>
    let e := if w.op.getLsbD 0 then i % 64 * 64 + i / 64 else i
    BitVec.ofNat 32 (sliceNat bs (e * b) b)

/-- The copy of a team's tile that a core which pulled its record holds (03 R85). -/
def State.tileCopy (s : State) (t n : Nat) : Option (List W32) :=
  s.cores.findSome? fun c => if c.pulled = some t then (c.copies.find? (·.1 == n)).map (·.2) else none

/-- A team as its array sees it: the tiles a pulled body names are the puller's copies (03 R85). -/
def State.arrayTeam (s : State) (t : Nat) : Team :=
  { s.team t with tiles := (s.team t).tiles.mapIdx fun n x => (s.tileCopy t n).getD x }

/-- Write a tile where a team's array works on it: the puller's copy, or the team's own. -/
def State.setArrayTile (s : State) (t n : Nat) (x : List W32) : State :=
  if (s.tileCopy t n).isSome then
    { s with cores := s.cores.map fun (c : Core) =>
        if c.pulled = some t then ({ c with copies := c.copies.map fun p => if p.1 = n then (n, x) else p } : Core) else c }
  else s.modTeam t (·.setTile n x)

/-- The tile an operation leaves, if it writes one. -/
def Team.opTile (tm : Team) (o : MOp) : Option (Nat × List W32) :=
  match o.instr with
  | .mzero w => some (w.acc.toNat, List.replicate 4096 0)
  | .mma w => some (w.acc.toNat, (tm.mmaRun o w false (o.steps - o.step)).tileOf w.acc.toNat)
  | .mmas w => some (w.acc.toNat, (tm.mmaRun o w true (o.steps - o.step)).tileOf w.acc.toNat)
  | .mld w => some (w.acc.toNat, tm.mldTile o w)
  | _ => none

/-- The tile, scratchpad and ring-slot effect of an operation's retirement step; the tile writes of a team that a trap has ended are
dropped (R313). -/
def State.opEffect (s : State) (o : MOp) : State :=
  let t := o.team
  let tm := s.arrayTeam t
  match tm.opTile o with
  | some (n, x) => if tm.status = .stopped then s else s.setArrayTile t n x
  | none =>
    match o.instr with
    | .mst w => s.storeScratch t o.offset (tm.mstData o w) true
    | .mreq w =>
      match tm.ring w.ringB.toNat with
      | none => s
      | some r =>
        let bs := writeLines o.fmtB (rmodeOf o.mode 0) (w.op.getLsbD 4) (tm.reqLines o w)
        (s.storeScratch t (r.base + r.tail * r.slotBytes) bs false).modTeam t (·.setRing w.ringB.toNat
          { r with tail := (r.tail + 1) % r.count, f := r.f + 1, resv := r.resv - 1 })
    | _ => s

/-- The pops of an operation's claims (R293). -/
def State.opPops (s : State) (o : MOp) : State :=
  match o.instr.mat? with
  | none => s
  | some (_, w) =>
    let held := s.idempotent (.m o.team)
    let pop (n : Nat) (r : Ring) : Ring :=
      { r with head := (r.head + n) % r.count, f := r.f - n, claimed := r.claimed - n,
               heldPop := if held then r.heldPop + n else r.heldPop }
    s.modTeam o.team fun tm =>
      let tm := if o.popA = 0 then tm else tm.modRing w.ringA.toNat (pop o.popA)
      if o.popB = 0 then tm else tm.modRing w.ringB.toNat (pop o.popB)

/-- The arrival of an operation's post (R307); a barrier invalidated meanwhile receives none. -/
def State.opPost (s : State) (o : MOp) : State :=
  match o.instr.mat? with
  | some (_, w) =>
    if !w.postEn || o.postGone then s
    else
      let n := w.postB.toNat
      let core := s.postCore (s.team o.team).core n
      match s.barrier core n with
      | none => s
      | some b => (s.setBarRec { ctx := .m o.team, bar := n, phase := b.phase, arrived := true }).setBarrier core n b.arrive
  | none => s

/-- Whether an operation's post is a second arrival in a phase. -/
def State.opTwice (s : State) (o : MOp) : Bool :=
  match o.instr.mat? with
  | some (_, w) => w.postEn && !o.postGone && match
        s.barrier (s.postCore (s.team o.team).core w.postB.toNat) w.postB.toNat, s.barRec (.m o.team) w.postB.toNat with
      | some b, some r => r.arrived && r.phase == b.phase && !r.gone
      | _, _ => false
  | none => false

/-- Bytes of a slot an operation reads, by operand. -/
def MOp.readBytes (o : MOp) (second : Bool) : Nat :=
  match o.instr with
  | .mma _ => blockBytes false (if second then o.fmtB else o.fmtA)
  | .mmas _ => if second then blockBytes false o.fmtB else blockBytes true o.fmtA
  | .mreq _ => blockBytes false o.fmtA
  | .mld w => mldBytes w.accf.toNat
  | _ => 0

/-- Whether a range of a team's scratchpad holds uncorrectable bytes. -/
def State.rangeBad (s : State) (t a n : Nat) : Bool :=
  s.badStore.any fun b => b.1 == t && match b.2.2 with
    | .scratch w => decide (4 * w < a + n) && decide (a < 4 * w + 4)
    | _ => false

/-- The cause an operation's retirement raises (R312). -/
def State.opCause (s : State) (o : MOp) : Option Cause :=
  match o.instr.mat? with
  | none => none
  | some (op, w) =>
    let tm := s.team o.team
    let bad (ring : Nat) (slots : List Nat) (n : Nat) : Bool := match tm.ring ring with
      | some r => slots.any fun k => s.rangeBad o.team (r.base + k * r.slotBytes) n
      | none => false
    if bad w.ringA.toNat o.slotsA (o.readBytes false) || bad w.ringB.toNat o.slotsB (o.readBytes true) then some 0x143
    else if (op == 1 || op == 2 || op == 4) && s.badStore.any (fun b => b.1 == o.team && b.2.2 == .tile w.acc.toNat) then some 0x144
    else if s.opTwice o then some 0x1C2
    else none

/-- Operations of a team in an array's queue, in issue order. -/
def State.teamOps (s : State) (t : Nat) : List MOp := (s.core (s.arrayOf t)).mops.filter fun o => o.team == t

/-- A cause at retirement discards the operation and every later one of the team: claims and reservations return to zero, and
the record, the latch and the waits taken are as before its issue (R312). -/
def State.discardFrom (s : State) (o : MOp) : State :=
  let t := o.team
  let waits := ((s.teamOps t).map (·.waitBefore)).reverse
  let s := waits.foldl (fun (s : State) w => match w with
    | some (b, some r) => s.setBarRec { r with bar := b }
    | some (b, none) => s.clearBarRec (.m t) b
    | none => s) s
  let s := (s.dropOps t).modTeam t fun tm =>
    { tm.mapRings (fun r => { r with claimed := 0, resv := 0 }) with latch := o.latchBefore, mEnded := false }
  match o.runBefore with
  | some r => s.modCtx (.m t) fun x => { x with run := some r, parked := false }
  | none => s

/-- An operation's whole storage overwritten is sound again (20 R450). -/
def State.opRepair (s : State) (o : MOp) : State :=
  match o.instr with
  | .mzero w => { s with badStore := s.badStore.filter fun b => !(b.1 == o.team && b.2.2 == .tile w.acc.toNat) }
  | .mld w => { s with badStore := s.badStore.filter fun b => !(b.1 == o.team && b.2.2 == .tile w.acc.toNat) }
  | _ => s

/-- A pull ends once its record has retired with every operation (03 R85). -/
def State.checkPull (s : State) (t : Nat) : State :=
  if (s.team t).mctx.idle && !s.hasOps t then s.endPull t else s

/-- The retirement step of the oldest operation of an array. A cause in a team that a trap has ended raises nothing (R313). -/
def State.retireOp (s : State) (core : Nat) : State :=
  match (s.core core).mops with
  | [] => s
  | o :: rest =>
    let retired := s.modCore core fun c => { c with mops := rest }
    match s.opCause o with
    | some c =>
      if (s.team o.team).status = .stopped then retired
      else
        let r : Raise := { cause := c, ctx := some (.m o.team), stream := 3, pc := o.info.pc, group := 0,
                           regionPc := s.regionPc (.m o.team), time := s.now }
        (s.discardFrom o).raise o.team r 1 0
    | none => ((((retired.opEffect o).opPops o).opPost o).opRepair o).checkPull o.team

/-- Whether an array works: it holds an operation of a team that runs, that parks on an M-core (R300, R313), or that a trap has ended. -/
def State.arrayRuns (s : State) (core : Nat) : Bool :=
  match (s.core core).mops with
  | [] => false
  | o :: _ =>
    let st := (s.team o.team).status
    (st == .running || st == .stopped || (st == .parked && isMCluster (clusterOf core))) && !(s.cluster (clusterOf core)).thermalStop

/-- The event M_OP_RETIRE on core `core`. -/
def execMOpRetire (s : State) : Outcome := .next (if s.arrayRuns s.ev.core then s.retireOp s.ev.core else s)

/-! ## Pulled bodies (03 R84 to R86) -/

/-- Tiles the words of a record name. -/
def recTiles (r : RecRun) : List Nat :=
  ((r.pro ++ r.ker ++ r.epi).filterMap fun w =>
    let x := w.toNat
    if [0, 1, 2, 4, 5].contains (bitsOf x 58 6) then some (bitsOf x 49 3) else none).eraseDups

/-- Whether a core may pull a team's record (R84). -/
def State.canPull (s : State) (core t : Nat) : Bool :=
  let tm := s.team t
  let k := clusterOf core
  isMCluster k && clusterOf tm.core == k && tm.core != core && bitsOf (s.inst tm.inst).image.flags 0 1 == 1 &&
  s.teamIssues t && (s.core core).pulled.isNone && (s.core core).mops.isEmpty && !s.hasOps t &&
  !s.cores.any (·.pulled == some t) &&
  ((s.residents core).all fun u => (s.team u).bank != (s.core core).active || (s.team u).mctx.idle) &&
  match tm.mctx.run with
  | none => false
  | some r =>
    r.pos == 0 && r.iter == 0 && (r.st == .prologue || (r.st == .kernel && r.pro.isEmpty)) &&
    bitsOf (((r.pro ++ r.ker).headD 0).toNat) 58 6 == 10 &&
    decide (((s.residents core).map fun u => (s.inst (s.team u).inst).image.accTiles).sum + (recTiles r).length ≤ 8)

/-- The event BODY_PULL: core `core` pulls the record of team `team`, with copies of its tiles (03 R85). -/
def execBodyPull (s : State) : Outcome :=
  let t := s.ev.team
  .next (if s.canPull s.ev.core t then
    s.modCore s.ev.core fun c =>
      { c with pulled := some t
               copies := match (s.team t).mctx.run with
                 | some r => (recTiles r).map fun n => (n, (s.team t).tileOf n)
                 | none => [] }
  else s)

end Sys2Proof.Machine
end

