-- ==== Sys2Proof/Machine/Preempt.lean ====
section
/-!
DEFINITION. Pre-emption, bank switch, migration and swap: the arrival of a signal (21 R468), the drain of a parked team (R469), bank
transfer or spill (R470), the return of a team, the streamer's copy and the forwarding entry (03 R79 to R82), the switch of the
banks on a fault (13 R333), and the context swap of a partition (21 R477).
-/
namespace Sys2Proof.Machine

/-! ## The signal (R468) -/

/-- The signal an agent sent reaches every context of a team. -/
def State.signalTeam (s : State) (t : Nat) : State :=
  let tm := s.team t
  if tm.status == .running && tm.sent != .none && tm.signal == .none then
    (s.modTeam t fun x => { x with signal := x.sent }).checkPark t
  else s

/-- The event SIGNAL_ARRIVAL at team `team`. -/
def execSignalArrival (s : State) : Outcome := .next (s.signalTeam s.ev.team)

/-! ## The drain (R469) -/

/-- The copy channels of a draining team pause where they stand (14 R353). -/
def pauseChans (t : Nat) (c : Core) : Core :=
  { c with chans := c.chans.map fun (h : Chan) =>
      if h.owner != some t then h
      else match h.st with
        | .running => ({ h with st := .paused, before := .running } : Chan)
        | .waiting => ({ h with st := .paused, before := .waiting } : Chan)
        | .faulted => ({ h with st := .paused } : Chan)
        | _ => h }

/-- The operations of a team on its core's array move into its task control block (12 R300): of the operation in progress `n`
further steps have been performed. -/
def State.stashOps (s : State) (t n : Nat) : State :=
  let core := s.arrayOf t
  let mine := (s.core core).mops.filter (·.team == t)
  let first : Bool := ((s.core core).mops.head?.map (·.team)) == some t
  let s := s.modCore core fun c => { c with mops := c.mops.filter (·.team != t) }
  match mine, first with
  | o :: os, true =>
    match o.instr with
    | .mma w =>
      let k := min n (o.steps - o.step - 1)
      s.modTeam t fun tm => { (tm.mmaRun o w false k) with mops := { o with step := o.step + k } :: os }
    | .mmas w =>
      let k := min n (o.steps - o.step - 1)
      s.modTeam t fun tm => { (tm.mmaRun o w true k) with mops := { o with step := o.step + k } :: os }
    | _ => s.modTeam t fun tm => { tm with mops := mine }
  | _, _ => s.modTeam t fun tm => { tm with mops := mine }

/-- Whether a parked team's issued work has reached its defined state. On an M-core every operation retires first. -/
def State.drainDone (s : State) (t : Nat) : Bool :=
  (s.team t).status == .parked && (s.team t).drained && (!isMCluster (clusterOf (s.team t).core) || !s.hasOps t)

/-! ## Bank transfer or spill (R470) -/

/-- Whether the inactive bank of a core admits a team under the team, group and register limits. -/
def State.bankTakes (s : State) (core i : Nat) : Bool :=
  let here := s.bankTeams core (1 - (s.core core).active)
  let need (t : Nat) : Inst := s.inst (s.team t).inst
  decide (here.length + 1 ≤ 4) &&
  decide ((here.map fun t => (need t).card.groups).sum + (s.inst i).card.groups ≤ 16) &&
  decide ((here.map fun t => (need t).vregDemand).sum + (s.inst i).vregDemand ≤ 1024)

/-- The scratchpad and tile limits of R70 for an instance's team beside the residents of a core but some. -/
def State.roomFor (s : State) (core i : Nat) (leaving : List Nat) : Bool :=
  let rs := (s.residents core).filter fun t => !leaving.contains t
  let need (t : Nat) : Image := (s.inst (s.team t).inst).image
  decide ((rs.map fun t => (need t).scratchBytes).sum + s.lingering core + (s.inst i).image.scratchBytes ≤ 262144) &&
  decide ((rs.map fun t => (need t).accTiles).sum + (s.core core).copies.length + (s.inst i).image.accTiles ≤ 8)

/-- The waiting team of an instance that the active bank of a core would take once team `t` has left: none, or the residents its
return removes. -/
def State.taker (s : State) (core t i : Nat) : Option (List Nat) :=
  let k := clusterOf core
  match s.returningSorted k i with
  | u :: _ =>
    if (s.team u).status == .spilled then
      (if s.admits core i [t] false && s.barriersFree u core && s.chansFree u core then some [] else none)
    else if (s.team u).core == core && s.admits core i [t, u] false then some [u] else none
  | [] =>
    let waits := !(s.waitingChildren k i).isEmpty || match (s.inst i).shareAt k with
      | some sh => sh.takeLow.isSome && (s.inst i).st != .failed
      | none => false
    if waits && s.admits core i [t] true then some [] else none

/-- Whether a parked team's context moves to the inactive bank. -/
def State.banks (s : State) (t : Nat) : Bool :=
  let core := (s.team t).core
  s.bankTakes core (s.team t).inst &&
  match (s.ranked (clusterOf core)).findSome? fun i => (s.taker core t i).map fun l => (i, l) with
  | some (i, l) => s.roomFor core i l
  | none => true

/-- A team has drained: bank transfer, spill, or the streamer's copy. -/
def State.drainTeam (s : State) (t n : Nat) : State :=
  if !s.drainDone t then s
  else
    let s := ((s.stashOps t n).endPull t).serveTeam t
    let cs := s.cores.map (pauseChans t)
    let s := { s with cores := cs }
    let set (x : TeamStatus) (s : State) : State := s.modTeam t fun y => { y with status := x }
    match (s.team t).signal with
    | .migrate => if s.canTake t (s.team t).target then (s.startMigrate t (s.team t).target).leftCluster t
      else set (if s.banks t then .toBank else .toShadow) s
    | .swap => set .toShadow s
    | _ => set (if s.banks t then .toBank else .toShadow) s

/-- The event DRAIN_COMPLETE of team `team`; on a V-core the array stops `n` steps later. -/
def execDrainComplete (s : State) : Outcome := .next (s.drainTeam s.ev.team s.ev.n)

/-- An instance with no team on a core and teams still to run is SUSPENDED (02 R53). -/
def State.checkSuspended (s : State) (i : Nat) : State :=
  let on (t : Nat) : Bool := match (s.team t).status with
    | .running => true
    | .parked => true
    | .toBank => true
    | .toShadow => true
    | .resuming => true
    | .migrating => true
    | _ => false
  if (s.inst i).st == .running && !((s.instTeams i).any on) then s.modInst i fun x => { x with st := .suspended } else s

/-- A team's slots are free: a team that yielded or joins hands its slot over, its instance may be SUSPENDED, and the agent
decides (02 R57). -/
def State.slotsFree (s : State) (t : Nat) (how : SignalKind) : State :=
  (((s.leftCluster t).handOver t how).checkSuspended (s.team t).inst).agentDecide (clusterOf (s.team t).core)

/-- The context of a team has moved whole into the inactive bank. -/
def State.bankTransfer (s : State) (t : Nat) : State :=
  if (s.team t).status != .toBank then s
  else
    let bank := 1 - (s.core (s.team t).core).active
    (s.modTeam t fun x => { x with status := .suspended, bank := bank, sent := .none, signal := .none,
                                   share := clusterOf x.core }).slotsFree t (s.team t).signal

/-- The event BANK_TRANSFER_COMPLETE of team `team`. -/
def execBankTransferComplete (s : State) : Outcome := .next (s.bankTransfer s.ev.team)

/-- The context of a team has been written to shadow storage; its private bytes are written back (13 R318). -/
def State.spillTeam (s : State) (t : Nat) : State :=
  if (s.team t).status != .toShadow then s
  else
    ((s.flushPriv t).modTeam t fun x => { x with status := .spilled, sent := .none, signal := .none,
                                                 share := clusterOf x.core }).slotsFree t (s.team t).signal

/-- The event SPILL_COMPLETE of team `team`. -/
def execSpillComplete (s : State) : Outcome := .next (s.spillTeam s.ev.team)

/-! ## The return (R470, 07 R161, 02 R54) -/

/-- The paused channels of a team go on where they stopped; one that waits for the fault service stays FAULTED. -/
def State.resumeChans (s : State) (t : Nat) : State :=
  let k := (s.team t).core
  (List.range 8).foldl (fun (s : State) n =>
    let h := (s.core k).chan n
    if h.owner = some t ∧ h.st = .paused then
      let st := if s.pending.any (·.who == FaultBy.chan k n) then .faulted else h.before
      s.modChan k n fun h => { h with st := st }
    else s) s

/-- A context's bodies are copied again, and a PARKED record goes on at its next iteration. A copy that fails parks the context
or raises its cause. -/
def State.resumeCtx (s : State) (c : Ctx) : State :=
  match (s.ctxState c).run with
  | none => s
  | some r =>
    if !(r.st.issues || r.st == .parked) then s
    else
      let s := if r.st == .parked then
          s.modRun c fun x => { x with st := .kernel, pos := 0, count := 0, sig := 0, spanStart := s.cycle, late := false,
                                       gen0 := s.genOf c }
        else s
      match s.copyBodies c r with
      | .inr s => s
      | .inl (e, va) => if (s.ctxState c).parked || (s.ctxState c).stopped then s
        else s.raise c.team (s.ctxRaise c va e) 0 0

/-- The contexts of a team but the C stream's. -/
def State.bodyCtxs (s : State) (t : Nat) : List Ctx :=
  ((List.range (s.team t).groups.length).flatMap fun g => [Ctx.a t g, Ctx.x t g]) ++ [.m t]

/-- A team issues again on its core. -/
def State.resumeTeam (s : State) (t : Nat) : State :=
  let s := { s with lodge.forwards := s.lodge.forwards.map fun (f : Forward) =>
      if f.team = t ∧ f.resumed.isNone then { f with resumed := some s.now, dest := (s.team t).core } else f }
  let ops := (s.team t).mops
  let s := s.modTeam t fun x =>
    { x with status := .running, sent := .none, signal := .none, mops := [],
             ctrl := { x.ctrl with atCheckpoint := false, spanStart := s.cycle, late := false } }
  let s := ((s.dropCode (s.team t).core).modCore (s.team t).core fun c => { c with mops := c.mops ++ ops }).resumeChans t
  ((s.bodyCtxs t).foldl (fun (s : State) c => s.resumeCtx c) s).instRuns (s.team t).inst

/-- The event TEAM_RESUME of team `team`. -/
def execTeamResume (s : State) : Outcome :=
  .next (if (s.team s.ev.team).status == .resuming then s.resumeTeam s.ev.team else s)

/-! ## Migration (03 R80 to R82) -/

/-- The streamer's copy ends: release on the old core, acquire on the new, and the team resumes there. A target that admits the
team no longer is not taken; the team then waits in shadow storage. -/
def State.streamTeam (s : State) (t : Nat) : State :=
  let tm := s.team t
  if tm.status != .migrating then s
  else if !s.canTake t tm.target then
    ((s.flushPriv t).modTeam t fun x => { x with status := .spilled, sent := .none, signal := .none }).slotsFree t .none
  else
    let s := (s.sampFirst tm.inst (clusterOf tm.target)).moveTeam t tm.target
    let s := s.modTeam t fun x => { x with bank := (s.core tm.target).active }
    (s.resumeTeam t).agentDecide (clusterOf tm.core)

/-- The event STREAMER_COPY_COMPLETE of team `team`. -/
def execStreamerCopyComplete (s : State) : Outcome := .next (s.streamTeam s.ev.team)

/-- Whether an operation a team issued before it moved is outstanding. -/
def State.movedPending (s : State) (t : Nat) : Bool := (s.team t).groups.any fun g => g.outst.any (·.moved) || g.smps.any (·.moved)

/-- A forwarding entry of a team ends 8,000 ns after the team resumed, or lives on, counted, while an operation issued before the
stop is outstanding. -/
def State.expireForward (s : State) (t : Nat) : State :=
  match s.lodge.forwards.find? fun f => f.team == t && (!(s.team t).status.live || match f.resumed with
      | some r => decide (r + 8000 ≤ s.now)
      | none => false) with
  | none => s
  | some f =>
    if !s.movedPending t then { s with lodge.forwards := s.lodge.forwards.erase f }
    else if f.extended then s
    else { s with lodge.forwards := s.lodge.forwards.map (fun g => if g = f then { f with extended := true } else g),
                  lodge.migFwdExt := if s.lodge.migFwdExt = 0xFFFFFFFF then s.lodge.migFwdExt else s.lodge.migFwdExt + 1 }

/-- The event FORWARDING_ENTRY_EXPIRY of team `team`. -/
def execForwardingEntryExpiry (s : State) : Outcome := .next (s.expireForward s.ev.team)

/-! ## The bank switch of a fault (13 R333) -/

/-- The switch of a core's banks ends: suspended teams of the bank that becomes active resume, and the agent decides. -/
def State.bankSwitch (s : State) (core : Nat) : State :=
  if !(s.core core).switching || !s.bankDrained core then s
  else
    let s := s.modCore core fun c => { c with active := 1 - c.active, switching := false, idle := 0 }
    let back := (s.bankTeams core (s.core core).active).filter fun t => (s.team t).status == .suspended
    (back.foldl (fun (s : State) t => s.resumeTeam t) s).endAllPending.agentDecide (clusterOf core)

/-- The event BANK_SWITCH_COMPLETE on core `core`. -/
def execBankSwitchComplete (s : State) : Outcome := .next (s.bankSwitch s.ev.core)

/-! ## Partition swap (21 R477) -/

/-- The live teams of a partition. -/
def State.partTeams (s : State) (p : Nat) : List Nat :=
  s.teamIds.filter fun t => (s.team t).status.live && s.pidOf t == p

/-- A team of a partition that swaps out: one on its way keeps going, to shadow storage. -/
def swapSignal (tm : Team) : Team :=
  match tm.status with
  | .running => { tm with sent := .swap, signal := if tm.signal == .none then .none else .swap }
  | .parked => { tm with sent := .swap, signal := .swap }
  | .toBank => { tm with status := .toShadow }
  | .suspended => { tm with status := .toShadow }
  | .resuming => { tm with status := .toShadow }
  | .migrating => { tm with status := .toShadow }
  | _ => tm

/-- PART_SWAP is written: PID is kept. -/
def State.swapPart (s : State) (w : RegWrite) (st : Nat) : State :=
  let p := bitsOf w.bits.toNat 4 4
  ({ s with lodge.swapPid := BitVec.ofNat 4 p }).modPart p fun x => { x with swapState := st }

def swapOutWrite (s : State) (w : RegWrite) : State :=
  let s := s.swapPart w 1
  (s.partTeams s.lodge.swapPid.toNat).foldl (fun (s : State) t => s.modTeam t swapSignal) s

def swapInWrite (s : State) (w : RegWrite) : State := s.swapPart w 3

def execSwapOut (s : State) : Outcome := .next (s.withWrite .swapOut swapOutWrite)
def execSwapIn (s : State) : Outcome := .next (s.withWrite .swapIn swapInWrite)

/-- Whether every team of a partition has left its core. -/
def State.swappedOut (s : State) (p : Nat) : Bool :=
  (s.partTeams p).all fun t => (s.team t).status == .spilled || (s.team t).status == .waiting

/-- The ready entries of a partition are saved, and STATE is 2. -/
def State.swapOutDone (s : State) (p : Nat) : State :=
  if (s.part p).swapState != 1 || !s.swappedOut p then s
  else
    let mine (e : ReadyEntry) : Bool := (s.inst e.inst).card.pid == p
    let saved := (List.range s.clusters.length).flatMap fun k => ((s.cluster k).ready.filter mine).map fun e => (k, e)
    let cs := s.clusters.map fun (c : Cluster) => ({ c with ready := c.ready.filter fun e => !mine e } : Cluster)
    ({ s with clusters := cs }).modPart p fun x => { x with swapState := 2, savedReady := saved }

/-- The event SWAP_OUT_COMPLETE of partition `part`. -/
def execSwapOutComplete (s : State) : Outcome := .next (s.swapOutDone s.ev.part)

/-- The teams of a partition are restored, suspended; they are placed by rank. -/
def State.swapInDone (s : State) (p : Nat) : State :=
  let pt := s.part p
  if pt.swapState != 3 then s
  else
    let s := pt.savedReady.foldl (fun (s : State) e => s.modCluster e.1 fun c => { c with ready := c.ready ++ [e.2] }) s
    (s.modPart p fun x => { x with swapState := 0, savedReady := [] }).decideMask pt.clusters.toNat

/-- The event SWAP_IN_COMPLETE of partition `part`. -/
def execSwapInComplete (s : State) : Outcome := .next (s.swapInDone s.ev.part)

end Sys2Proof.Machine
end

