-- ==== Sys2Proof/Machine/Supervise.lean ====
section
/-!
DEFINITION. Supervision by Belvedere (21 R478 to R483): heartbeats, reports of uncorrectable data and of failed checks (20 R454, R463,
R467, 02 R48), the restart of a unit, escalation, clock margins, power and temperature (22 R495); and the comparison of redundant
copies (20 R464 to R466).
-/
namespace Sys2Proof.Machine

/-! ## Heartbeats (R479) -/

def State.heart (s : State) (u : UnitId) : Heart := (s.lodge.hearts.find? (·.unit == u)).getD { unit := u }
def State.setHeart (s : State) (h : Heart) : State :=
  { s with lodge.hearts := h :: s.lodge.hearts.filter (·.unit != h.unit) }

/-- A failure that no restart mends: Bandstand releases nothing further (R480), and the host is told (22 R494). -/
def State.setFatal (s : State) : State := if s.lodge.fatal then s else { s with lodge.fatal := true }.signalStatus

/-- A unit is declared failed; a memory controller or Bandstand cannot be restarted. -/
def State.declareFailed (s : State) (u : UnitId) : State :=
  let s := s.setHeart { s.heart u with failed := true }
  match u with
  | .memCtl _ => s.setFatal
  | .bandstand => s.setFatal
  | _ => s

/-- A heartbeat: its sequence number, whether the unit reports busy, and whether its signature agrees. -/
def State.heartbeat (s : State) (u : UnitId) (seq : Nat) (busy ok : Bool) : State :=
  let h := s.heart u
  let s := s.setHeart { h with seq := some seq, missed := 0 }
  if !ok || (busy && h.seq == some seq) then s.declareFailed u else s

/-- The event HEARTBEAT of unit `unit`. -/
def execHeartbeat (s : State) : Outcome := .next (s.heartbeat s.ev.unit s.ev.seq s.ev.busy s.ev.ok)

/-- A lost heartbeat; MISS in a row declare the unit failed. -/
def State.heartbeatMiss (s : State) (u : UnitId) : State :=
  let h := s.heart u
  let s := s.setHeart { h with missed := h.missed + 1 }
  if s.lodge.hbMiss.toNat ≤ h.missed + 1 then s.declareFailed u else s

/-- The event HEARTBEAT_MISS of unit `unit`. -/
def execHeartbeatMiss (s : State) : Outcome := .next (s.heartbeatMiss s.ev.unit)

/-! ## Reports (R481; 20 R454, R463, R466, R467; 02 R48; 15 R367) -/

/-- A detection or mismatch at a core: more than 8 within 1 s restart its cluster. -/
def State.countDetection (s : State) (core : Nat) : State :=
  let recent := (core, s.now) :: s.lodge.detects.filter fun d => decide (s.now ≤ d.2 + 1000000000)
  let s := { s with lodge.detects := recent }
  if 8 < (recent.filter (·.1 == core)).length then s.declareFailed (.cluster (clusterOf core)) else s

/-- A line is rewritten whole from a clean copy and leaves quarantine (15 R367). -/
def State.rewriteLine (s : State) (pa : Nat) : State :=
  { s with quar := s.quar.filter (· != lineOf pa), bad := s.bad.filter fun b => b.cause == 0x142 || lineOf b.pa != lineOf pa }

/-- A unit's offset from the relayed time: stepped in place, or restarted at a second report within 1 s. -/
def State.offsetReport (s : State) (u : UnitId) : State :=
  let again := s.lodge.ltuReports.any fun r => r.1 == u && decide (s.now ≤ r.2 + 1000000000)
  let s := { s with lodge.ltuReports := (u, s.now) :: s.lodge.ltuReports.filter (·.1 != u) }
  if again then s.declareFailed u else { s with lodge.ltuBad := s.lodge.ltuBad.filter (· != u) }

/-- Every instance with a team on a core is held while Belvedere handles 0x3C8 (R482, 20 R447). -/
def State.holdAll (s : State) : State :=
  ((List.range s.insts.length).filter fun i => (s.inst i).live && (s.inst i).st != .held &&
    (s.instTeams i).any fun t => (s.team t).status.resident).foldl
    (fun (s : State) i => (s.logInstCause i 2 0x3C8).holdInstance i (instRaise 0x3C8 s.now)) s

/-- What Belvedere does about a message; `clean` says that a clean copy of a line exists. -/
def State.handleReport (s : State) (clean : Bool) : BelvMsg → State
  | .uncorrectable cause sector core _ =>
    let s := if clean && cause != 0x143 && cause != 0x144 && cause != 0x145 then s.rewriteLine sector else s
    let s := if cause == 0x102 then
        let w : RegWrite := { off := 0x10980, data := BitVec.ofNat 64 (2 ^ 62 + sector / 32768 * 32768) }
        { s with lodge.regQueue := s.lodge.regQueue ++ [w] }
      else s
    if 0x142 ≤ cause.toNat ∧ cause.toNat ≤ 0x145 then s.countDetection core else s
  | .mismatch core _ _ _ => s.countDetection core
  | .offset u => s.offsetReport u
  | .outvoted k => s.declareFailed (.cluster k)
  | .voted ks => ks.foldl (fun (s : State) k => s.declareFailed (.cluster k)) s
  | .quarantineFull _ => s.holdAll
  | _ => s

/-- Messages that Belvedere answers by an action on a unit. -/
def BelvMsg.isReport : BelvMsg → Bool
  | .uncorrectable _ _ _ _ => true
  | .mismatch _ _ _ _ => true
  | .offset _ => true
  | .outvoted _ => true
  | .voted _ => true
  | .quarantineFull _ => true
  | _ => false

/-- The oldest report reaches Belvedere. -/
def State.takeReport (s : State) (clean : Bool) : State :=
  match s.belv.find? (·.isReport) with
  | none => s
  | some m => { s with belv := s.belv.erase m }.handleReport clean m

/-- The event UNCORRECTABLE_REPORT; `ok` when a clean copy of the line exists. -/
def execUncorrectableReport (s : State) : Outcome := .next (s.takeReport s.ev.ok)

/-! ## Emptying a cluster (03 R78) -/

/-- A core of another cluster of a team's mask that can take it. -/
def State.evacuee (s : State) (k t : Nat) : Option Nat :=
  let x := s.inst (s.team t).inst
  if x.redundant then none
  else (List.range 112).find? fun c => clusterOf c != k && bitsOf x.card.clusterMask (clusterOf c) 1 == 1 && s.canTake t c

/-- Teams on a cluster. -/
def State.clusterTeams (s : State) (k : Nat) : List Nat :=
  s.teamIds.filter fun t => (s.team t).status.resident && clusterOf (s.team t).core == k

/-- A team leaves a cluster that Belvedere empties: it migrates, or spills. -/
def State.evacuate (s : State) (k t : Nat) : State :=
  let target := s.evacuee k t
  match (s.team t).status, target with
  | .running, some c => s.modTeam t fun x => { x with sent := .migrate, target := c }
  | .running, none => s.modTeam t fun x => { x with sent := .swap }
  | .suspended, some c => s.startMigrate t c
  | .suspended, none => s.modTeam t fun x => { x with status := .toShadow }
  | _, _ => s

/-- Every team of a cluster that can leave it and has not been signalled is sent away. -/
def State.emptyCluster (s : State) (k : Nat) : State :=
  ((s.clusterTeams k).filter fun t => !s.visionBusy t && (s.team t).sent == .none).foldl (fun (s : State) t => s.evacuate k t) s

/-- Whether the teams that can leave a cluster have left. -/
def State.emptied (s : State) (k : Nat) : Bool := (s.clusterTeams k).all fun t => s.visionBusy t

/-! ## Restart of a unit (R480) -/

/-- A team that did not leave its cluster receives 0x144 with STREAM 7; HANDLER acts as STOP. -/
def State.lostTeam (s : State) (t : Nat) : State :=
  if !(s.team t).status.live then s
  else
    let r : Raise := { cause := 0x144, stream := 7, lanes := 0, pc := (s.team t).ctrl.pc, time := s.now }
    let code := (s.inst (s.team t).inst).card.nibble 0x144
    s.dispose t (if code = 1 ∨ (s.team t).fallback then 0 else code) r 0 0

/-- The ready entries of a cluster are discarded and counted per instance (02 R63). -/
def State.discardCluster (s : State) (k : Nat) : State :=
  let es := (s.cluster k).ready
  let s := s.modCluster k fun c => { c with ready := [] }
  ((es.map (·.inst)).eraseDups).foldl (fun (s : State) i =>
    s.logInst i { cause := 0x20A, kind := 0, data := (es.filter (·.inst == i)).length }) s

/-- The cluster's domain after its reset: empty, and quarantined until a reconfiguration (03 R76). -/
def State.resetCluster (s : State) (k : Nat) : State :=
  let mine (o : TlbOwner) : Bool := match o with
    | .core c => clusterOf c == k
    | .cluster n => n == k
    | .reg t _ _ => clusterOf (s.team t).core == k && !(s.team t).status.live
  let s := (coresOf k).foldl (fun (s : State) c => s.modCore c fun _ => {}) s
  let s := { s with l1 := s.l1.filter (fun b => clusterOf b.core != k), tlb := s.tlb.filter (fun e => !mine e.owner),
                    walks := s.walks.filter (·.cluster != k), samp := s.samp.filter (·.cluster != k) }
  s.modCluster k fun c => { c with quarantined := true, bistPassed := false, rasters := [], sampled := [] }

/-- A cluster's local time unit after its reset: its failure and its reports are gone. -/
def State.setTimeUnit (s : State) (k : Nat) : State :=
  let s := s.setHeart { unit := .ltu k }
  { s with lodge.ltuBad := s.lodge.ltuBad.filter fun u => !(u == UnitId.cluster k || u == UnitId.ltu k) }

/-- A failed cluster is emptied first while its cores respond, then reset, its local time unit with it (02 R48). -/
def State.restartCluster (s : State) (k : Nat) (responds : Bool) : State :=
  let s := s.modCluster k fun c => { c with quarantined := true, bistPassed := false }
  if responds && !s.emptied k then s.emptyCluster k
  else
    let s := (s.clusterTeams k).foldl (fun (s : State) t => s.lostTeam t) s
    ((((s.discardCluster k).resetCluster k).setHeart { unit := .cluster k }).setTimeUnit k).decideMask (2 ^ 28 - 1)

/-- A copy unit performs its commands in progress again from their first rows; a WAIT or POST already performed is not. -/
def restartChans (c : Core) : Core :=
  { c with chans := c.chans.map fun (h : Chan) => match h.cmd with
      | some m => if m.op = 0 then ({ h with row := 0, pos := 0, acquired := false, lines := [], written := false } : Chan) else h
      | none => h }

/-- Restart a failed unit in its own domain. A builder or a reconstruction unit performs its work again from its start, which the
model performs in one step. -/
def State.restartUnit (s : State) (u : UnitId) (responds : Bool) : State :=
  if !(s.heart u).failed then s
  else match u with
    | .cluster k => s.restartCluster k responds
    | .ltu k => s.restartCluster k responds
    | .copyUnit k => (s.modCore k restartChans).setHeart { unit := u }
    | .ingress n =>
      (if responds then s else s.modIng n fun g => { g with drops := satInc16 g.drops }).setHeart { unit := u }
    | .memCtl _ => s
    | .bandstand => s
    | _ => s.setHeart { unit := u }

/-- The event UNIT_RESTART of unit `unit`. `ok` says that a cluster's cores respond, or that an ingress channel has no frame in
progress. -/
def execUnitRestart (s : State) : Outcome := .next (s.restartUnit s.ev.unit s.ev.ok)

/-- The built-in self-test of a cluster out of service ends (03 R76, R478). -/
def execBuiltInSelfTestComplete (s : State) : Outcome :=
  .next (if (s.cluster s.ev.cluster).quarantined then s.modCluster s.ev.cluster fun c => { c with bistPassed := s.ev.ok } else s)

/-! ## Escalation (R482) -/

/-- The outcome of ESC_POLICY for a card. -/
def State.escOutcome (s : State) (c : Card) : Nat :=
  let f := bitsOf (s.part c.pid).escPolicy.toNat (2 * (c.criticality % 4)) 2
  if f = 1 then (if c.fallbackRecord < 0xFFFF then 2 else 0) else if f = 2 then 3 else 0

/-- Belvedere resolves a held instance, or a late one that waits in RETIRING. -/
def State.resolveHeld (s : State) (i : Nat) : State :=
  let x := s.inst i
  match x.heldCause with
  | none => s
  | some r =>
    if !x.live then s
    else
      let code := s.escOutcome x.card
      let s := s.logInst i { stream := 7, cause := r.cause, kind := 4, data := code }
      let s := { s with belv := s.belv.filter (· != BelvMsg.escalate r.cause x.job x.id) }
      s.failInstance i (code == 2)

/-- The event ESCALATION_RESOLUTION of instance `inst`. -/
def execEscalationResolution (s : State) : Outcome := .next (s.resolveHeld s.ev.inst)

/-! ## Margins, power, temperature (R483; 22 R495) -/

/-- A permitted clock: 1,500 to 1,800 MHz. -/
def clampMhz (n : Nat) : Nat := max 1500 (min n 1800)

/-- A sample of a cluster's delay monitors: its margin at the floor clock, and the highest clock that keeps a margin. -/
def State.marginSample (s : State) (k : Nat) (margin : W16) (fmax : BitVec 12) : State :=
  let f := clampMhz fmax.toNat
  let s := s.modCluster k fun c => { c with marginPs := margin, fmaxMhz := BitVec.ofNat 12 f, clockMhz := min c.clockMhz f }
  if 30 ≤ margin.toNat ∨ (s.cluster k).limit then s
  else if (s.cluster k).voffMv.toNat + 5 ≤ 150 then s.modCluster k fun c => { c with voffMv := c.voffMv + 5 }
  else if s.emptied k then
    s.modCluster k fun c => { c with quarantined := true, limit := true, emptying := false, bistPassed := false }
  else (s.modCluster k fun c => { c with emptying := true }).emptyCluster k

/-- The event MARGIN_SAMPLE of cluster `cluster`. -/
def execMarginSample (s : State) : Outcome := .next (s.marginSample s.ev.cluster s.ev.marginPs s.ev.fmaxMhz)

/-- Every cluster's clock at a figure, within its permitted range. -/
def State.setClocks (s : State) (mhz : Nat) : State :=
  let cs := (List.range 28).map fun k => { (s.cluster k) with clockMhz := max 1500 (min mhz (s.cluster k).fmaxMhz.toNat) }
  { s with clusters := cs }

def State.atFloor (s : State) : Bool := (List.range 28).all fun k => (s.cluster k).clockMhz == 1500

/-- The package power of 1 ms against CAP: above it the clocks come down, to a figure between the floor and the present one
(`mhz`); 10 ms above it at the floor set OVER. -/
def State.powerSample (s : State) (watts mhz : Nat) : State :=
  if watts ≤ s.lodge.capWatts.toNat then
    let s := { s with lodge.overMs := 0 }
    if s.lodge.therm then s else s.setClocks mhz
  else if s.atFloor then
    let n := s.lodge.overMs + 1
    let s := { s with lodge.overMs := n }
    if 10 ≤ n ∧ !s.lodge.powerOver then { s with lodge.powerOver := true }.signalStatus else s
  else s.setClocks mhz

/-- The event POWER_CAP_CONTROL: `watts` over 1 ms, and the clock chosen. -/
def execPowerCapControl (s : State) : Outcome := .next (s.powerSample s.ev.watts s.ev.fmaxMhz.toNat)

/-- A junction temperature: at 105 °C the floor clock and THERM, at 125 °C every cluster stops and FATAL is set. -/
def State.temperature (s : State) (celsius : Nat) : State :=
  if celsius < 105 then s
  else
    let s := s.setClocks 1500
    let s := if s.lodge.therm then s else { s with lodge.therm := true }.signalStatus
    if celsius < 125 then s
    else
      let cs := (List.range 28).map fun k => { (s.cluster k) with thermalStop := true }
      { s with clusters := cs }.setFatal

/-- The event THERMAL_LIMIT at `celsius`. -/
def execThermalLimit (s : State) : Outcome := .next (s.temperature s.ev.celsius)

/-! ## Redundant execution (20 R465, R466) -/

/-- The content of a line in a revision, and its content at the snapshot. -/
def State.snapLine (s : State) (r : Revision) (va : Nat) : List Byte :=
  match r.ancestors.find? (·.va == va) with
  | some l => l.bytes
  | none => match s.engineTranslate r.pid va .read with
    | .inl _ => []
    | .inr pa => s.homeBytes r.parent va pa 128
def State.copyLine (s : State) (r : Revision) (va : Nat) : List Byte :=
  match r.copies.find? (·.va == va) with
  | some l => l.bytes
  | none => s.snapLine r va

/-- Whether two copies agree over every line that either wrote. -/
def State.agree (s : State) (a b : Nat) : Bool :=
  match s.findRev a, s.findRev b with
  | some x, some y => ((x.copies ++ y.copies).map (·.va)).eraseDups.all fun va => s.copyLine x va == s.copyLine y va
  | _, _ => true

/-- Write the lines of the winning copy that differ from the snapshot into the base. -/
def State.commitCopy (s : State) (r : Nat) : State :=
  match s.findRev r with
  | none => s
  | some x =>
    (x.copies.filter fun l => l.bytes != s.snapLine x l.va).foldl (fun (s : State) l =>
      match s.engineTranslate x.pid l.va .write with
      | .inl _ => s
      | .inr pa => s.homeWriteBytes x.pid 0 l.va pa l.bytes) s

/-- The cluster a copy of an instance runs on; shares of earlier copies are renamed while the tie-break runs. -/
def Inst.copyCluster (x : Inst) (n : Nat) : Nat := ((x.shares.getD n { cluster := 0 }).cluster) % 64

/-- Start the tie-break: a third copy of the grid on the mask's highest cluster, in its own revision of the snapshot. -/
def State.tieBreak (s : State) (i : Nat) : State :=
  let x := s.inst i
  let total := x.card.gridX * x.card.gridY * x.card.gridZ
  let top := (maskClusters x.card.clusterMask).getLastD 0
  let old := x.shares.map fun (sh : Share) => { sh with cluster := sh.cluster % 64 + 64 }
  let kept := ((s.findRev (x.revs.getD 0 0)).map (·.ancestors)).getD []
  let rv : Revision := { id := s.nextId, parent := 0, pid := x.card.pid, inst := i, whole := true, ancestors := kept }
  if (s.part x.card.pid).revFree < kept.length then s.endAtOnce i (x.card.nibble 0x188) (instRaise 0x188 s.now) else
  let s := ({ s with revs := rv :: s.revs, nextId := s.nextId + 1 }).modPart x.card.pid fun p =>
    { p with revFree := p.revFree - kept.length }
  let s := s.modInst i fun y =>
    { y with tie := true, shares := old ++ [{ cluster := top, stop := total }], revs := y.revs ++ [s.nextId - 1], reconDone := false }
  s.decideMask x.card.clusterMask

/-- The winner is committed, the revisions are dropped, and the completion goes on. -/
def State.acceptCopy (s : State) (i r : Nat) : State :=
  let s := (s.commitCopy r).dropInstState i
  (s.modInst i fun y => { y with compared := true }).finishInstance i

/-- An outvoted cluster is logged and reported. -/
def State.outvote (s : State) (i k : Nat) : State :=
  let s := s.logInst i { stream := 7, cause := 0x182, kind := 0, data := k }
  { s with belv := s.belv ++ [BelvMsg.outvoted k] }

/-- The comparison of the copies of a RETIRING instance. -/
def State.compareCopies (s : State) (i : Nat) : State :=
  let x := s.inst i
  let rev (n : Nat) : Nat := x.revs.getD n 0
  if !(x.redundant && x.st == .retiring && !x.compared && (s.instTeams i).isEmpty && !x.unplaced && (!x.card.flag 3 || x.reconDone)) then s
  else if !x.tie then (if s.agree (rev 0) (rev 1) then s.acceptCopy i (rev 0) else s.tieBreak i)
  else if s.agree (rev 2) (rev 0) then (s.outvote i (x.copyCluster 1)).acceptCopy i (rev 0)
  else if s.agree (rev 2) (rev 1) then (s.outvote i (x.copyCluster 0)).acceptCopy i (rev 1)
  else
    let s := { s with belv := s.belv ++ [BelvMsg.voted (maskClusters x.card.clusterMask)] }
    s.endAtOnce i (x.card.nibble 0x183) (instRaise 0x183 s.now)

/-- The event REDUNDANT_COMPARE of instance `inst`. -/
def execRedundantCompare (s : State) : Outcome := .next (s.compareCopies s.ev.inst)

end Sys2Proof.Machine
end

