-- ==== Sys2Proof/Machine/Ports.lean ====
section
/-!
DEFINITION. The outside of the package: boot (21 R478, 22 R494), completion signals (22 R487), the host port (R488 to R490) and the
Fuica links (R491, R492).
-/
namespace Sys2Proof.Machine

/-! ## Boot (21 R478, R494) -/

/-- A measurement register as its 48 bytes, lowest address first, and back. -/
def measBytes (m : BitVec 384) : List Byte := bytesOfNat 48 m.toNat

/-- MEAS_k := SHA-384(MEAS_k ‖ digest). -/
def extendMeas (m digest : BitVec 384) : BitVec 384 := BitVec.ofNat 384 (natOfBytes (sha384 (measBytes m ++ measBytes digest)))

/-- A device reset keeps what lies outside the device's registers: the schedule, time, memory and its damaged sectors, and the
host's memory (log 35). -/
def State.resetDevice (s : State) (b : BootInputs) : State :=
  { State.reset with
    agenda := s.agenda, tick := s.tick, ev := s.ev, now := s.now, mem := s.mem, bad := s.bad.filter (·.cause != 0x142),
    hostMem := s.hostMem, out := s.out, pkg := b.pkg, hostMode := b.hostMode }

/-- A failed check halts the boot at step 1. -/
def State.bootFails (s : State) : State :=
  { s with lodge.bootFail := true, lodge.halted := true, lodge.bootStep := 1 }.signalStatus

/-- Belvedere brings up the device: its firmware, the lodge firmware, self-test of the clusters, and the rest. -/
def State.boot (s : State) (b : BootInputs) : State :=
  let s := s.resetDevice b
  if !b.verified0 then s.bootFails
  else
    let m0 := extendMeas 0 b.digest0
    let s := { s with lodge.meas := [m0] }
    if !b.verified1 then s.bootFails
    else
      let cs := (List.range 28).map fun k =>
        ({ quarantined := b.failing.getLsbD k, bistPassed := !b.failing.getLsbD k } : Cluster)
      { s with lodge.meas := [m0, extendMeas 0 b.digest1], lodge.bootStep := 5, clusters := cs }

/-- The event DEVICE_RESET with the inputs of `boot`. -/
def execDeviceReset (s : State) : Outcome := .next (s.boot s.ev.boot)

/-! ## Completion signals (R487) -/

/-- Whether an instance's MSI-X message is due. -/
def Inst.signalDue (x : Inst) : Bool := x.card.flag 6 && x.posted && !x.signalled

/-- The event MSIX_SIGNAL of instance `inst`. -/
def execMsixSignal (s : State) : Outcome :=
  let i := s.ev.inst
  .next (if (s.inst i).signalDue then (s.modInst i fun x => { x with signalled := true }).signalVector (s.inst i).card.msixVector
    else s)

/-! ## Fuica links (R491, R492) -/

/-- A link fails. The last link to a package leaves it absent, and Belvedere is interrupted. -/
def State.linkDown (s : State) (k : Nat) : State :=
  match s.links.find? (·.1 == k) with
  | none => s
  | some (_, peer) =>
    let s := { s with links := s.links.filter (·.1 != k) }.signalStatus
    if s.links.any (·.2 == peer) then s else { s with belv := s.belv ++ [.linkDown peer] }

/-- The event FUICA_LINK_DOWN of link `link`. -/
def execFuicaLinkDown (s : State) : Outcome := .next (s.linkDown s.ev.link)

/-- A link comes up, towards another package. -/
def State.linkUp (s : State) (k peer : Nat) : State :=
  if 4 ≤ k ∨ 4 ≤ peer ∨ peer = s.pkg.toNat ∨ s.links.any (·.1 == k) then s
  else { s with links := (k, peer) :: s.links }.signalStatus

/-- The event FUICA_LINK_UP of link `link` to package `peer`. -/
def execFuicaLinkUp (s : State) : Outcome := .next (s.linkUp s.ev.link s.ev.peer)

/-- An access performed at the home L2 for an agent outside the package's cores: a read's datum is kept as the last one
returned, and either closes the accumulators of its words (11 R283). A request held by a watch window or a page move waits
(14 R352, 13 R337). -/
def State.outsideAccess (s : State) (pa n : Nat) (write : Bool) (data : W64) : State :=
  if s.heldPhys pa n then s
  else if write then s.physWrite pa (bytesOfNat n data.toNat)
  else { s with readData := BitVec.ofNat 64 (natOfBytes (s.homeBytes 0 pa pa n)) }.touchAcc 0 pa pa n

/-- Width of an event's access. -/
def evWidth (e : EvArgs) : Nat := if e.wide then 8 else 4

/-- A request of another package for memory homed here. -/
def State.linkRequest (s : State) (peer pa n : Nat) (write : Bool) (data : W64) : State :=
  if s.links.any (·.2 == peer) && s.pageHome (pa / 2 ^ 15) == s.pkg.toNat && s.physTarget pa == .mem && (s.homeFail pa).isNone then
    s.outsideAccess pa n write data
  else s

/-- The event LINK_REQUEST of package `peer` for address `pa`. -/
def execLinkRequest (s : State) : Outcome :=
  .next (s.linkRequest s.ev.peer s.ev.pa (evWidth s.ev) s.ev.write s.ev.data)

/-! ## PCI Express (R488 to R490) -/

/-- The host link goes down: requests to bus addresses abort, and Belvedere is interrupted. -/
def execPcieLinkDown (s : State) : Outcome :=
  .next (if s.pcieUp then { s with pcieUp := false, belv := s.belv ++ [.hostDown] } else s)

def execPcieLinkUp (s : State) : Outcome := .next { s with pcieUp := true, hostAborts := [] }

/-- A request through W2 (R489): performed at the home L2 where it reaches memory, else Unsupported Request. There is no W2 in
root-complex mode. -/
def State.w2Request (s : State) (o n : Nat) (write : Bool) (data : W64) : State :=
  let pa := bitsOf s.lodge.w2Base.toNat 30 18 * 2 ^ 30 + o
  if s.pcieUp && !s.hostMode && s.lodge.bootStep == 5 && s.physTarget pa == .mem && (s.homeFail pa).isNone then
    s.outsideAccess pa n write data
  else s

/-- The event HOST_W2_REQUEST at aperture offset `off`. -/
def execHostW2Request (s : State) : Outcome :=
  .next (s.w2Request s.ev.off (evWidth s.ev) s.ev.write s.ev.data)

/-- An outbound request completes (R490): the bytes of the bus address fail with 0x381 until one succeeds, and a read that
succeeds returns what the host's memory holds. -/
def State.outbound (s : State) (bus n : Nat) (st : BusStatus) (write : Bool) (data : W64) : State :=
  if !s.pcieUp then s
  else
    let rest := s.hostAborts.filter fun x => !(decide (bus ≤ x.1) && decide (x.1 < bus + n))
    match st with
    | .success => { s with hostAborts := rest, hostMem := if write then s.hostMem else s.hostMem.writeBytes bus (bytesOfNat n data.toNat) }
    | _ => { s with hostAborts := ((List.range n).map fun k => (bus + k, (0x381 : Cause))) ++ rest }

/-- The event PCIE_OUTBOUND_COMPLETION at bus address `bus` with status `status`. -/
def execPcieOutboundCompletion (s : State) : Outcome :=
  .next (s.outbound s.ev.bus (evWidth s.ev) s.ev.status s.ev.write s.ev.data)

end Sys2Proof.Machine
end

