-- ==== Sys2Proof/Machine/Dispatch.lean ====
section
/-!
DEFINITION. The dispatch of an instruction to its meaning: one arm per constructor.
-/
namespace Sys2Proof.Machine

def exec (i : Instr) (s : State) : Host.Outcome State Fault Refusal :=
  match i with
  | .nop => Sys2Proof.Machine.execNop s
  | .add d a b => Sys2Proof.Machine.execAdd d a b s
  | .sub d a b => Sys2Proof.Machine.execSub d a b s
  | .mul d a b => Sys2Proof.Machine.execMul d a b s
  | .mulh d a b => Sys2Proof.Machine.execMulh d a b s
  | .mulhu d a b => Sys2Proof.Machine.execMulhu d a b s
  | .div d a b => Sys2Proof.Machine.execDiv d a b s
  | .divu d a b => Sys2Proof.Machine.execDivu d a b s
  | .rem d a b => Sys2Proof.Machine.execRem d a b s
  | .remu d a b => Sys2Proof.Machine.execRemu d a b s
  | .and d a b => Sys2Proof.Machine.execAnd d a b s
  | .or d a b => Sys2Proof.Machine.execOr d a b s
  | .xor d a b => Sys2Proof.Machine.execXor d a b s
  | .shl d a b => Sys2Proof.Machine.execShl d a b s
  | .shr d a b => Sys2Proof.Machine.execShr d a b s
  | .sar d a b => Sys2Proof.Machine.execSar d a b s
  | .min d a b => Sys2Proof.Machine.execMin d a b s
  | .max d a b => Sys2Proof.Machine.execMax d a b s
  | .minu d a b => Sys2Proof.Machine.execMinu d a b s
  | .maxu d a b => Sys2Proof.Machine.execMaxu d a b s
  | .slt d a b => Sys2Proof.Machine.execSlt d a b s
  | .sltu d a b => Sys2Proof.Machine.execSltu d a b s
  | .seq d a b => Sys2Proof.Machine.execSeq d a b s
  | .sne d a b => Sys2Proof.Machine.execSne d a b s
  | .addi d a imm => Sys2Proof.Machine.execAddi d a imm s
  | .andi d a imm => Sys2Proof.Machine.execAndi d a imm s
  | .ori d a imm => Sys2Proof.Machine.execOri d a imm s
  | .xori d a imm => Sys2Proof.Machine.execXori d a imm s
  | .shli d a sh => Sys2Proof.Machine.execShli d a sh s
  | .shri d a sh => Sys2Proof.Machine.execShri d a sh s
  | .sari d a sh => Sys2Proof.Machine.execSari d a sh s
  | .slti d a imm => Sys2Proof.Machine.execSlti d a imm s
  | .limm d imm => Sys2Proof.Machine.execLimm d imm s
  | .limmh d imm => Sys2Proof.Machine.execLimmh d imm s
  | .limmx d imm => Sys2Proof.Machine.execLimmx d imm s
  | .limmt d imm => Sys2Proof.Machine.execLimmt d imm s
  | .fadd d a b sat mode => Sys2Proof.Machine.execFadd d a b sat mode s
  | .fsub d a b sat mode => Sys2Proof.Machine.execFsub d a b sat mode s
  | .fmul d a b sat mode => Sys2Proof.Machine.execFmul d a b sat mode s
  | .ffma d a b sat mode => Sys2Proof.Machine.execFfma d a b sat mode s
  | .fmin d a b => Sys2Proof.Machine.execFmin d a b s
  | .fmax d a b => Sys2Proof.Machine.execFmax d a b s
  | .fcmp d a b rel => Sys2Proof.Machine.execFcmp d a b rel s
  | .fcvt d a src dst sat mode => Sys2Proof.Machine.execFcvt d a src dst sat mode s
  | .gxlat d a b => Sys2Proof.Machine.execGxlat d a b s
  | .glim d a imm => Sys2Proof.Machine.execGlim d a imm s
  | .qcfg q a imm => Sys2Proof.Machine.execQcfg q a imm s
  | .qadv q k => Sys2Proof.Machine.execQadv q k s
  | .qadvTail q k => Sys2Proof.Machine.execQadvTail q k s
  | .b off => Sys2Proof.Machine.execB off s
  | .beq a b off => Sys2Proof.Machine.execBeq a b off s
  | .bne a b off => Sys2Proof.Machine.execBne a b off s
  | .blt a b off => Sys2Proof.Machine.execBlt a b off s
  | .bge a b off => Sys2Proof.Machine.execBge a b off s
  | .bltu a b off => Sys2Proof.Machine.execBltu a b off s
  | .bgeu a b off => Sys2Proof.Machine.execBgeu a b off s
  | .call off => Sys2Proof.Machine.execCall off s
  | .callr a => Sys2Proof.Machine.execCallr a s
  | .ret => Sys2Proof.Machine.execRet s
  | .jr a => Sys2Proof.Machine.execJr a s
  | .brx a n => Sys2Proof.Machine.execBrx a n s
  | .loop a off => Sys2Proof.Machine.execLoop a off s
  | .lset n a imm => Sys2Proof.Machine.execLset n a imm s
  | .runa a b => Sys2Proof.Machine.execRuna a b s
  | .runx a b => Sys2Proof.Machine.execRunx a b s
  | .runm a => Sys2Proof.Machine.execRunm a s
  | .tpload a imm => Sys2Proof.Machine.execTpload a imm s
  | .fmtset n a imm => Sys2Proof.Machine.execFmtset n a imm s
  | .mbset n k => Sys2Proof.Machine.execMbset n k s
  | .cpy a b => Sys2Proof.Machine.execCpy a b s
  | .chkick a => Sys2Proof.Machine.execChkick a s
  | .rast a => Sys2Proof.Machine.execRast a s
  | .bvhBuild a => Sys2Proof.Machine.execBvhBuild a s
  | .bvhRefit a => Sys2Proof.Machine.execBvhRefit a s
  | .bvhRebalance a => Sys2Proof.Machine.execBvhRebalance a s
  | .bvhPublish d a => Sys2Proof.Machine.execBvhPublish d a s
  | .bvhQuality d a => Sys2Proof.Machine.execBvhQuality d a s
  | .gpin d a => Sys2Proof.Machine.execGpin d a s
  | .gunpin a => Sys2Proof.Machine.execGunpin a s
  | .defdrain q a n => Sys2Proof.Machine.execDefdrain q a n s
  | .itemq a b => Sys2Proof.Machine.execItemq a b s
  | .covrd d sel => Sys2Proof.Machine.execCovrd d sel s
  | .cld d a imm => Sys2Proof.Machine.execCld d a imm s
  | .cst d a imm => Sys2Proof.Machine.execCst d a imm s
  | .camoTeam d a b op ord prm => Sys2Proof.Machine.execCamoTeam d a b op ord prm s
  | .camoClu d a b op ord => Sys2Proof.Machine.execCamoClu d a b op ord s
  | .camoDev d a b op ord => Sys2Proof.Machine.execCamoDev d a b op ord s
  | .camoSys d a b op ord => Sys2Proof.Machine.execCamoSys d a b op ord s
  | .fence samp ord scope prm => Sys2Proof.Machine.execFence samp ord scope prm s
  | .barInit a b => Sys2Proof.Machine.execBarInit a b s
  | .barArrive n => Sys2Proof.Machine.execBarArrive n s
  | .barWait n => Sys2Proof.Machine.execBarWait n s
  | .barInval n => Sys2Proof.Machine.execBarInval n s
  | .ctrwait a b scope => Sys2Proof.Machine.execCtrwait a b scope s
  | .ctrpost a b scope => Sys2Proof.Machine.execCtrpost a b scope s
  | .fork d a b => Sys2Proof.Machine.execFork d a b s
  | .join d a => Sys2Proof.Machine.execJoin d a s
  | .post a b => Sys2Proof.Machine.execPost a b s
  | .take d f a => Sys2Proof.Machine.execTake d f a s
  | .trap n => Sys2Proof.Machine.execTrap n s
  | .eret => Sys2Proof.Machine.execEret s
  | .sysr d sel => Sys2Proof.Machine.execSysr d sel s
  | .sysw a sel => Sys2Proof.Machine.execSysw a sel s
  | .ckpt => Sys2Proof.Machine.execCkpt s
  | .region open_ => Sys2Proof.Machine.execRegion open_ s
  | .seg => Sys2Proof.Machine.execSeg s
  | .kexit => Sys2Proof.Machine.execKexit s
  | .yield => Sys2Proof.Machine.execYield s
  | .time d => Sys2Proof.Machine.execTime d s
  | .revst d a sel => Sys2Proof.Machine.execRevst d a sel s
  | .vadd t p => Sys2Proof.Machine.execVadd t p s
  | .vsub t p => Sys2Proof.Machine.execVsub t p s
  | .vmul t p => Sys2Proof.Machine.execVmul t p s
  | .vmulh t p => Sys2Proof.Machine.execVmulh t p s
  | .vmad t p => Sys2Proof.Machine.execVmad t p s
  | .vand t p => Sys2Proof.Machine.execVand t p s
  | .vor t p => Sys2Proof.Machine.execVor t p s
  | .vxor t p => Sys2Proof.Machine.execVxor t p s
  | .vshl t p => Sys2Proof.Machine.execVshl t p s
  | .vshr t p => Sys2Proof.Machine.execVshr t p s
  | .vsar t p => Sys2Proof.Machine.execVsar t p s
  | .vmin t p => Sys2Proof.Machine.execVmin t p s
  | .vmax t p => Sys2Proof.Machine.execVmax t p s
  | .vabs t p => Sys2Proof.Machine.execVabs t p s
  | .vneg t p => Sys2Proof.Machine.execVneg t p s
  | .vcmp t p => Sys2Proof.Machine.execVcmp t p s
  | .vsel t p => Sys2Proof.Machine.execVsel t p s
  | .vclz t p => Sys2Proof.Machine.execVclz t p s
  | .vpopc t p => Sys2Proof.Machine.execVpopc t p s
  | .vdot4 t p => Sys2Proof.Machine.execVdot4 t p s
  | .vdot8 t p => Sys2Proof.Machine.execVdot8 t p s
  | .vavg t p => Sys2Proof.Machine.execVavg t p s
  | .vmov t p => Sys2Proof.Machine.execVmov t p s
  | .viota t p => Sys2Proof.Machine.execViota t p s
  | .vbfx t p => Sys2Proof.Machine.execVbfx t p s
  | .vbfi t p => Sys2Proof.Machine.execVbfi t p s
  | .vfadd t p => Sys2Proof.Machine.execVfadd t p s
  | .vfsub t p => Sys2Proof.Machine.execVfsub t p s
  | .vfmul t p => Sys2Proof.Machine.execVfmul t p s
  | .vfma t p => Sys2Proof.Machine.execVfma t p s
  | .vfmin t p => Sys2Proof.Machine.execVfmin t p s
  | .vfmax t p => Sys2Proof.Machine.execVfmax t p s
  | .vfcmp t p => Sys2Proof.Machine.execVfcmp t p s
  | .vrcp t p => Sys2Proof.Machine.execVrcp t p s
  | .vrsq t p => Sys2Proof.Machine.execVrsq t p s
  | .vsqrt t p => Sys2Proof.Machine.execVsqrt t p s
  | .vdiv t p => Sys2Proof.Machine.execVdiv t p s
  | .vexp2 t p => Sys2Proof.Machine.execVexp2 t p s
  | .vlog2 t p => Sys2Proof.Machine.execVlog2 t p s
  | .vsin t p => Sys2Proof.Machine.execVsin t p s
  | .vcos t p => Sys2Proof.Machine.execVcos t p s
  | .vrnd t p => Sys2Proof.Machine.execVrnd t p s
  | .vdot2 t p => Sys2Proof.Machine.execVdot2 t p s
  | .vcvt t p => Sys2Proof.Machine.execVcvt t p s
  | .vpack t p => Sys2Proof.Machine.execVpack t p s
  | .vunpack t p => Sys2Proof.Machine.execVunpack t p s
  | .vfclass t p => Sys2Proof.Machine.execVfclass t p s
  | .vlerp t p => Sys2Proof.Machine.execVlerp t p s
  | .vshuf t p => Sys2Proof.Machine.execVshuf t p s
  | .vbcast t p => Sys2Proof.Machine.execVbcast t p s
  | .vred t p => Sys2Proof.Machine.execVred t p s
  | .vscan t p => Sys2Proof.Machine.execVscan t p s
  | .vballot t p => Sys2Proof.Machine.execVballot t p s
  | .pop t p => Sys2Proof.Machine.execPop t p s
  | .qpush t p => Sys2Proof.Machine.execQpush t p s
  | .defer t p => Sys2Proof.Machine.execDefer t p s
  | .mread t p => Sys2Proof.Machine.execMread t p s
  | .mwrite t p => Sys2Proof.Machine.execMwrite t p s
  | .itemnext t p => Sys2Proof.Machine.execItemnext t p s
  | .vdisc t p => Sys2Proof.Machine.execVdisc t p s
  | .vzout t p => Sys2Proof.Machine.execVzout t p s
  | .cacc t p => Sys2Proof.Machine.execCacc t p s
  | .crej t p => Sys2Proof.Machine.execCrej t p s
  | .vtos t p => Sys2Proof.Machine.execVtos t p s
  | .ld t p => Sys2Proof.Machine.execLd t p s
  | .ldl t p => Sys2Proof.Machine.execLdl t p s
  | .ldf t p => Sys2Proof.Machine.execLdf t p s
  | .ldc t p => Sys2Proof.Machine.execLdc t p s
  | .st t p => Sys2Proof.Machine.execSt t p s
  | .stl t p => Sys2Proof.Machine.execStl t p s
  | .stf t p => Sys2Proof.Machine.execStf t p s
  | .pf t p => Sys2Proof.Machine.execPf t p s
  | .smp t p => Sys2Proof.Machine.execSmp t p s
  | .aadd t p => Sys2Proof.Machine.execAadd t p s
  | .amin t p => Sys2Proof.Machine.execAmin t p s
  | .amax t p => Sys2Proof.Machine.execAmax t p s
  | .aand t p => Sys2Proof.Machine.execAand t p s
  | .aor t p => Sys2Proof.Machine.execAor t p s
  | .axor t p => Sys2Proof.Machine.execAxor t p s
  | .axch t p => Sys2Proof.Machine.execAxch t p s
  | .acas t p => Sys2Proof.Machine.execAcas t p s
  | .afadd t p => Sys2Proof.Machine.execAfadd t p s
  | .trace t p => Sys2Proof.Machine.execTrace t p s
  | .mbput t p => Sys2Proof.Machine.execMbput t p s
  | .attr t p => Sys2Proof.Machine.execAttr t p s
  | .ldp t p => Sys2Proof.Machine.execLdp t p s
  | .stp t p => Sys2Proof.Machine.execStp t p s
  | .iadd t p => Sys2Proof.Machine.execIadd t p s
  | .ishl t p => Sys2Proof.Machine.execIshl t p s
  | .imov t p => Sys2Proof.Machine.execImov t p s
  | .iand t p => Sys2Proof.Machine.execIand t p s
  | .mzero w => Sys2Proof.Machine.execMzero w s
  | .mma w => Sys2Proof.Machine.execMma w s
  | .mmas w => Sys2Proof.Machine.execMmas w s
  | .mreq w => Sys2Proof.Machine.execMreq w s
  | .mst w => Sys2Proof.Machine.execMst w s
  | .mld w => Sys2Proof.Machine.execMld w s
  | .mbar w => Sys2Proof.Machine.execMbar w s
  | .mfmt w => Sys2Proof.Machine.execMfmt w s
  | .mloop w => Sys2Proof.Machine.execMloop w s
  | .mend w => Sys2Proof.Machine.execMend w s
  | .mrel w => Sys2Proof.Machine.execMrel w s
  | .reservedEncoding cause atWord => Sys2Proof.Machine.execReservedEncoding cause atWord s
  | .submit => Sys2Proof.Machine.execSubmit s
  | .withdraw => Sys2Proof.Machine.execWithdraw s
  | .cardAcceptance => Sys2Proof.Machine.execCardAcceptance s
  | .resultRead => Sys2Proof.Machine.execResultRead s
  | .release => Sys2Proof.Machine.execRelease s
  | .instanceReady => Sys2Proof.Machine.execInstanceReady s
  | .signalArrival => Sys2Proof.Machine.execSignalArrival s
  | .drainComplete => Sys2Proof.Machine.execDrainComplete s
  | .bankTransferComplete => Sys2Proof.Machine.execBankTransferComplete s
  | .spillComplete => Sys2Proof.Machine.execSpillComplete s
  | .teamResume => Sys2Proof.Machine.execTeamResume s
  | .budgetReport => Sys2Proof.Machine.execBudgetReport s
  | .deadlineCheck => Sys2Proof.Machine.execDeadlineCheck s
  | .escalationResolution => Sys2Proof.Machine.execEscalationResolution s
  | .ptpTimingMessage => Sys2Proof.Machine.execPtpTimingMessage s
  | .ptpStatusRead => Sys2Proof.Machine.execPtpStatusRead s
  | .redundantCompare => Sys2Proof.Machine.execRedundantCompare s
  | .reconstructionStart => Sys2Proof.Machine.execReconstructionStart s
  | .reconstructionComplete => Sys2Proof.Machine.execReconstructionComplete s
  | .msixSignal => Sys2Proof.Machine.execMsixSignal s
  | .recordBodyFetch => Sys2Proof.Machine.execRecordBodyFetch s
  | .iterBoundExpiry => Sys2Proof.Machine.execIterBoundExpiry s
  | .loadDataLand => Sys2Proof.Machine.execLoadDataLand s
  | .mOpRetire => Sys2Proof.Machine.execMOpRetire s
  | .bodyPull => Sys2Proof.Machine.execBodyPull s
  | .faultBankSwitch => Sys2Proof.Machine.execFaultBankSwitch s
  | .bankSwitchComplete => Sys2Proof.Machine.execBankSwitchComplete s
  | .pageWalk => Sys2Proof.Machine.execPageWalk s
  | .faultRecordPost => Sys2Proof.Machine.execFaultRecordPost s
  | .fltAnswerResolved => Sys2Proof.Machine.execFltAnswerResolved s
  | .fltAnswerUnresolved => Sys2Proof.Machine.execFltAnswerUnresolved s
  | .tlbInvPage => Sys2Proof.Machine.execTlbInvPage s
  | .tlbInvPartition => Sys2Proof.Machine.execTlbInvPartition s
  | .tlbInvTablePage => Sys2Proof.Machine.execTlbInvTablePage s
  | .tlbInvComplete => Sys2Proof.Machine.execTlbInvComplete s
  | .streamerCopyComplete => Sys2Proof.Machine.execStreamerCopyComplete s
  | .forwardingEntryExpiry => Sys2Proof.Machine.execForwardingEntryExpiry s
  | .migFwdExtRead => Sys2Proof.Machine.execMigFwdExtRead s
  | .copyCommandFetch => Sys2Proof.Machine.execCopyCommandFetch s
  | .copy => Sys2Proof.Machine.execCopy s
  | .wait => Sys2Proof.Machine.execWait s
  | .copyPost => Sys2Proof.Machine.execCopyPost s
  | .link => Sys2Proof.Machine.execLink s
  | .stop => Sys2Proof.Machine.execStop s
  | .arm => Sys2Proof.Machine.execArm s
  | .copyCommandCompletion => Sys2Proof.Machine.execCopyCommandCompletion s
  | .ingressFrame => Sys2Proof.Machine.execIngressFrame s
  | .memoryRequest => Sys2Proof.Machine.execMemoryRequest s
  | .regulatorWindowStart => Sys2Proof.Machine.execRegulatorWindowStart s
  | .rfmCommand => Sys2Proof.Machine.execRfmCommand s
  | .refreshWindowEnd => Sys2Proof.Machine.execRefreshWindowEnd s
  | .rasterCommandStart => Sys2Proof.Machine.execRasterCommandStart s
  | .rasterBatchDelivery => Sys2Proof.Machine.execRasterBatchDelivery s
  | .rasterCommandComplete => Sys2Proof.Machine.execRasterCommandComplete s
  | .samplerDelivery => Sys2Proof.Machine.execSamplerDelivery s
  | .traversalRound => Sys2Proof.Machine.execTraversalRound s
  | .traversalResult => Sys2Proof.Machine.execTraversalResult s
  | .builderCommandStart => Sys2Proof.Machine.execBuilderCommandStart s
  | .builderCommandComplete => Sys2Proof.Machine.execBuilderCommandComplete s
  | .pinDrop => Sys2Proof.Machine.execPinDrop s
  | .merge => Sys2Proof.Machine.execMerge s
  | .swapOut => Sys2Proof.Machine.execSwapOut s
  | .swapIn => Sys2Proof.Machine.execSwapIn s
  | .swapOutComplete => Sys2Proof.Machine.execSwapOutComplete s
  | .swapInComplete => Sys2Proof.Machine.execSwapInComplete s
  | .deviceReset => Sys2Proof.Machine.execDeviceReset s
  | .heartbeat => Sys2Proof.Machine.execHeartbeat s
  | .heartbeatMiss => Sys2Proof.Machine.execHeartbeatMiss s
  | .unitRestart => Sys2Proof.Machine.execUnitRestart s
  | .uncorrectableReport => Sys2Proof.Machine.execUncorrectableReport s
  | .marginSample => Sys2Proof.Machine.execMarginSample s
  | .powerCapControl => Sys2Proof.Machine.execPowerCapControl s
  | .thermalLimit => Sys2Proof.Machine.execThermalLimit s
  | .pageMoveRequest => Sys2Proof.Machine.execPageMoveRequest s
  | .pageMoveComplete => Sys2Proof.Machine.execPageMoveComplete s
  | .migrationWindowStart => Sys2Proof.Machine.execMigrationWindowStart s
  | .linkRequest => Sys2Proof.Machine.execLinkRequest s
  | .fuicaLinkDown => Sys2Proof.Machine.execFuicaLinkDown s
  | .fuicaLinkUp => Sys2Proof.Machine.execFuicaLinkUp s
  | .pcieLinkDown => Sys2Proof.Machine.execPcieLinkDown s
  | .hostW2Request => Sys2Proof.Machine.execHostW2Request s
  | .pcieOutboundCompletion => Sys2Proof.Machine.execPcieOutboundCompletion s
  | .partitionValidSet => Sys2Proof.Machine.execPartitionValidSet s
  | .partitionValidClear => Sys2Proof.Machine.execPartitionValidClear s
  | .partitionLock => Sys2Proof.Machine.execPartitionLock s
  | .jobtabLock => Sys2Proof.Machine.execJobtabLock s
  | .registerWrite => Sys2Proof.Machine.execRegisterWrite s
  | .ptpHoldover => Sys2Proof.Machine.execPtpHoldover s
  | .ptpLock => Sys2Proof.Machine.execPtpLock s
  | .pcieLinkUp => Sys2Proof.Machine.execPcieLinkUp s
  | .builtInSelfTestComplete => Sys2Proof.Machine.execBuiltInSelfTestComplete s

end Sys2Proof.Machine
end

