-- ==== Sys2Proof/Machine/Pipe.lean ====
section
/-!
DEFINITION. The M pipe of a core (07 R154): which team slot a core's M word is taken from; and what follows a turn of a context: its
core is no longer idle once a word has issued (13 R333).
-/
namespace Sys2Proof.Machine

/-- Whether the next M word of a team is ready: offered, it does not wait. -/
def State.mWordReady (s : State) (t : Nat) : Bool :=
  s.canIssue (.m t) && match s.issueNext (.m t) with
    | .stop _ => false
    | .run i u => match exec i u with
      | .next v => !v.waits (.m t)
      | _ => false

/-- The team slots of a core's active bank in rotation, by team number (log 96), starting after the one the M pipe served last. -/
def State.mOrder (s : State) (core : Nat) : List Nat :=
  let ts := s.bankTeams core (s.core core).active
  let k := ts.filter fun t => decide (t ≤ (s.core core).lastM)
  ts.drop k.length ++ k

/-- The team whose M word the pipe of a team's core serves: the first in rotation whose word is ready, else the team's own. -/
def State.mPick (s : State) (t : Nat) : Nat := ((s.mOrder (s.team t).core).find? s.mWordReady).getD t

/-- The context a turn of a context serves. A turn of an M context that has a word is a turn of its core's M pipe. -/
def State.served (s : State) (c : Ctx) : Ctx :=
  match c with
  | .m t => match s.issueNext c with
    | .stop _ => c
    | .run _ _ => .m (s.mPick t)
  | c => c

/-- After a turn of a context: its core's count of idle cycles starts again when its word has issued, and the M pipe has served it. -/
def State.afterIssue (s : State) (c : Ctx) : State :=
  let s := s.noteIssued c
  match c with
  | .m t => if s.waits c then s else s.modCore (s.team t).core fun k => { k with lastM := t }
  | _ => s

/-- What an action's outcome becomes at the end of its turn: the caches are within their capacities. -/
def endTurn (o : Outcome) (f : State → State) : Outcome :=
  match o with
  | .next s => .next (f s).boundCaches
  | .fault x => .fault x
  | .refused r => .refused r

end Sys2Proof.Machine
end

