-- ==== Sys2Proof/Machine/Step.lean ====
section
/-!
DEFINITION. One step of the device: the next turn of the schedule. A stream context that can issue is offered its next word,
or an event row of the opcode table occurs.
-/
namespace Sys2Proof.Machine

/-- Run what a turn names. -/
def State.runAction (s : State) (a : Action) : Host.Outcome State Fault Refusal :=
  match a with
  | .event i e => if eventRow i then endTurn (exec i { s with ev := e }) id else .next s
  | .issue c =>
    if s.canIssue c then
      match s.issueNext (s.served c) with
      | .run i u => endTurn (exec i u) fun v => v.afterIssue (s.served c)
      | .stop u => endTurn (.next u) id
    else .next s

def step (s : State) : Host.Outcome State Fault Refusal :=
  (s.nextTurn.2.beginTurn s.nextTurn.1).runAction s.nextTurn.1.act

/-! ## A word placed where the next step fetches it

The device loads no program itself: a program comes to run when software submits a card that names an image in memory (01, 02).
`State.withFetchWord` stands for all of that: partition 0 maps one block, an instance of one team runs an image whose word
is `w`, and the next turn offers the team's context its next word (log 7). -/

/-- The page table of partition 0: a level-1 entry at 0x8000, a level-2 block entry at 0x10000 for addresses below 128 MiB. -/
def fetchTables (m : Memory) : Memory := (m.writeN 0x8000 8 0x10001).writeN 0x10000 8 0xF

/-- Address of the word. -/
def fetchAddr : Nat := 0x20000

/-- The image: 16 bytes in the section of each stream. -/
def fetchImage : Image := { sections := List.replicate 4 (fetchAddr, 16) }

/-- A record whose kernel body is one word, about to issue it. -/
def fetchRun (w : W64) : RecRun :=
  { idx := 0, lr := { kerLen := 1, bound := 1000, trips := [1] }, st := .kernel, trips := [1], ker := [w] }

/-- The context that fetches the word: C where a direct word is legal there, else A; M for a matrix word. -/
def fetchCtx (nbits w : Nat) : Ctx := if nbits = 64 then .m 0 else if (directStreams w).contains .c then .c 0 else .a 0 0

/-- The team that fetches the word. -/
def fetchTeam (nbits w : Nat) : Team :=
  let run : CtxState := { run := some (fetchRun (BitVec.ofNat 64 w)) }
  { status := .running, ctrl := { pc := fetchAddr, bound := 1000 },
    groups := [{ actx := if fetchCtx nbits w = .a 0 0 then run else {} }],
    mctx := if fetchCtx nbits w = .m 0 then run else {} }

def State.withFetchWord (s : State) (nbits w : Nat) : State :=
  { s with
    agenda := { act := .issue (fetchCtx nbits w) } :: s.agenda
    mem := (fetchTables s.mem).writeN fetchAddr 4 w
    parts := setAt {} s.parts 0 { (s.part 0) with ptRoot := 1 }
    insts := setAt {} s.insts 0 { st := .running, image := fetchImage }
    teams := setAt {} s.teams 0 (fetchTeam nbits w)
    cores := setAt {} s.cores 0 {} }

end Sys2Proof.Machine
end

