-- ==== Sys2Proof/Safety.lean ====
section
/-!
DEFINITION. The terms claims use: a safe step, when a word may take effect, what a completed word leaves unchanged, and the
invariants that the device keeps.
-/
namespace Sys2Proof.Machine

/-- Both memories keep their canonical form. -/
def State.memWf (s : State) : Prop := s.mem.wf = true ∧ s.hostMem.wf = true

/-- A step is safe when it answers a next state. -/
def State.stepSafe (s : State) : Prop := ∃ s', step s = .next s'

/-! ## When a word takes effect -/

/-- The word being issued may take effect in one of the streams `legal`: its context can be offered an issue cycle (07 R151), its
stream runs it (05 R134), no idempotent region forbids it (20 R460), and no storage it reads is uncorrectable (20 R450). -/
def State.offers (s : State) (legal : List Stream) : Bool :=
  s.canIssue s.cur && legal.contains s.cur.stream && !(s.iw.forbidden && s.regionOpen s.cur) && s.storeCause.isNone

/-- A C word, or a word of an A, X or M record with a word of its body after it and no `mloop` replay under way (07 R160,
12 R309): its completion moves to the word after it. -/
def State.midBody (s : State) : Bool :=
  !s.iw.resumed && match s.cur with
  | .c _ => true
  | c => match (s.ctxState c).run with
    | some r => r.loopLeft == 0 && r.st.issues && decide (r.pos + s.iw.words.length < r.body.length)
    | none => false

/-- The instruction completes: the next state is `u` with the word counted and its context moved on (07 R162, 09 R193). -/
def Completes (i : Instr) (s u : State) : Prop := exec i s = .next ((Eff.done u).commit s.cur s.iw)

/-- The instruction waits and issues again (07 R151). -/
def Waits (i : Instr) (s u : State) : Prop := exec i s = .next ((Eff.wait u).commit s.cur s.iw)

/-- The instruction takes an exception: a cause at its word, with nothing of its effect done (00 R14, 20 R446). -/
def Traps (i : Instr) (s : State) (c : Cause) : Prop := exec i s = .next ((s.trapWith c).commit s.cur s.iw)

/-! ## What a word leaves unchanged -/

/-- Nothing differs but teams, and the record of unsound storage: memory, caches, cores, clusters, partitions, instances, jobs,
the registers of the lodge and the time are as they were. -/
def onlyTeams (s t : State) : Prop := t = { s with teams := t.teams, badStore := t.badStore }

/-- Nothing differs but one team, and every byte of both memories reads as before. -/
def onlyTeam (s t : State) (k : Nat) : Prop :=
  onlyTeams s t ∧ (∀ n, n ≠ k → t.team n = s.team n) ∧ ∀ a, t.mem.read a = s.mem.read a ∧ t.hostMem.read a = s.hostMem.read a

/-- The state of a record after one of its words: past the word, which is counted and signed (07 R162), and is the last it has
issued. -/
def RecRun.passed (r : RecRun) (matrix : Bool) (iw : IssueInfo) : RecRun :=
  { r with pos := r.pos + iw.words.length, count := r.count + iw.words.length, sig := sigWords matrix r.sig iw.words, lastPc := iw.pc }

/-- The control context of a team after one of its words. -/
def CtrlState.passed (k : CtrlState) (ws : List W64) (pc : Nat) : CtrlState :=
  { k with pc := pc, waiting := false, ticket := none, joining := none,
           seg := k.seg.map fun g => { g with count := g.count + ws.length, sig := sigWords false g.sig ws } }

/-- The execution state of an A, X or M context after one of its words. -/
def CtxState.passed (x : CtxState) (matrix : Bool) (iw : IssueInfo) : CtxState :=
  { x with waiting := false, run := x.run.map (·.passed matrix iw) }

/-- A direct word has completed: register `d` of its context reads `v` (register 0, and a field of A or X that names no
register, discard it, 05 R119, R120), every other register reads as before, the context is past the word, and nothing else
has changed. -/
structure ScalarDone (s t : State) (d : BitVec 6) (v : W64) : Prop where
  elsewhere : onlyTeam s t s.cur.team
  registers : ∀ n, t.readReg n = if n = d ∧ d ≠ 0 ∧ (s.cur.stream = .c ∨ d.toNat < 32) then v else s.readReg n
  context : match s.cur with
    | .c k => t.team k = { s.team k with c := (t.team k).c, ctrl := (s.team k).ctrl.passed s.iw.words s.iw.next }
    | .a k g => t.team k = { s.team k with groups := (t.team k).groups } ∧ (∀ h, h ≠ g → t.group k h = s.group k h) ∧
        t.group k g = { s.group k g with g := (t.group k g).g, actx := (s.group k g).actx.passed false s.iw }
    | .x k g => t.team k = { s.team k with groups := (t.team k).groups } ∧ (∀ h, h ≠ g → t.group k h = s.group k h) ∧
        t.group k g = { s.group k g with s := (t.group k g).s, sTaint := (t.group k g).sTaint,
                                         xctx := (s.group k g).xctx.passed false s.iw }
    | .m _ => False

/-- A C word has completed with the registers of its team reading as `c` says, its return stack `stack` and its stream at
`pc`; nothing else has changed. -/
structure ControlDone (s t : State) (k pc : Nat) (stack : List W64) (c : BitVec 6 → W64) : Prop where
  elsewhere : onlyTeam s t k
  registers : ∀ n, (t.team k).cReg n = c n
  context : t.team k = { s.team k with
    c := (t.team k).c, ctrl := { (s.team k).ctrl.passed s.iw.words pc with stack := stack } }

/-- The word being issued is a C word of team `k`, and may take effect. -/
def State.inC (s : State) (k : Nat) : Prop := s.cur = .c k ∧ s.offers [.c] = true ∧ s.iw.resumed = false

/-- A C word has completed with its team as `x` says, past the word; nothing else has changed. -/
structure TeamDone (s t : State) (k : Nat) (x : Team) : Prop where
  elsewhere : onlyTeam s t k
  team : t.team k = { x with ctrl := x.ctrl.passed s.iw.words s.iw.next }

/-- A C word of team `k` completes: the next state is `u` with the storage the word overwrote sound and the stream past the word. -/
def Passes (i : Instr) (s : State) (k : Nat) (u : State) : Prop :=
  exec i s = .next (u.repair.modTeam k fun x => { x with ctrl := x.ctrl.passed s.iw.words s.iw.next })

/-- An address of section 0 of the team's image, a multiple of 4: what a transfer of control may name (05 R113). -/
def State.codeTarget (s : State) (k : Nat) (x : Int) : Prop :=
  let im := (s.inst (s.team k).inst).image
  let base : Int := im.base + (im.sections.getD 0 (0, 0)).1
  x % 4 = 0 ∧ base ≤ x ∧ x < base + (im.sections.getD 0 (0, 0)).2

/-! ## What the direct words compute (09 R195 to R197, R201) -/

/-- A signed value as a register. -/
abbrev w64 (x : Int) : W64 := BitVec.ofInt 64 x

/-- 1 or 0 in a register. -/
def truth (p : Prop) [Decidable p] : W64 := if p then 1 else 0

/-- The register-register family: each word and `op(a, b)` (R195). -/
def integerOps : List ((BitVec 6 → BitVec 6 → BitVec 6 → Instr) × (W64 → W64 → W64)) :=
  [(.add, fun a b => w64 (a.toNat + b.toNat)), (.sub, fun a b => w64 (a.toNat - b.toNat)),
   (.mul, fun a b => w64 (a.toNat * b.toNat)), (.mulh, fun a b => w64 (a.toInt * b.toInt / 2 ^ 64)),
   (.mulhu, fun a b => w64 (a.toNat * b.toNat / 2 ^ 64)),
   (.div, fun a b => if b = 0 then w64 (-1) else w64 (a.toInt.tdiv b.toInt)),
   (.divu, fun a b => if b = 0 then w64 (2 ^ 64 - 1) else w64 (a.toNat / b.toNat)),
   (.rem, fun a b => if b = 0 then a else w64 (a.toInt - b.toInt * a.toInt.tdiv b.toInt)),
   (.remu, fun a b => if b = 0 then a else w64 (a.toNat % b.toNat))] ++
  [(.and, fun a b => a &&& b), (.or, fun a b => a ||| b), (.xor, fun a b => a ^^^ b), (.shl, fun a b => w64 (a.toNat * 2 ^ (b.toNat % 64))),
   (.shr, fun a b => w64 (a.toNat / 2 ^ (b.toNat % 64))), (.sar, fun a b => w64 (a.toInt / 2 ^ (b.toNat % 64)))] ++
  [(.min, fun a b => w64 (min a.toInt b.toInt)), (.max, fun a b => w64 (max a.toInt b.toInt)),
   (.minu, fun a b => w64 (min a.toNat b.toNat : Nat)), (.maxu, fun a b => w64 (max a.toNat b.toNat : Nat)),
   (.slt, fun a b => truth (a.toInt < b.toInt)), (.sltu, fun a b => truth (a.toNat < b.toNat)),
   (.seq, fun a b => truth (a = b)), (.sne, fun a b => truth (a ≠ b))]

/-- The immediate family with its sign-extended 12-bit immediate (R196). -/
def immediateOps : List ((BitVec 6 → BitVec 6 → BitVec 12 → Instr) × (W64 → Int → W64)) :=
  [(.addi, fun a i => w64 (a.toNat + i)), (.andi, fun a i => a &&& w64 i), (.ori, fun a i => a ||| w64 i),
   (.xori, fun a i => a ^^^ w64 i), (.slti, fun a i => truth (a.toInt < i))]

/-- The immediate shifts (R196). -/
def shiftOps : List ((BitVec 6 → BitVec 6 → BitVec 6 → Instr) × (W64 → Nat → W64)) :=
  [(.shli, fun a n => w64 (a.toNat * 2 ^ n)), (.shri, fun a n => w64 (a.toNat / 2 ^ n)), (.sari, fun a n => w64 (a.toInt / 2 ^ n))]

/-- The long immediates: the value built from the old value of the register (R197). -/
def longOps : List ((BitVec 6 → BitVec 18 → Instr) × (W64 → BitVec 18 → Nat → Bool)) :=
  [(.limm, fun _ i k => if k < 18 then i.getLsbD k else i.getLsbD 17),
   (.limmh, fun d i k => if 18 ≤ k ∧ k < 36 then i.getLsbD (k - 18) else d.getLsbD k),
   (.limmx, fun d i k => if 36 ≤ k ∧ k < 54 then i.getLsbD (k - 36) else d.getLsbD k),
   (fun d i => .limmt d (i.setWidth 10), fun d i k => if 54 ≤ k then i.getLsbD (k - 54) else d.getLsbD k)]

/-- The conditional branches (R201). -/
def branchOps : List ((BitVec 6 → BitVec 6 → BitVec 12 → Instr) × (W64 → W64 → Bool)) :=
  [(.beq, fun a b => decide (a = b)), (.bne, fun a b => decide (a ≠ b)), (.blt, fun a b => decide (a.toInt < b.toInt)),
   (.bge, fun a b => decide (b.toInt ≤ a.toInt)), (.bltu, fun a b => decide (a.toNat < b.toNat)),
   (.bgeu, fun a b => decide (b.toNat ≤ a.toNat))]

/-! ## Template words (05 R122, 07 R155, R156, 10 R236, R237, R240) -/

/-- The group of the issuing context. -/
def State.curGroup (s : State) : Group := s.group s.cur.team s.cur.group

/-- The queue conditions of an entry hold: its queues are configured and deep enough, its sources show `wait` filled slots, its
destination has `free` free slots and is not full (R155, R156, R158). -/
def State.queuesReady (s : State) (op : Nat) (t : Tpl) : Prop :=
  (∀ n ∈ (srcQueues op t).map (·.1), (Team.queue s.curGroup n).depth ≠ 0 ∧ t.wait.toNat ≤ (Team.queue s.curGroup n).depth ∧
    t.wait.toNat ≤ (Team.queue s.curGroup n).visible) ∧
  ∀ n, dstQueue op t = some n → (Team.queue s.curGroup n).depth ≠ 0 ∧ t.free.toNat ≤ (Team.queue s.curGroup n).depth ∧
    t.free.toNat ≤ (Team.queue s.curGroup n).room ∧ (Team.queue s.curGroup n).room ≠ 0

/-- Queue `n` after the advances of an entry: one pop for each of its sources with the advance bit, one slot filled for its
destination with it (R240). -/
def Que.movedBy (q : Que) (st : Stream) (op : Nat) (t : Tpl) (held : Bool) (n : Nat) : Que :=
  let pops := ((srcQueues op t).filter fun x => x.1 == n && x.2).length
  let q := (List.range pops).foldl (fun q _ => q.popHead st held) q
  if dstQueue op t = some n ∧ t.adv.getLsbD 3 = true then q.push 1 held else q

/-- Lane `l` of register `n` of the vectors a stream names: V in X, I in A. -/
def State.vec (s : State) (n l : Nat) : W32 :=
  lane (if s.cur.stream = .x then s.curGroup.vReg n else s.curGroup.iReg n) l

/-- Lane `l` of slot `j` of a queue of the issuing group. -/
def State.slotLane (s : State) (n j l : Nat) : W32 := lane ((Team.queue s.curGroup n).slots.getD j {}).lanes l

/-- A template word has completed: the vectors, predicates, s registers and queue slots of its group read as given, its queues
have moved as its entry says, its generator is `gen`, its context is past the word, and nothing else has changed. -/
structure TplDone (s u : State) (op : Nat) (t : Tpl) (gen : W32) (v : Nat → Nat → W32) (p : Nat → W32) (x : Nat → W64)
    (q : Nat → Nat → Nat → W32) : Prop where
  elsewhere : onlyTeam s u s.cur.team
  team : u.team s.cur.team = { s.team s.cur.team with groups := (u.team s.cur.team).groups }
  groups : ∀ h, h ≠ s.cur.group → u.group s.cur.team h = s.group s.cur.team h
  group : u.curGroup = { s.curGroup with
    v := u.curGroup.v, vTaint := u.curGroup.vTaint, i := u.curGroup.i, iTaint := u.curGroup.iTaint, s := u.curGroup.s,
    sTaint := u.curGroup.sTaint, p := u.curGroup.p, pTaint := u.curGroup.pTaint, queues := u.curGroup.queues, gen := gen,
    actx := if s.cur.stream = .a then s.curGroup.actx.passed false s.iw else s.curGroup.actx,
    xctx := if s.cur.stream = .x then s.curGroup.xctx.passed false s.iw else s.curGroup.xctx }
  vectors : ∀ n, ∀ l < 32, u.vec n l = v n l
  others : if s.cur.stream = .x then u.curGroup.i = s.curGroup.i else u.curGroup.v = s.curGroup.v
  preds : ∀ n, u.curGroup.pReg n = p n
  scalars : ∀ n, u.curGroup.sReg n = x n
  slots : ∀ n j, ∀ l < 32, u.slotLane n j l = q n j l
  moves : ∀ n, { Team.queue u.curGroup n with slots := [] } =
    { (Team.queue s.curGroup n).movedBy s.cur.stream op t (s.idempotent s.cur) n with slots := [] }

/-- A template word has written `val` in the active lanes of its vector or store-queue destination, and nothing else but the
movements of its queues and its generator. -/
def LanesDone (s u : State) (op : Nat) (t : Tpl) (act gen : W32) (val : Nat → W32) : Prop :=
  TplDone s u op t gen
    (fun n l => if t.dstKind = 0 ∧ n = t.dstIdx.toNat ∧ act.getLsbD l = true then val l else s.vec n l)
    s.curGroup.pReg s.curGroup.sReg
    (fun n j l => if t.dstKind = 1 ∧ n = t.dstIdx.toNat ∧ j = (Team.queue s.curGroup n).tail ∧ act.getLsbD l = true then val l
      else s.slotLane n j l)

/-- A template word has written bits of its predicate destination for the lanes of `mask`; p0 discards them. -/
def PredDone (s u : State) (op : Nat) (t : Tpl) (mask : W32) (bit : Nat → Bool) : Prop :=
  ∃ p : Nat → W32, TplDone s u op t s.curGroup.gen s.vec p s.curGroup.sReg s.slotLane ∧
    ∀ n, ∀ l < 32, (p n).getLsbD l = if n = t.dstIdx.toNat ∧ n ≠ 0 ∧ mask.getLsbD l = true then bit l else (s.curGroup.pReg n).getLsbD l

/-- A template word has written its s-register destination; s0 discards it. -/
def ScalarLaneDone (s u : State) (op : Nat) (t : Tpl) (v : W64) : Prop :=
  TplDone s u op t s.curGroup.gen s.vec s.curGroup.pReg
    (fun n => if n = t.dstIdx.toNat ∧ n ≠ 0 then v else s.curGroup.sReg n) s.slotLane

/-- The lanes of an entry's sources (10 R235). -/
def State.srcA (s : State) (t : Tpl) (l : Nat) : W32 := lane (s.readSrc t.srcA t.imm).lanes l
def State.srcB (s : State) (t : Tpl) (l : Nat) : W32 := lane (s.readSrc t.srcB t.imm).lanes l
def State.srcC (s : State) (t : Tpl) (l : Nat) : W32 := lane (s.readSrc t.srcC t.imm).lanes l

/-! ## What the vector words compute (10 R241 to R247) -/

/-- Width and signedness of an integer code, with the unsigned flag of aux[24] (R241). -/
def laneType (code : Nat) (u : Bool) : IntFmt :=
  match code with
  | 9 => { width := 16, signed := true }
  | 10 => { width := 8, signed := true }
  | 11 => { width := 8, signed := false }
  | 26 => { width := 16, signed := false }
  | _ => { width := 32, signed := !u }

/-- The integer in a lane: the low bits of its type. -/
def laneInt (f : IntFmt) (w : W32) : Int :=
  if f.signed then (BitVec.ofNat f.width w.toNat).toInt else (BitVec.ofNat f.width w.toNat).toNat

/-- An exact integer wrapped, or clamped, to its type and extended to its lane (08 R182, R241). -/
def intLane (f : IntFmt) (sat : Bool) (r : Int) : W32 :=
  let lo : Int := if f.signed then -(2 ^ (f.width - 1)) else 0
  let hi : Int := if f.signed then 2 ^ (f.width - 1) - 1 else 2 ^ f.width - 1
  let c := BitVec.ofInt f.width (if sat then max lo (min hi r) else r)
  BitVec.ofInt 32 (if f.signed then c.toInt else c.toNat)

/-- The element-wise integer words: opcode, whether saturate is allowed, and the exact result (R241, R242). -/
def vectorIntOps : List ((Tpl → BitVec 4 → Instr) × Nat × Bool × (IntFmt → Int → Int → Int → Int)) :=
  let bits (f : IntFmt) (x : Int) : BitVec f.width := BitVec.ofInt f.width x
  let by_ (f : IntFmt) (y : Int) : Nat := (y % f.width).toNat
  [(.vadd, 0x00, true, fun _ x y _ => x + y), (.vsub, 0x01, true, fun _ x y _ => x - y), (.vmul, 0x02, true, fun _ x y _ => x * y),
   (.vmulh, 0x03, false, fun f x y _ => x * y / 2 ^ f.width), (.vmad, 0x04, true, fun _ x y z => x * y + z),
   (.vand, 0x05, false, fun f x y _ => (bits f x &&& bits f y).toNat), (.vor, 0x06, false, fun f x y _ => (bits f x ||| bits f y).toNat),
   (.vxor, 0x07, false, fun f x y _ => (bits f x ^^^ bits f y).toNat), (.vshl, 0x08, true, fun f x y _ => x * 2 ^ by_ f y),
   (.vshr, 0x09, false, fun f x y _ => (bits f x >>> by_ f y).toNat)] ++
  [(.vsar, 0x0A, false, fun f x y _ => x / 2 ^ by_ f y), (.vmin, 0x0B, false, fun _ x y _ => min x y),
   (.vmax, 0x0C, false, fun _ x y _ => max x y), (.vabs, 0x0D, true, fun _ x _ _ => x.natAbs), (.vneg, 0x0E, true, fun _ x _ _ => -x),
   (.vclz, 0x11, false, fun f x _ _ => (((List.range f.width).find? fun k => (bits f x).getMsbD k).getD f.width : Nat)),
   (.vpopc, 0x12, false, fun f x _ _ => (((List.range f.width).countP fun k => (bits f x).getLsbD k) : Nat))]

/-- The element-wise floating words that round: opcode and the exact result in a mode (R245 to R247). -/
def vectorFloatOps : List ((Tpl → BitVec 4 → Instr) × Nat × (RMode → Val → Val → Val → Val)) :=
  [(.vfadd, 0x20, fun m x y _ => sumVals m [x, y]), (.vfsub, 0x21, fun m x y _ => sumVals m [x, y.neg]),
   (.vfmul, 0x22, fun _ x y _ => mulVal x y), (.vfma, 0x23, fun m x y z => sumVals m [mulVal x y, z]),
   (.vrcp, 0x27, fun _ x _ _ => divVal (.fin false 1 0) x), (.vrsq, 0x28, fun _ x _ _ => rsqrtVal x),
   (.vsqrt, 0x29, fun _ x _ _ => sqrtVal x), (.vdiv, 0x2A, fun m x y _ => quotVal m x y), (.vexp2, 0x2B, fun _ x _ _ => exp2Val x),
   (.vlog2, 0x2C, fun m x _ _ => exactZero m (log2Val x)), (.vsin, 0x2D, fun m x _ _ => sinPi m x), (.vcos, 0x2E, fun m x _ _ => cosPi m x),
   (.vlerp, 0x35, fun m x y z => sumVals m [x, mulVal z (sumVals m [y, x.neg])])]

/-- Node `m` of level `l` of the pairwise tree over lanes (08 R185): an absent child leaves the other unchanged. -/
def treeNode {α : Type} (f : α → α → α) (leaf : Nat → Option α) : Nat → Nat → Option α
  | 0, m => leaf m
  | l + 1, m =>
    match treeNode f leaf l (2 * m), treeNode f leaf l (2 * m + 1) with
    | some x, some y => some (f x y)
    | some x, none => some x
    | none, y => y

/-- The reduction of the lanes of a mask in an integer type (R251): exact, then wrapped or clamped once. -/
def intTree (f : IntFmt) (op : Nat) (sat : Bool) (mask : W32) (v : Nat → W32) : W32 :=
  let bits (x : Int) : BitVec f.width := BitVec.ofInt f.width x
  let val (b : BitVec f.width) : Int := if f.signed then b.toInt else b.toNat
  let g (x y : Int) : Int := match op with
    | 0 => x + y
    | 1 => min x y
    | 2 => max x y
    | 3 => val (bits x &&& bits y)
    | 4 => val (bits x ||| bits y)
    | _ => val (bits x ^^^ bits y)
  let identity : Int := match op with
    | 1 => if f.signed then 2 ^ (f.width - 1) - 1 else 2 ^ f.width - 1
    | 2 => if f.signed then -(2 ^ (f.width - 1)) else 0
    | 3 => val (BitVec.allOnes f.width)
    | _ => 0
  intLane f (sat && op == 0) ((treeNode g (fun l => if mask.getLsbD l then some (laneInt f (v l)) else none) 5 0).getD identity)

/-- The reduction of the lanes of a mask in a floating format (R251): `.add` rounds at every node, `.min` and `.max` do not; a NaN
operand is the canonical NaN (08 R174). -/
def floatTree (f : FloatFmt) (flush : Bool) (op : Nat) (m : RMode) (sat : Bool) (mask : W32) (v : Nat → W32) : W32 :=
  let operand (w : W32) : Nat := if f.decode (flushIn flush f w.toNat) = .nan then f.nan.getD 0 else flushIn flush f w.toNat
  let g (x y : Nat) : Nat := match op with
    | 0 => flushIn flush f (f.round m sat 0 (sumVals m [f.decode x, f.decode y]))
    | 1 => f.round .rne false 0 (minVal (f.decode x) (f.decode y))
    | _ => f.round .rne false 0 (maxVal (f.decode x) (f.decode y))
  let identity : Nat := match op with
    | 0 => 0
    | 1 => f.maxBits + 1
    | _ => f.maxBits + 1 + 2 ^ (f.width - 1)
  BitVec.ofNat 32 ((treeNode g (fun l => if mask.getLsbD l then some (operand (v l)) else none) 5 0).getD identity)

/-! ## Words of the A, X and M streams that act on more than their group -/

/-- A word of an A, X or M context completes: the next state is `u` with the word passed, counted and signed. -/
def PassesOn (i : Instr) (s u : State) : Prop :=
  exec i s = .next (u.repair.modCtx s.cur fun x => x.passed (s.cur.stream == .m) s.iw)

/-- A word raises a cause with a frame of its own: the lanes of a list, and the address of the first (20 R448, R449). -/
def TrapsLanes (i : Instr) (s : State) (c : Cause) (ls : List LaneAcc) : Prop :=
  exec i s = .next ((Eff.trap s (s.laneRaise c ls)).commit s.cur s.iw)

/-- The template entry satisfies the rules of an opcode with format code `c`, and its queues are ready. -/
def State.entryReady (s : State) (op : Nat) (r : TRule) (t : Tpl) (c : Nat) : Prop :=
  s.zeroFields r t = true ∧ s.ruleCode op r t = some c ∧ s.queuesReady op t

/-- The signed index of a lane of a memory operand: an index vector scaled, a scalar, or the immediate (11 R271). -/
def State.laneIndex (s : State) (t : Tpl) (l : Nat) : Int :=
  match t.srcB.toNat / 64 with
  | 0 => (lane (s.curGroup.iReg (t.srcB.toNat % 64)) l).toInt * 2 ^ (t.aux.toNat / 2 ^ 16 % 4)
  | 2 => (s.scalarSrc (t.srcB.toNat % 64)).toNat
  | _ => t.imm.toInt

/-- The effective address of a lane: base, index and signed displacement modulo 2^64 (11 R271). -/
def State.laneAddr (s : State) (t : Tpl) (l : Nat) : Nat :=
  (((s.scalarSrc (t.srcA.toNat % 64)).toNat + s.laneIndex t l + ((t.aux.setWidth 16 : BitVec 16)).toInt) % (2 ^ 64 : Nat)).toNat

/-- The lanes of an A word's memory operand with their addresses; the lanes whose index is tainted go home (18 R430). -/
def State.operandLanes (s : State) (t : Tpl) (p : BitVec 4) : List LaneAcc :=
  (maskLanes (s.active p)).map fun l => { lane := l, va := s.laneAddr t l, home := t.srcB.toNat / 64 == 0 &&
    (s.curGroup.iTaint.getD (t.srcB.toNat % 64) 0).getLsbD l }

/-- A list of lanes passes the checks of an access of `w` bytes before translation (11 R266, R272). -/
def State.lanesPass (s : State) (sp : Space) (base w : Nat) (ls : List LaneAcc) : Prop :=
  ∀ l ∈ ls, l.va % w = 0 ∧ match sp with
    | .global => s.curGroup.inFrame base w l.va = true ∧ l.va < 2 ^ 51
    | .scratch => l.va + w ≤ (s.inst (s.team s.cur.team).inst).image.scratchBytes

/-- The lanes that take part in a store or an atomic: those of a store-queue slot's mask (11 R278). -/
def State.partLanes (s : State) (t : Tpl) (p : BitVec 4) : W32 :=
  if t.srcC.toNat / 64 = 1 then s.active p &&& (Team.queue s.curGroup (t.srcC.toNat % 64)).headSlot.mask else s.active p

/-- The record an access word leaves behind while it is outstanding. -/
def State.accRecord (s : State) (kind : OutKind) (i : Instr) (t : Tpl) (c : Nat) (ls : List LaneAcc) : Outst :=
  { seq := 0, kind := kind, instr := i, info := s.iw, lanes := ls, width := elemBits c / 8, code := c,
    order := t.aux.toNat / 2 ^ 22 % 4, scope := t.aux.toNat / 2 ^ 19 % 8, prm := t.aux.getLsbD 24 }

/-- The atomic words of the A stream: opcode, format, opcode-specific aux bits, and the new word from OS[26], the old word, the
data and the comparand; none where nothing is written (11 R282). -/
def atomicOps : List ((Tpl → BitVec 4 → Instr) × Nat × Nat × Nat × (Bool → W32 → W32 → W32 → Option W32)) :=
  [(.aadd, 0x59, 8, 0, fun _ x v _ => some (x + v)),
   (.amin, 0x5A, 8, 0x4000000, fun u x v _ => some (if u then (if v.toNat < x.toNat then v else x) else if v.toInt < x.toInt then v else x)),
   (.amax, 0x5B, 8, 0x4000000, fun u x v _ => some (if u then (if x.toNat < v.toNat then v else x) else if x.toInt < v.toInt then v else x)),
   (.aand, 0x5C, 8, 0, fun _ x v _ => some (x &&& v)), (.aor, 0x5D, 8, 0, fun _ x v _ => some (x ||| v)),
   (.axor, 0x5E, 8, 0, fun _ x v _ => some (x ^^^ v)), (.axch, 0x5F, 8, 0, fun _ _ v _ => some v),
   (.acas, 0x60, 8, 0x1C000000, fun _ x v y => if x = y ∧ v ≠ x then some v else none),
   (.afadd, 0x61, 0, 0x4000000, fun _ x v _ =>
     some (BitVec.ofNat 32 (fp32.round .rne false 0 (sumVals .rne [fp32.decode x.toNat, fp32.decode v.toNat]))))]

/-! ## Matrix words (12 R289, R293) -/

/-- The phase a team's M stream has recorded for a barrier: 0 where it has recorded none (R307). -/
def State.mSeen (s : State) (k b : Nat) : W16 :=
  match s.barRec (.m k) b with
  | some q => q.phase
  | none => 0

/-- The barrier a matrix word waited on was invalidated meanwhile (09 R221). -/
def State.mGone (s : State) (k : Nat) (w : MFields) : Prop :=
  w.waitEn = true ∧ ∃ q, s.barRec (.m k) w.waitB.toNat = some q ∧ q.gone = true

/-- The wait or the post of a matrix word names a barrier that is not initialised (R307). -/
def State.mMissing (s : State) (k : Nat) (w : MFields) : Prop :=
  (w.waitEn = true ∧ s.barrier (s.team k).core w.waitB.toNat = none) ∨
  (w.postEn = true ∧ s.barrier (s.postCore (s.team k).core w.postB.toNat) w.postB.toNat = none)

/-- A matrix word costs more than PREEMPT_LIMIT.MCOST allows (21 R474). -/
def State.mOver (s : State) (k cost step : Nat) : Prop := s.preMcost < if isMCluster (clusterOf (s.arrayOf k)) then cost else step

/-- The wait of a matrix word is met: its barrier's phase differs from the recorded one (R307). -/
def State.mMet (s : State) (k : Nat) (w : MFields) : Prop :=
  w.waitEn = true → ∃ x, s.barrier (s.team k).core w.waitB.toNat = some x ∧ x.phase ≠ s.mSeen k w.waitB.toNat

/-- The slots a matrix word claims are filled, its destination ring has a free slot, and the operation queue has room (R288, R293). -/
def State.mFree (s : State) (k : Nat) (claims : List Claim) (fill : Option Nat) (cost : Nat) : Prop :=
  (∀ c ∈ claims, ∃ r, (s.team k).rings.getD c.ring none = some r ∧ r.claimed + c.n ≤ r.visible) ∧
  (∀ n, fill = some n → ∃ r, (s.team k).rings.getD n none = some r ∧ r.f + r.heldPop + r.resv < r.count) ∧
  s.mRoom (s.arrayOf k) cost = true

/-- A matrix word may issue (R289), and ends no `mloop`. -/
def State.mReady (s : State) (k : Nat) (w : MFields) (claims : List Claim) (fill : Option Nat) (cost step : Nat) : Prop :=
  ¬s.mGone k w ∧ ¬s.mMissing k w ∧ ¬s.mOver k cost step ∧ s.mMet k w ∧ s.mFree k claims fill cost ∧
  ∀ r, (s.team k).mctx.run = some r → r.loopEnds = false

/-- What a matrix word with good fields does where it may not issue: 0x1C0 for a barrier invalidated under its wait, 0x1C8 for one not
initialised, 0x204 for a cost above the limit, and else it waits, noted as waiting at its barrier (R289, R307). -/
def State.mStops (s : State) (i : Instr) (k : Nat) (w : MFields) (claims : List Claim) (fill : Option Nat) (cost step : Nat) : Prop :=
  let b := w.waitB.toNat
  (s.mGone k w → exec i s = .next (((s.clearBarRec (.m k) b).trapWith 0x1C0).commit s.cur s.iw)) ∧
  (¬s.mGone k w → s.mMissing k w → Traps i s 0x1C8) ∧
  (¬s.mGone k w → ¬s.mMissing k w → s.mOver k cost step → Traps i s 0x204) ∧
  (¬s.mGone k w → ¬s.mMissing k w → ¬s.mOver k cost step → ¬s.mMet k w → Waits i s (s.setBarRec
    { (s.barRec (.m k) b).getD { ctx := .m k, bar := b, phase := 0, arrived := false } with waiting := true })) ∧
  (¬s.mGone k w → ¬s.mMissing k w → ¬s.mOver k cost step → s.mMet k w → ¬s.mFree k claims fill cost → Waits i s s)

/-- The state in which a matrix word has taken the phase it waited for, claimed its slots, reserved its destination and joined the
operation queue. -/
def State.mIssued (s : State) (k : Nat) (w : MFields) (o : MOp) (claims : List Claim) (fill : Option Nat) : State :=
  let b := w.waitB.toNat
  let u := match w.waitEn, s.barrier (s.team k).core b with
    | true, some x => s.setBarRec { ctx := .m k, bar := b, phase := x.phase, arrived := false }
    | _, _ => s
  let u := u.modTeam k fun tm => claims.foldl Team.claim tm
  let u := match fill with
    | some n => u.modTeam k (·.modRing n fun r => { r with resv := r.resv + 1 })
    | none => u
  u.pushOp { o with
    info := s.iw, runBefore := (s.team k).mctx.run, latchBefore := (s.team k).latch, issued := s.cycle
    waitBefore := if w.waitEn then some (b, (s.barRec (.m k) b).map fun q => { q with waiting := false }) else none }

/-- The formats a matrix word reads: the latch, two entries of ft, or its fields (R296). -/
def Team.mReads (tm : Team) (w : MFields) (lat : Bool) (a b : BitVec 5) : Prop :=
  let n := (tm.lcReg w.lc.toNat).toNat
  (lat = true ∧ w.ind = false ∧ w.fmtA = 0 ∧ w.fmtB = 0 ∧ tm.latch = some (a, b)) ∨
  (lat = false ∧ w.ind = true ∧ n < 15 ∧ tm.ft.getD n none = some a ∧ tm.ft.getD (n + 1) none = some b) ∨
  (lat = false ∧ w.ind = false ∧ a = w.fmtA ∧ b = w.fmtB)

/-- A ring is loaded with at least `n` slots of at least `bytes`. -/
def Team.holds (tm : Team) (ring n bytes : Nat) : Prop :=
  ∃ r, tm.rings.getD ring none = some r ∧ n ≤ r.count ∧ bytes ≤ r.slotBytes

end Sys2Proof.Machine
end

