-- ==== Sys2Proof/Certificates/Slice0/Obligations.lean ====
section
/-!
DEFINITION. The claims: what the rules of the spec say, as statements about the model. `Claims.X` names a part of an obligation;
`Obligations.X` is what is to be proved.
-/
open Sys2Proof Sys2Proof.Machine

/-! ## Direct words that write a register -/

/-- R195: the opcodes of the register-register family, 0x01 to 0x17, with fn 0. -/
def Claims.IntegerWordCodes : Prop :=
  (∀ d a b : BitVec 6, integerOps.map (fun w => encodeDirect (w.1 d a b)) = (List.range 23).map fun j => some (mkDR (j + 1) d a b 0)) ∧
  ∀ (st : Stream) (w : Nat), 1 ≤ w / 2 ^ 24 → w / 2 ^ 24 ≤ 23 → w % 2 ^ 6 ≠ 0 → decodeDirect st w = .reservedEncoding 0x041 0

/-- R195: the register-register family writes `op(a, b)`, and nothing else changes. -/
def Claims.IntegerRegisterWords : Prop :=
  ∀ (s : State) (d a b : BitVec 6), s.offers intStreams = true → s.midBody = true →
    ∀ w ∈ integerOps, ∃ t, exec (w.1 d a b) s = .next t ∧ ScalarDone s t d (w.2 (s.readReg a) (s.readReg b))

/-- 09 R195: `nop` changes nothing but the position of its context. -/
def Claims.NopWord : Prop :=
  ∀ s : State, s.offers intStreams = true → s.midBody = true →
    ∃ t, exec .nop s = .next t ∧ ScalarDone s t 0 0

/-- The register-register integer words and nop: result, encoding, frame. -/
def Obligations.IntegerWords : Prop :=
  Claims.IntegerWordCodes ∧ Claims.IntegerRegisterWords ∧ Claims.NopWord

/-- R196, R197: the opcodes of the immediate families; a shift with imm12[11:6], or `limmt` with imm18[17:10], not zero raises 0x041. -/
def Claims.ImmediateWordCodes : Prop :=
  (∀ (d a : BitVec 6) (imm : BitVec 12), immediateOps.map (fun w => encodeDirect (w.1 d a imm)) =
    [0x18, 0x19, 0x1A, 0x1B, 0x1F].map fun op => some (mkDI op d a imm)) ∧
  (∀ d a sh : BitVec 6, shiftOps.map (fun w => encodeDirect (w.1 d a sh)) = [0x1C, 0x1D, 0x1E].map fun op => some (mkDR op d a 0 sh)) ∧
  (∀ (d : BitVec 6) (imm : BitVec 18), imm.toNat < 2 ^ 10 →
    longOps.map (fun w => encodeDirect (w.1 d imm)) = [0x20, 0x21, 0x22, 0x23].map fun op => some (mkDW op d imm.toNat)) ∧
  (∀ (d : BitVec 6) (imm : BitVec 18),
    (longOps.take 3).map (fun w => encodeDirect (w.1 d imm)) = [0x20, 0x21, 0x22].map fun op => some (mkDW op d imm.toNat)) ∧
  ∀ (st : Stream) (w : Nat), (w / 2 ^ 24 ∈ [0x1C, 0x1D, 0x1E] ∧ w / 2 ^ 6 % 2 ^ 6 ≠ 0) ∨ (w / 2 ^ 24 = 0x23 ∧ w / 2 ^ 10 % 2 ^ 8 ≠ 0) →
    decodeDirect st w = .reservedEncoding 0x041 0

/-- R196: the immediate family writes `op(a, imm)`. -/
def Claims.ImmediateOperandWords : Prop :=
  ∀ (s : State) (d a : BitVec 6), s.offers intStreams = true → s.midBody = true →
    (∀ imm, ∀ w ∈ immediateOps, ∃ t, exec (w.1 d a imm) s = .next t ∧ ScalarDone s t d (w.2 (s.readReg a) imm.toInt)) ∧
    (∀ sh, ∀ w ∈ shiftOps, ∃ t, exec (w.1 d a sh) s = .next t ∧ ScalarDone s t d (w.2 (s.readReg a) sh.toNat))

/-- R197: a long immediate replaces its part of the register. -/
def Claims.LongImmediateWords : Prop :=
  ∀ (s : State) (d : BitVec 6) (imm : BitVec 18), s.offers intStreams = true → s.midBody = true →
    ∀ w ∈ longOps, ∃ t v, exec (w.1 d imm) s = .next t ∧ ScalarDone s t d v ∧
      ∀ k < 64, v.getLsbD k = w.2 (s.readReg d) imm k

/-- The immediate, shift and long-immediate words: result, encoding, frame. -/
def Obligations.ImmediateWords : Prop :=
  Claims.ImmediateWordCodes ∧ Claims.ImmediateOperandWords ∧ Claims.LongImmediateWords

/-- R198, R199: the scalar binary32 words, their rounding mode and the step of the generator. -/
def Claims.ScalarRoundingWords : Prop :=
  ∀ (s : State) (d a b : BitVec 6) (sat : Bool) (mode : BitVec 3), s.offers floatStreams = true → s.midBody = true → mode ≠ 6 →
    let m := s.mode mode
    let u := (s.scalarDraw m).2
    let x := s.f32Src a
    let y := s.f32Src b
    let out (r : Val) : W64 := BitVec.ofNat 64 (flushIn (s.team s.cur.team).fpFlush fp32 (fp32.round m sat (s.scalarDraw m).1 r))
    let pick (r : Val) : W64 := BitVec.ofNat 64 (fp32.round .rne false 0 r)
    (∃ t, exec (.fadd d a b sat mode) s = .next t ∧ ScalarDone u t d (out (sumVals m [x, y]))) ∧
    (∃ t, exec (.fsub d a b sat mode) s = .next t ∧ ScalarDone u t d (out (sumVals m [x, y.neg]))) ∧
    (∃ t, exec (.fmul d a b sat mode) s = .next t ∧ ScalarDone u t d (out (mulVal x y))) ∧
    (∃ t, exec (.ffma d a b sat mode) s = .next t ∧ ScalarDone u t d (out (sumVals m [mulVal x y, s.f32Src d]))) ∧
    (∃ t, exec (.fmin d a b) s = .next t ∧ ScalarDone s t d (pick (minVal x y))) ∧
    (∃ t, exec (.fmax d a b) s = .next t ∧ ScalarDone s t d (pick (maxVal x y)))

/-- R199: `fcmp` is opcode 0x2A with its relation in fn[2:0]; fn[2:0] of 5 to 7, or fn[5:3] not zero, raises 0x041; −0 equals +0. -/
def Claims.FloatCompareCodes : Prop :=
  (∀ (d a b : BitVec 6) (rel : BitVec 3), encodeDirect (.fcmp d a b rel) = some (mkDR 0x2A d a b (rel.setWidth 6))) ∧
  (∀ (st : Stream) (w : Nat), w / 2 ^ 24 = 0x2A → 5 ≤ w % 2 ^ 6 → decodeDirect st w = .reservedEncoding 0x041 0) ∧
  eqVal (fp32.decode 0x80000000) (fp32.decode 0) = true ∧ ltVal (fp32.decode 0x80000000) (fp32.decode 0) = false

/-- R199: `fcmp` writes 1 when its relation holds and 0 otherwise; EQ, LT and LE are false and UN and NE true when an operand is
NaN. -/
def Claims.FloatCompareWord : Prop :=
  ∀ (s : State) (d a b : BitVec 6) (rel : BitVec 3), s.offers floatStreams = true → s.midBody = true → rel.toNat ≤ 4 →
    let x := s.f32Src a
    let y := s.f32Src b
    let un : Prop := x = .nan ∨ y = .nan
    ∃ (t : State) (v : Bool), exec (.fcmp d a b rel) s = .next t ∧ ScalarDone s t d (if v then 1 else 0) ∧
      (rel = 0 → (v = true ↔ ¬un ∧ eqVal x y = true)) ∧ (rel = 1 → (v = true ↔ ¬un ∧ ltVal x y = true)) ∧
      (rel = 2 → (v = true ↔ ¬un ∧ (ltVal x y = true ∨ eqVal x y = true))) ∧ (rel = 3 → (v = true ↔ un)) ∧
      (rel = 4 → (v = true ↔ un ∨ eqVal x y = false))

/-- R200: `fcvt` converts between the types its field names; equal types, two integer types and type 7 raise 0x041. -/
def Claims.FloatConvertWord : Prop :=
  ∀ (s : State) (d a : BitVec 6) (src dst : BitVec 3) (sat : Bool) (mode : BitVec 3), s.offers floatStreams = true →
    let bad := src = dst ∨ src = 7 ∨ dst = 7 ∨ (3 ≤ src.toNat ∧ 3 ≤ dst.toNat)
    let m := s.mode mode
    let fl := (s.team s.cur.team).fpFlush
    let r := cvtDst fl (fcvtType dst.toNat) m sat (s.scalarDraw m).1 (cvtSrc fl m (fcvtType src.toNat) (s.readReg a).toNat)
    (bad → Traps (.fcvt d a src dst sat mode) s 0x041) ∧
    (¬bad → mode ≠ 6 → s.midBody = true → ∃ t, exec (.fcvt d a src dst sat mode) s = .next t ∧
      ScalarDone (s.scalarDraw m).2 t d (if dst = 3 then (BitVec.ofNat 32 r).signExtend 64 else BitVec.ofNat 64 r))

/-- The scalar binary32 words: arithmetic, fcmp with its relations, fcvt. -/
def Obligations.ScalarFloatWords : Prop :=
  Claims.ScalarRoundingWords ∧ Claims.FloatCompareCodes ∧ Claims.FloatCompareWord ∧ Claims.FloatConvertWord

/-! ## Control flow -/

/-- R201: the opcodes of the transfers of control; `brx` with n = 0 raises 0x041. -/
def Claims.TransferWordCodes : Prop :=
  (∀ (a b : BitVec 6) (off : BitVec 12), branchOps.map (fun w => encodeDirect (w.1 a b off)) =
    (List.range 6).map fun j => some (mkDI (0x31 + j) a b off)) ∧
  (∀ (a n : BitVec 6) (off : BitVec 12) (far : BitVec 24), encodeDirect (.b far) = some (mkDJ 0x30 far) ∧
    encodeDirect (.jr a) = some (mkDR 0x3A 0 a 0 0) ∧ encodeDirect (.brx a n) = some (mkDR 0x3B 0 a 0 n) ∧
    encodeDirect (.loop a off) = some (mkDI 0x3C a 0 off)) ∧
  ∀ (st : Stream) (w : Nat), w / 2 ^ 24 = 0x3B → w % 2 ^ 6 = 0 → decodeDirect st w = .reservedEncoding 0x041 0

/-- R201: a branch transfers control when its condition holds, and continues with the next word when it does not. -/
def Claims.BranchWords : Prop :=
  ∀ (s : State) (k : Nat) (a b : BitVec 6) (off : BitVec 12), s.inC k →
    let c := (s.team k).cReg
    let stack := (s.team k).ctrl.stack
    let target := (s.iw.pc : Int) + 4 * off.toInt
    ∀ w ∈ branchOps,
      (w.2 (c a) (c b) = true → s.codeTarget k target →
        ∃ t, exec (w.1 a b off) s = .next t ∧ ControlDone s t k target.toNat stack c) ∧
      (w.2 (c a) (c b) = true → ¬s.codeTarget k target → Traps (w.1 a b off) s 0x041) ∧
      (w.2 (c a) (c b) = false → ∃ t, exec (w.1 a b off) s = .next t ∧ ControlDone s t k s.iw.next stack c)

/-- R201, R113: `b`, `jr` and `brx` transfer control to a word of section 0, and raise 0x041 at any other target. -/
def Claims.JumpWords : Prop :=
  ∀ (s : State) (k : Nat) (a n : BitVec 6) (off : BitVec 24), s.inC k →
    let c := (s.team k).cReg
    let stack := (s.team k).ctrl.stack
    ∀ w ∈ [(Instr.b off, (s.iw.pc : Int) + 4 * off.toInt), (Instr.jr a, ((c a).toNat : Int)),
           (Instr.brx a n, (s.iw.pc : Int) + 4 + 4 * (min (c a).toNat (n.toNat - 1) : Nat))],
      (s.codeTarget k w.2 → ∃ t, exec w.1 s = .next t ∧ ControlDone s t k w.2.toNat stack c) ∧
      (¬s.codeTarget k w.2 → Traps w.1 s 0x041)

/-- R201: `loop` counts its register down and branches while the new value is not zero; a register that is zero stays zero. -/
def Claims.LoopWord : Prop :=
  ∀ (s : State) (k : Nat) (a : BitVec 6) (off : BitVec 12), s.inC k →
    let c := (s.team k).cReg
    let stack := (s.team k).ctrl.stack
    let target := (s.iw.pc : Int) + 4 * off.toInt
    let down : BitVec 6 → W64 := fun n => if n = a then w64 ((c a).toNat - 1) else c n
    (a = 0 → Traps (.loop a off) s 0x041) ∧
    (a ≠ 0 → c a = 0 → ∃ t, exec (.loop a off) s = .next t ∧ ControlDone s t k s.iw.next stack c) ∧
    (a ≠ 0 → c a = 1 → ∃ t, exec (.loop a off) s = .next t ∧ ControlDone s t k s.iw.next stack down) ∧
    (a ≠ 0 → 1 < (c a).toNat → s.codeTarget k target →
      ∃ t, exec (.loop a off) s = .next t ∧ ControlDone s t k target.toNat stack down) ∧
    (a ≠ 0 → 1 < (c a).toNat → ¬s.codeTarget k target → Traps (.loop a off) s 0x041)

/-- R202: calls push the return address and write it to c62; `ret` pops it, and c62 takes the new top, or 0 when none is left;
depth 16 raises 0x048 and depth 0 raises 0x049. -/
def Claims.CallWords : Prop :=
  ∀ (s : State) (k : Nat) (a : BitVec 6) (off : BitVec 24), s.inC k →
    let c := (s.team k).cReg
    let stack := (s.team k).ctrl.stack
    let back : W64 := BitVec.ofNat 64 (s.iw.pc + 4)
    let link (v : W64) : BitVec 6 → W64 := fun n => if n = 62 then v else c n
    (∀ w ∈ [(Instr.call off, (s.iw.pc : Int) + 4 * off.toInt), (Instr.callr a, ((c a).toNat : Int))],
      (16 ≤ stack.length → Traps w.1 s 0x048) ∧
      (stack.length < 16 → s.codeTarget k w.2 →
        ∃ t, exec w.1 s = .next t ∧ ControlDone s t k w.2.toNat (back :: stack) (link back)) ∧
      (stack.length < 16 → ¬s.codeTarget k w.2 → Traps w.1 s 0x041)) ∧
    (stack = [] → Traps .ret s 0x049) ∧
    (∀ ra rest, stack = ra :: rest → s.codeTarget k ra.toNat →
      ∃ t, exec .ret s = .next t ∧ ControlDone s t k ra.toNat rest (link (rest.headD 0))) ∧
    (∀ ra rest, stack = ra :: rest → ¬s.codeTarget k ra.toNat → Traps .ret s 0x041)

/-- Branches, jumps, loop, calls and returns, and their checked targets. -/
def Obligations.TransferWords : Prop :=
  Claims.TransferWordCodes ∧ Claims.BranchWords ∧ Claims.JumpWords ∧ Claims.LoopWord ∧ Claims.CallWords

/-! ## Loop registers, tables, queues and records -/

/-- R203 to R206: the words that load loop registers, format entries, rings and template blocks. -/
def Claims.TableWords : Prop :=
  ∀ (s : State) (k : Nat) (n a : BitVec 6) (imm : BitVec 12), s.inC k →
    let tm := s.team k
    let v := tm.cReg a + imm.signExtend 64
    (8 ≤ n.toNat → Traps (.lset n a imm) s 0x041) ∧
    (n.toNat < 8 → ∃ t, exec (.lset n a imm) s = .next t ∧
      TeamDone s t k { tm with lc := setAt 0 tm.lc n.toNat (v.setWidth 32) }) ∧
    (n.toNat < 16 → 31 < v.toNat → Traps (.fmtset n a imm) s 0x041) ∧
    (16 ≤ n.toNat → (n ≠ 63 ∨ a ≠ 0 ∨ imm ≠ 0) → Traps (.fmtset n a imm) s 0x041) ∧
    (n.toNat < 16 → v.toNat ≤ 31 → ∃ t, exec (.fmtset n a imm) s = .next t ∧
      TeamDone s t k { tm with ft := setAt none tm.ft n.toNat (some (v.setWidth 5)) }) ∧
    (∀ bs, s.sectionBytes k 6 0 (min 16 (s.sectionSize k 6)) = .inr bs → ∃ t, exec (.fmtset 63 0 0) s = .next t ∧
      TeamDone s t k { tm with ft := (List.range 16).map fun j =>
        if (bs.getD j 0).getLsbD 7 then some ((bs.getD j 0).setWidth 5) else none }) ∧
    (∀ bs, n.toNat < 8 → imm.toNat < 8 → 8 * imm.toNat + 8 ≤ s.sectionSize k 5 →
      s.sectionBytes k 5 (8 * imm.toNat) 8 = .inr bs → 128 ≤ (bs.getD 7 0).toNat → (bs.getD 7 0).toNat % 8 = n.toNat →
      (tm.amQuiet = true → ∃ t, exec (.mbset n imm) s = .next t ∧
        TeamDone s t k { tm with rings := setAt none tm.rings n.toNat (some
          { base := natOfBytes (bs.take 4), slotBytes := natOfBytes ((bs.drop 4).take 2), count := (bs.getD 6 0).toNat }) }) ∧
      (tm.amQuiet = false → Waits (.mbset n imm) s s)) ∧
    (∀ bs, (v.toNat + 1) * 1040 ≤ s.sectionSize k 4 → s.sectionBytes k 4 (v.toNat * 1040) 1040 = .inr bs →
      (tm.axQuiet = true → ∃ t, exec (.tpload a imm) s = .next t ∧
        TeamDone s t k { tm with
          tplBlock := v.toNat
          tpl := (List.range 64).map fun j =>
            if bitsOf (natOfBytes (bs.take 8)) j 1 = 1 then some (BitVec.ofNat 128 (natOfBytes ((bs.drop (16 + 16 * j)).take 16)))
            else none })) ∧
    ((v.toNat + 1) * 1040 ≤ s.sectionSize k 4 → tm.axQuiet = false → Waits (.tpload a imm) s s) ∧
    (s.sectionSize k 4 < (v.toNat + 1) * 1040 → Traps (.tpload a imm) s 0x041)

/-- R207: `qcfg` gives a queue of the named groups a depth, empty with head and tail at slot 0; bad operands raise 0x041 and
more than 16 slots in a group 0x088, and the word waits for the groups' records. -/
def Claims.QueueConfigWord : Prop :=
  ∀ (s : State) (k : Nat) (q a : BitVec 6) (depth : BitVec 12), s.inC k →
    let tm := s.team k
    let m := (tm.cReg a).toNat
    let ok := q.toNat < 16 ∧ tm.maskOk m = true ∧ depth.toNat ≠ 1 ∧ depth.toNat ≤ 16
    let fits := ∀ g ∈ maskGroups m, (tm.group g).depths q.toNat depth.toNat ≤ 16
    let idle := ∀ g ∈ maskGroups m, (tm.group g).actx.idle = true ∧ (tm.group g).xctx.idle = true
    (¬ok → Traps (.qcfg q a depth) s 0x041) ∧ (ok → ¬fits → Traps (.qcfg q a depth) s 0x088) ∧
    (ok → fits → ¬idle → Waits (.qcfg q a depth) s s) ∧
    (ok → fits → idle → ∃ t, exec (.qcfg q a depth) s = .next t ∧
      (∀ n, n ≠ k → t.team n = s.team n) ∧
      t = { s with teams := t.teams, badStore := t.badStore, pending := t.pending } ∧
      t.team k = { tm with groups := (t.team k).groups, ctrl := tm.ctrl.passed s.iw.words s.iw.next } ∧
      (∀ g, g ∉ maskGroups m → t.group k g = s.group k g) ∧
      ∀ g ∈ maskGroups m,
        t.group k g = { s.group k g with queues := (t.group k g).queues, smps := (t.group k g).smps, traces := (t.group k g).traces } ∧
        (∀ j, j ≠ q.toNat → Team.queue (t.group k g) j = Team.queue (s.group k g) j) ∧
        (Team.queue (t.group k g) q.toNat).depth = depth.toNat ∧ (Team.queue (t.group k g) q.toNat).f = 0 ∧
        (Team.queue (t.group k g) q.toNat).head = 0 ∧ (Team.queue (t.group k g) q.toNat).tail = 0 ∧
        (Team.queue (t.group k g) q.toNat).bind = .none)

/-- lset, fmtset, mbset, tpload and qcfg: what they set, what they refuse, what they wait for. -/
def Obligations.TableAndQueueWords : Prop :=
  Claims.TableWords ∧ Claims.QueueConfigWord

/-- R208: `runa` and `runx` issue a checked record to every named group at once: its trips read now, LIVE of an X context all
ones, a record with a zero trip RETIRED at once (01 R37). 0x041 for a mask or number with bits set above its field, an absent or
invalid record, and a REFILL record before the team's tile is declared; 0x204 for a bound above PREEMPT_LIMIT (21 R473); a wait while
a context has a record under way. -/
def Claims.RunGroupWords : Prop :=
  ∀ (s : State) (k : Nat) (a b : BitVec 6), s.inC k →
    let tm := s.team k
    let m := (tm.cReg b).toNat
    let n := (tm.cReg a).toNat
    let im := (s.inst tm.inst).image
    let fields := tm.maskOk m = true ∧ n < 2 ^ 16
    ∀ w ∈ [(Instr.runa a b, 0, Ctx.a k), (Instr.runx a b, 1, Ctx.x k)],
      let free := ∀ g ∈ maskGroups m, (s.ctxState (w.2.2 g)).idle = true ∧ (s.ctxState (w.2.2 g)).resume = []
      (¬fields → Traps w.1 s 0x041) ∧
      (fields → ¬free → Waits w.1 s s) ∧
      (fields → free → im.recordCount ≤ n → Traps w.1 s 0x041) ∧
      (fields → free → n < im.recordCount → ∀ e, s.readRecord k n = .inl e →
        exec w.1 s = .next ((Eff.trap s (s.raiseErr e)).commit s.cur s.iw)) ∧
      (fields → free → n < im.recordCount → ∀ rec, s.readRecord k n = .inr rec →
        let run : RecRun := entryRun tm.lc n rec s.cycle
        let started : RecRun := if run.trips.foldl (· * ·) 1 = 0 then { run with st := .retired } else run
        let valid := recordValid im w.2.1 rec = true ∧ (w.2.1 = 1 → bitsOf rec.flags 3 1 = 1 → tm.tile ≠ none)
        (¬valid → Traps w.1 s 0x041) ∧ (valid → s.iterOk run = false → Traps w.1 s 0x204) ∧
        (valid → s.iterOk run = true → ∃ t, exec w.1 s = .next t ∧ onlyTeam s t k ∧
          t.team k = { tm with groups := (t.team k).groups, ctrl := tm.ctrl.passed s.iw.words s.iw.next } ∧
          (∀ g, g ∉ maskGroups m → t.group k g = s.group k g) ∧
          ∀ g ∈ maskGroups m,
            (w.2.1 = 0 → t.group k g = { s.group k g with actx := { (s.group k g).actx with run := some started, stopped := false } }) ∧
            (w.2.1 = 1 → t.group k g = { s.group k g with
              live := 0xFFFFFFFF#32, items := [], xctx := { (s.group k g).xctx with run := some started, stopped := false } })))

/-- R208, 12 R310: `runm` issues a record to the M stream; it waits for the record before it and that record's operations. 0x041
for a number with bits above its field, after `mend`, and for an absent or invalid record; 0x204 for a bound above PREEMPT_LIMIT. -/
def Claims.RunMatrixWord : Prop :=
  ∀ (s : State) (k : Nat) (a : BitVec 6), s.inC k →
    let tm := s.team k
    let r := s.endPull k
    let n := (tm.cReg a).toNat
    let im := (s.inst tm.inst).image
    let fields := n < 2 ^ 16 ∧ tm.mEnded = false
    let free := s.hasOps k = false ∧ tm.mctx.idle = true ∧ tm.mctx.resume = []
    let raises (c : Cause) : Prop := exec (.runm a) s = .next ((r.trapWith c).commit s.cur s.iw)
    (¬fields → Traps (.runm a) s 0x041) ∧
    (fields → ¬free → Waits (.runm a) s s) ∧
    (fields → free → im.recordCount ≤ n → raises 0x041) ∧
    (fields → free → n < im.recordCount → ∀ e, r.readRecord k n = .inl e →
      exec (.runm a) s = .next ((Eff.trap r (r.raiseErr e)).commit s.cur s.iw)) ∧
    (fields → free → n < im.recordCount → ∀ rec, r.readRecord k n = .inr rec →
      let run : RecRun := entryRun tm.lc n rec s.cycle
      (recordValid im 2 rec = false → raises 0x041) ∧ (recordValid im 2 rec = true → s.iterOk run = false → raises 0x204) ∧
      (recordValid im 2 rec = true → s.iterOk run = true → Passes (.runm a) s k (r.modTeam k fun x => { x with mctx := { x.mctx with
        run := some (if run.trips.foldl (· * ·) 1 = 0 then { run with st := .retired } else run), stopped := false } })))

/-- runa, runx and runm issue a checked loop record to its contexts. -/
def Obligations.RecordIssueWords : Prop :=
  Claims.RunGroupWords ∧ Claims.RunMatrixWord

/-! ## Memory, atomics, fences -/

/-- R215: `cld` reads 8 bytes through the L1 into its register; it changes no byte of memory, no other team and no other field of
its own. -/
def Claims.ScalarLoadWord : Prop :=
  ∀ (s u v : State) (k pa : Nat) (d a : BitVec 6) (imm : BitVec 12) (bs : List Byte), s.inC k →
    let tm := s.team k
    let va := (tm.cReg a + imm.signExtend 64).toNat
    tm.ctrl.withdrawn = false → s.checkAddr k none va 8 .read = .inr (pa, u) → u.coreRead k va pa 8 = .ok bs v →
    ∃ t, exec (.cld d a imm) s = .next t ∧
      (∀ n, (t.team k).cReg n = if n = d ∧ d ≠ 0 then BitVec.ofNat 64 (natOfBytes bs) else tm.cReg n) ∧
      t.team k = { tm with c := (t.team k).c, ctrl := { tm.ctrl.passed s.iw.words s.iw.next with heldOn := none } } ∧
      (∀ n, n ≠ k → t.team n = s.team n) ∧ t.mem = s.mem ∧ t.hostMem = s.hostMem

/-- R192, R215, R216: a C access with address bits [63:51] set raises 0x101 and one that is not 8-byte aligned 0x0C1; nothing
of its effect happens. -/
def Claims.ScalarAccessFaults : Prop :=
  ∀ (s : State) (k : Nat) (d a b : BitVec 6) (imm : BitVec 12) (op : BitVec 3) (ord : BitVec 2) (sc : BitVec 3), s.inC k →
    let tm := s.team k
    let sum := (tm.cReg a + imm.signExtend 64).toNat
    let reg := (tm.cReg a).toNat
    let fails (i : Instr) (va : Nat) (kind : AccessKind) : Prop :=
      (2 ^ 51 ≤ va → exec i s = .next (s.raise k (s.raiseErr { cause := 0x101, vaddr := va, kind := kind }) s.iw.words.length s.iw.next)) ∧
      (va < 2 ^ 51 → va % 8 ≠ 0 →
        exec i s = .next (s.raise k (s.raiseErr { cause := 0x0C1, vaddr := va, kind := kind }) s.iw.words.length s.iw.next))
    fails (.cld d a imm) sum .read ∧ fails (.cst d a imm) sum .write ∧
    (∀ i ∈ [Instr.camoTeam d a b op ord false, .camoClu d a b op ord, .camoDev d a b op ord, .camoSys d a b op ord,
            .ctrpost a b sc], fails i reg .atomic) ∧
    fails (.ctrwait a b sc) reg .read

/-- R215: `cst` stores its 8 bytes at the address checked and nowhere else: through the L1 (the bytes valid and dirty, memory as
before), at home when no L1 may hold the line, or as a register write. -/
def Claims.ScalarStoreWord : Prop :=
  ∀ (s u : State) (k pa : Nat) (d a : BitVec 6) (imm : BitVec 12), s.inC k →
    let tm := s.team k
    let va := (tm.cReg a + imm.signExtend 64).toNat
    let bs := bytesOfNat 8 (tm.cReg d).toNat
    let acc := u.accOf k va
    tm.ctrl.withdrawn = false → s.checkAddr k none va 8 .write = .inr (pa, u) → u.heldBy acc.pid va 8 = none →
    ∃ t, exec (.cst d a imm) s = .next t ∧
      t.team k = { tm with
        ctrl := { tm.ctrl.passed s.iw.words s.iw.next with heldOn := none }, craise := (t.team k).craise } ∧
      (∀ x, ¬(pa ≤ x ∧ x < pa + 8) → t.mem.read x = s.mem.read x ∧
        t.l1.filter (fun b => b.pa == x) = s.l1.filter (fun b => b.pa == x)) ∧
      (∀ x, ¬(pa ≤ x + 2 ^ 47 ∧ x + 2 ^ 47 < pa + 8) → t.hostMem.read x = s.hostMem.read x) ∧
      (∀ off, u.physTarget pa = .window off → t.lodge.regQueue = s.lodge.regQueue ++ [{ off := off, data := tm.cReg d, bytes := 8 }]) ∧
      (u.physTarget pa = .mem → u.uncached acc.pid va pa = false →
        t.mem = s.mem ∧ ∀ j < 8, (t.l1Find acc (pa + j)).map (fun b => (b.val, b.dirty)) = some (bs.getD j 0, true)) ∧
      (u.physTarget pa = .mem → u.uncached acc.pid va pa = true → acc.rev = 0 → u.revs = [] → u.mem.wf = true → pa % 8 = 0 →
        ∀ j < 8, t.mem.read (pa + j) = bs.getD j 0)

/-- cld and cst: the loaded value, the stored bytes and no others, the access faults. -/
def Obligations.ScalarAccessWords : Prop :=
  Claims.ScalarLoadWord ∧ Claims.ScalarAccessFaults ∧ Claims.ScalarStoreWord

/-- R216, R217: an atomic at .clu or wider reads and writes its 8 bytes at home, between the release and acquire actions of its
order, and its register takes the old value; `ctrpost` adds. -/
def Claims.CoherentAtomicWords : Prop :=
  ∀ (s u v : State) (k pa old : Nat) (d a b : BitVec 6) (op : BitVec 3) (ord : BitVec 2) (sc : BitVec 3), s.inC k →
    let tm := s.team k
    let va := (tm.cReg a).toNat
    let f (x : Nat) : Option Nat := match op.toNat with
      | 0 => some ((x + (tm.cReg b).toNat) % 2 ^ 64)
      | 1 => some (w64 (min (BitVec.ofNat 64 x).toInt (tm.cReg b).toInt)).toNat
      | 2 => some (w64 (max (BitVec.ofNat 64 x).toInt (tm.cReg b).toInt)).toNat
      | 3 => some (BitVec.ofNat 64 x &&& tm.cReg b).toNat
      | 4 => some (BitVec.ofNat 64 x ||| tm.cReg b).toNat
      | 5 => some (BitVec.ofNat 64 x ^^^ tm.cReg b).toNat
      | 6 => some (tm.cReg b).toNat
      | _ => if BitVec.ofNat 64 x = tm.cReg d then some (tm.cReg b).toNat else none
    tm.ctrl.withdrawn = false → s.checkAddr k none va 8 .atomic = .inr (pa, u) →
    (∀ w ∈ [(Instr.camoClu d a b op ord, 2), (Instr.camoDev d a b op ord, 3), (Instr.camoSys d a b op ord, 4)],
      u.atomicAt k va pa 8 w.2 ord.toNat f = .ok old v →
      Passes w.1 s k ((v.modCtrl k fun c => { c with heldOn := none }).modTeam k (·.setC d (BitVec.ofNat 64 old)))) ∧
    (u.atomicAt k va pa 8 1 ord.toNat f = .ok old v →
      Passes (.camoTeam d a b op ord false) s k ((v.modCtrl k fun c => { c with heldOn := none }).modTeam k (·.setC d (BitVec.ofNat 64 old)))) ∧
    (u.atomicPrm k va pa 8 ord.toNat f = .ok old v →
      Passes (.camoTeam d a b op ord true) s k ((v.modCtrl k fun c => { c with heldOn := none }).modTeam k (·.setC d (BitVec.ofNat 64 old)))) ∧
    (u.atomicAt k va pa 8 sc.toNat 2 (fun x => some ((x + (tm.cReg b).toNat) % 2 ^ 64)) = .ok old v →
      Passes (.ctrpost a b sc) s k (v.modCtrl k fun c => { c with heldOn := none }))

/-- R222: `ctrwait` passes, with the acquire side of its scope, once the counter is at least its operand, and waits until then. -/
def Claims.CounterWaitWord : Prop :=
  ∀ (s u v : State) (k pa : Nat) (a b : BitVec 6) (scope : BitVec 3) (bs : List Byte), s.inC k →
    let tm := s.team k
    let va := (tm.cReg a).toNat
    tm.ctrl.withdrawn = false → s.checkAddr k none va 8 .read = .inr (pa, u) → u.readAt k va pa 8 scope.toNat = .ok bs v →
    let w := v.modCtrl k fun c => { c with heldOn := none }
    ((tm.cReg b).toNat ≤ natOfBytes bs → scope.toNat < 2 → Passes (.ctrwait a b scope) s k w) ∧
    ((tm.cReg b).toNat ≤ natOfBytes bs → 2 ≤ scope.toNat → Passes (.ctrwait a b scope) s k (w.acquireCore tm.core)) ∧
    (natOfBytes bs < (tm.cReg b).toNat → Waits (.ctrwait a b scope) s w)

/-- camo, ctrpost and ctrwait: read, modify, write at home with release and acquire. -/
def Obligations.ScalarAtomicWords : Prop :=
  Claims.CoherentAtomicWords ∧ Claims.CounterWaitWord

/-- R217, 13 R318: `fence` waits in A for the group's earlier accesses, then takes the actions of its order at its scope, which with
PRM is at least .dev (18 R422): after a release at .clu or wider no shared byte of the core is dirty, after an acquire every shared
byte it still holds is dirty. With the sampler bit no line of the partition stays in a sampler cache (18 R424). -/
def Claims.FenceWord : Prop :=
  ∀ (s : State) (samp : Bool) (ord : BitVec 2) (scope : BitVec 3) (prm : Bool), s.offers [.c, .a] = true →
    let core := (s.team s.cur.team).core
    let rel := ord = 2 ∨ ord = 3
    let acq := ord = 1 ∨ ord = 3
    let wide := 2 ≤ scope.toNat ∨ prm = true
    let u₁ := if rel ∧ wide then s.releaseCore core else s
    let u₂ := if acq ∧ wide then u₁.acquireCore core else u₁
    let u₃ := if samp then u₂.fenceSamp s.cur.team else u₂
    let open_ := s.cur.stream = .a ∧ (s.group s.cur.team s.cur.group).outst ≠ []
    (open_ → Waits (.fence samp ord scope prm) s s) ∧
    (¬open_ → Completes (.fence samp ord scope prm) s u₃ ∧
      (rel ∧ wide → ∀ b ∈ u₃.l1, b.core = core → b.priv = false → b.dirty = false) ∧
      (acq ∧ wide → ¬rel → samp = false → ∀ b ∈ u₃.l1, b.core = core → b.priv = false → b.dirty = true) ∧
      (samp = true → ∀ b ∈ u₃.samp, b.pid ≠ s.pidOf s.cur.team))

/-- 13 R317, R318: the release side of a scope at .clu or wider brings the core's dirty shared byte to its home. -/
def Claims.ReleaseReachesMemory : Prop :=
  ∀ (s : State) (core : Nat) (b : L1Byte), s.l1.filter (fun x => x.core == core && x.dirty && !x.priv) = [b] →
    s.mem.wf = true → s.revs = [] → s.bad = [] → s.physTarget b.pa = .mem →
    (s.releaseCore core).mem.read b.pa = b.val ∧ (∀ a, a ≠ b.pa → (s.releaseCore core).mem.read a = s.mem.read a) ∧
    (s.releaseCore core).hostMem = s.hostMem ∧ (s.releaseCore core).teams = s.teams

/-- fence takes the release and acquire actions of its scope on the L1. -/
def Obligations.FenceWords : Prop :=
  Claims.FenceWord ∧ Claims.ReleaseReachesMemory

/-! ## Barriers, counters, the ready table -/

/-- R218, R219: `bar.init` sets COUNT, with ARRIVED and PHASE 0, clears the recorded phases of every context of the core and makes the
team the owner; 0x041 for a bad number or count, 0x1C1 for a barrier with an arrival or a waiting context. -/
def Claims.BarrierInitWord : Prop :=
  ∀ (s : State) (k : Nat) (a b : BitVec 6), s.inC k →
    let tm := s.team k
    let num := (tm.cReg a).toNat
    let count := (tm.cReg b).toNat
    let ok := num < 128 ∧ 1 ≤ count ∧ count ≤ 65535
    let waited := ∃ x ∈ s.teams, x.core = tm.core ∧ x.status.live = true ∧
      ∃ r ∈ x.barRecs, r.bar = num ∧ r.waiting = true ∧ r.gone = false ∧ x.waits r.ctx = true
    let busy := ∃ x, s.barrier tm.core num = some x ∧ (0 < x.arrived ∨ waited)
    (¬ok → Traps (.barInit a b) s 0x041) ∧ (ok → busy → Traps (.barInit a b) s 0x1C1) ∧
    (ok → ¬busy → ∃ t, exec (.barInit a b) s = .next t ∧
      t = { s with teams := t.teams, cores := t.cores, badStore := t.badStore } ∧
      t.barrier tm.core num = some { count := count, arrived := 0, phase := 0, owner := k } ∧
      (∀ m, m ≠ num → t.barrier tm.core m = s.barrier tm.core m) ∧
      (∀ c, c ≠ tm.core → t.core c = s.core c) ∧
      t.core tm.core = { s.core tm.core with barriers := (t.core tm.core).barriers } ∧
      (∀ j, (t.team j).barRecs =
        if (s.team j).core = tm.core then (s.team j).barRecs.filter (fun r => r.bar != num || r.gone) else (s.team j).barRecs) ∧
      (∀ j, j ≠ k → t.team j = { s.team j with barRecs := (t.team j).barRecs }) ∧
      t.team k = { tm with barRecs := (t.team k).barRecs, ctrl := tm.ctrl.passed s.iw.words s.iw.next })

/-- R221, 12 R307: `bar.inval` makes the barrier uninitialised; every context that waits on it is marked to trap with 0x1C0 at its
wait, and the posts of M words issued to it are lost. -/
def Claims.BarrierInvalWord : Prop :=
  ∀ (s : State) (k : Nat) (n : BitVec 7), s.inC k →
    let core := (s.team k).core
    let u := s.invalBarrier core n.toNat
    Passes (.barInval n) s k u ∧ u = { s with teams := u.teams, cores := u.cores } ∧
    u.barrier core n.toNat = none ∧ (∀ m, m ≠ n.toNat → u.barrier core m = s.barrier core m) ∧
    (∀ c m, c ≠ core → u.barrier c m = s.barrier c m) ∧
    (∀ j, (u.team j).barRecs = if (s.team j).core = core then (s.team j).barRecs.map (fun r =>
      if r.bar = n.toNat ∧ (s.team j).status.live = true ∧ r.waiting = true ∧ (s.team j).waits r.ctx = true then
        { r with gone := true } else r) else (s.team j).barRecs) ∧
    (∀ c, (u.core c).mops = (s.core c).mops.map fun o => if (s.team o.team).core = core then losePost n.toNat o else o) ∧
    ∀ j, u.team j = { s.team j with barRecs := (u.team j).barRecs, mops := (u.team j).mops, mctx := (u.team j).mctx }

/-- R218, R220, R221: an arrival is counted, completes the phase at COUNT, and records the phase for the context; 0x1C2 for a second
arrival in a phase. A wait passes once the phase differs from the recorded one; a context with no recorded phase records the phase
at its first wait, and waits. 0x1C8 for a barrier not initialised, 0x1C0 for one invalidated under a wait. An arrival in A waits for
the group's earlier accesses (18 R415), and reaches the barrier its owner has moved to (03 R82). -/
def Claims.BarrierWords : Prop :=
  ∀ (s : State) (n : BitVec 7), s.offers [.c, .a, .x] = true →
    let c := s.cur
    let core := (s.team c.team).core
    let home := s.postCore core n.toNat
    let rec_ := s.barRec c n.toNat
    let arrived (x : Barrier) : State :=
      (s.setBarRec { ctx := c, bar := n.toNat, phase := x.phase, arrived := true }).setBarrier home n.toNat
        (if x.arrived + 1 < x.count then { x with arrived := x.arrived + 1 } else { x with arrived := 0, phase := x.phase + 1 })
    (s.barrier core n.toNat ≠ none → home = core) ∧
    (s.openAccess c = true → Waits (.barArrive n) s s) ∧
    (s.openAccess c = false → s.barrier home n.toNat = none → Traps (.barArrive n) s 0x1C8) ∧
    (∀ x, s.openAccess c = false → s.barrier home n.toNat = some x →
      ((∃ q, rec_ = some q ∧ q.arrived = true ∧ q.phase = x.phase ∧ q.gone = false) → Traps (.barArrive n) s 0x1C2) ∧
      ((∀ q, rec_ = some q → q.arrived = false ∨ q.phase ≠ x.phase ∨ q.gone = true) → Completes (.barArrive n) s (arrived x))) ∧
    (rec_ = none → s.barrier core n.toNat = none → Traps (.barWait n) s 0x1C8) ∧
    (rec_ = none → ∀ x, s.barrier core n.toNat = some x →
      Waits (.barWait n) s (s.setBarRec { ctx := c, bar := n.toNat, phase := x.phase, arrived := false, waiting := true })) ∧
    (∀ q, rec_ = some q → q.gone = true →
      exec (.barWait n) s = .next (((s.clearBarRec c n.toNat).trapWith 0x1C0).commit c s.iw)) ∧
    (∀ q, rec_ = some q → q.gone = false →
      (s.barrier core n.toNat = none → Traps (.barWait n) s 0x1C8) ∧
      ∀ x, s.barrier core n.toNat = some x →
        (q.phase = x.phase → Waits (.barWait n) s (s.setBarRec { q with waiting := true })) ∧
        (q.phase ≠ x.phase → Completes (.barWait n) s (s.setBarRec { q with waiting := false })))

/-- R223, 02 R62: `post` appends an entry to the cluster's ready table and waits while it holds 128; `take` removes the matching
entry with the smallest value, or writes zero to both registers. -/
def Claims.ReadyTableWords : Prop :=
  ∀ (s : State) (k : Nat) (d f a b : BitVec 6), s.inC k →
    let tm := s.team k
    let cl := clusterOf tm.core
    let table := (s.cluster cl).ready
    let tag : W32 := (tm.cReg a).setWidth 32
    let mine (e : ReadyEntry) : Prop := e.inst = tm.inst ∧ e.copy = tm.copy ∧ e.tag = tag
    (128 ≤ table.length → Waits (.post a b) s s) ∧
    (table.length < 128 → Passes (.post a b) s k (s.modCluster cl fun x =>
      { x with ready := x.ready ++ [{ inst := tm.inst, copy := tm.copy, tag := tag, value := tm.cReg b }] })) ∧
    ((∀ e ∈ table, ¬mine e) → ∃ t, exec (.take d f a) s = .next t ∧ TeamDone s t k ((tm.setC d 0).setC f 0)) ∧
    ((∃ e ∈ table, mine e) → ∃ e ∈ table, mine e ∧ (∀ x ∈ table, mine x → e.value.toNat ≤ x.value.toNat) ∧
      Passes (.take d f a) s k ((s.modCluster cl fun x => { x with ready := x.ready.erase e }).modTeam k
        fun x => (x.setC d e.value).setC f 1))

/-- Barriers and the ready table: counts, phases, entries and their causes. -/
def Obligations.SynchronisationWords : Prop :=
  Claims.BarrierInitWord ∧ Claims.BarrierInvalWord ∧ Claims.BarrierWords ∧ Claims.ReadyTableWords

/-! ## System words -/

/-- R226: `trap n` takes the exception of cause 0x340 + n. Under HANDLER the C stream enters the handler's entry word, with its
next word saved and the trap frame holding the cause, the word's address and the time. -/
def Claims.TrapWord : Prop :=
  ∀ (s : State) (k : Nat) (n : BitVec 6), s.inC k →
    let tm := s.team k
    let x := s.inst tm.inst
    let c : Cause := 0x340 + n.setWidth 10
    Traps (.trap n) s c ∧
    (tm.handler = none → tm.fallback = false → x.card.nibble c = 1 →
      ∃ t, exec (.trap n) s = .next t ∧
        ((s.part x.card.pid).evtEnable = false → (∀ m, m ≠ k → t.team m = s.team m) ∧ t.mem = s.mem) ∧
        (t.team k).ctrl.pc = x.image.codeAddr 0 x.handlerRec.proOff 4 ∧
        (∃ h, (t.team k).handler = some h ∧ h.savedPc = tm.ctrl.pc ∧ h.trapped = some (.c k)) ∧
        (t.team k).frame.cause = c ∧ (t.team k).frame.pc = BitVec.ofNat 64 s.iw.pc ∧ (t.team k).frame.stream = 0 ∧
        (t.team k).frame.lanes = 0xFFFFFFFF#32 ∧ (t.team k).frame.group = 0xFF ∧ (t.team k).frame.vaddr = 0 ∧
        (t.team k).frame.time = BitVec.ofNat 64 s.now ∧ (t.team k).c = tm.c)

/-- R226, 20 R455: `eret` outside a handler raises 0x04B; in a handler with no cause held, the C stream goes on at the saved
address with its saved segment, region and bounds, and a trapping context of another stream continues at its trapping word. -/
def Claims.HandlerReturnWord : Prop :=
  ∀ (s : State) (k : Nat), s.inC k →
    let tm := s.team k
    (tm.handler = none → Traps .eret s 0x04B) ∧
    (∀ h, tm.handler = some h → h.boundary = false → tm.ctrl.seg = none → tm.held = [] → tm.instHeld = [] →
      (∀ c, h.trapped = some c → c.team = k) →
      ∃ t, exec .eret s = .next t ∧ (t.team k).handler = none ∧ (t.team k).ctrl.pc = h.savedPc ∧ (t.team k).ctrl.seg = h.savedSeg ∧
        (t.team k).ctrl.region = h.savedRegion ∧ (t.team k).ctrl.recIdx = h.savedRec ∧ (t.team k).ctrl.bound = h.savedBound ∧
        (t.team k).ctrl.spanStart = h.savedSpan ∧ (t.team k).ctrl.stack = tm.ctrl.stack ∧ (t.team k).c = tm.c ∧
        (∀ n, n ≠ k → t.team n = s.team n) ∧ t.mem = s.mem ∧
        (∀ c, h.trapped = some c → c.stream ≠ .c → t.ctxState c = { s.ctxState c with stopped := false }))

/-- trap enters the handler with the trap frame of its cause; eret resumes the saved stream. -/
def Obligations.TrapAndReturnWords : Prop :=
  Claims.TrapWord ∧ Claims.HandlerReturnWord

/-- R227, 08 R180: `sysr` reads the special values, FPCTL, the call depth and the trap frame, which reads zero outside a handler;
another selector raises 0x041. `sysw` writes FPCTL, keeps MODE for the codes 6 and 7, and seeds every generator. -/
def Obligations.SystemRegisterWords : Prop :=
  ∀ (s : State) (k : Nat) (d a : BitVec 6) (sel : BitVec 12), s.inC k →
    let tm := s.team k
    let reads (n : BitVec 12) (v : W64) : Prop := ∃ t, exec (.sysr d n) s = .next t ∧ TeamDone s t k (tm.setC d v)
    let f := tm.frame
    let frame := [(0x020, f.cause.setWidth 64), (0x021, f.stream.setWidth 64), (0x022, f.pc), (0x023, f.lanes.setWidth 64),
      (0x024, f.sector.setWidth 64), (0x025, f.vaddr), (0x026, f.regionPc), (0x027, f.group.setWidth 64),
      (0x028, f.team.setWidth 64), (0x029, BitVec.ofNat 64 (f.jobInst.toNat * 2 ^ 32 + f.jobIndex.toNat)), (0x02A, f.time)]
    (∀ j : Nat, j ≤ 11 → reads (BitVec.ofNat 12 j) (s.special k none (40 + j))) ∧
    reads 0x010 (BitVec.ofNat 64 (tm.fpSeed.toNat * 2 ^ 32 + (if tm.fpFlush then 8 else 0) + tm.fpMode.toNat)) ∧
    reads 0x011 (BitVec.ofNat 64 tm.ctrl.stack.length) ∧
    (∀ w ∈ frame, reads w.1 (if tm.handler.isSome then w.2 else 0)) ∧
    (¬(sel.toNat ≤ 0x00B ∨ sel = 0x010 ∨ sel = 0x011 ∨ (0x020 ≤ sel.toNat ∧ sel.toNat ≤ 0x02A)) → Traps (.sysr d sel) s 0x041) ∧
    (sel ≠ 0x010 → Traps (.sysw a sel) s 0x041) ∧
    (∃ t, exec (.sysw a 0x010) s = .next t ∧ onlyTeam s t k ∧
      (t.team k).fpSeed = ((tm.cReg a) >>> 32).setWidth 32 ∧ (t.team k).fpFlush = (tm.cReg a).getLsbD 3 ∧
      (t.team k).fpMode = (if (tm.cReg a).toNat % 8 ≤ 5 then (tm.cReg a).setWidth 3 else tm.fpMode) ∧
      (t.team k).genC = genSeed (((tm.cReg a) >>> 32).setWidth 32) 16 ∧
      (∀ g < tm.groups.length, t.group k g = { s.group k g with gen := genSeed (((tm.cReg a) >>> 32).setWidth 32) g }) ∧
      (t.team k).c = tm.c ∧ (t.team k).ctrl = tm.ctrl.passed s.iw.words s.iw.next) ∧
    (∃ t, exec (.time d) s = .next t ∧ TeamDone s t k (tm.setC d (BitVec.ofNat 64 s.now)))

/-- R228, 02 R502, 21 R468: with no segment open and no cause pending, `ckpt` and `yield` go on with the next word and start the
cycle count of the control record again; with a stop signal the C stream stops after the word, and the team parks once every other
context has stopped. A span of cycles past the bound of the control record raises 0x203 at the word (01 R39). -/
def Claims.CheckpointStopWords : Prop :=
  ∀ (s : State) (k : Nat), s.inC k →
    let tm := s.team k
    let next : CtrlState := { tm.ctrl.passed s.iw.words s.iw.next with spanStart := s.cycle, late := false, due := false }
    let passed (i : Instr) (x : Team) : Prop := ∃ t, exec i s = .next t ∧
      t = { s with teams := t.teams, badStore := t.badStore, iw := t.iw } ∧ (∀ n, n ≠ k → t.team n = s.team n) ∧ t.team k = x
    let stops (i : Instr) (x : Team) : Prop :=
      let u := { s.modTeam k fun _ => { x with ctrl := { tm.ctrl with
        pc := s.iw.next, waiting := false, spanStart := s.cycle, late := false, due := false, atCheckpoint := true } } with iw.words := [] }
      exec i s = .next ((Eff.goto (u.checkPark k) ((u.checkPark k).team k).ctrl.pc).commit s.cur s.iw) ∧
      ((u.team k).atPark = false → passed i { x with ctrl := { next with atCheckpoint := true } })
    tm.ctrl.seg = none → (s.inst tm.inst).pendingCause = none → tm.instHeld = [] →
    (s.overC k = true → ∀ i ∈ [Instr.ckpt, .yield], exec i s =
      .next ((s.modCtrl k fun c => { c with late := true }).raise k (s.raiseAt 0x203) s.iw.words.length s.iw.next)) ∧
    (s.overC k = false → tm.signal = .none → passed .ckpt { tm with ctrl := next }) ∧
    (s.overC k = false → tm.signal = .none → s.yieldTaker k = false → passed .yield { tm with ctrl := next }) ∧
    (s.overC k = false → tm.signal ≠ .none → ∀ i ∈ [Instr.ckpt, .yield], stops i tm) ∧
    (s.overC k = false → tm.signal = .none → s.yieldTaker k = true → stops .yield { tm with sent := .yield, signal := .yield })

/-- R231, 22 R484: `kexit` waits until every record of the team is done, every M operation has retired, every child has merged
and every channel is done; then the team retires. -/
def Claims.TeamExitWord : Prop :=
  ∀ (s : State) (k : Nat), s.inC k →
    let tm := s.team k
    tm.ctrl.seg = none → tm.handler = none →
    ((tm.axDone = false ∨ s.mDone k = false) → Waits .kexit s s) ∧
    (tm.axDone = true → s.mDone k = true → (∃ c ∈ tm.children, c.merged = false) →
      Waits .kexit s ((s.giveSlot k).modCtrl k fun c => { c with joining := some 65536 })) ∧
    (tm.axDone = true → s.mDone k = true → (∀ c ∈ tm.children, c.merged = true) → s.chansDone k = false → Waits .kexit s s) ∧
    (tm.axDone = true → s.mDone k = true → (∀ c ∈ tm.children, c.merged = true) → s.chansDone k = true →
      exec .kexit s = .next ((Eff.goto (s.retireTeam k) tm.ctrl.pc).commit s.cur s.iw))

/-- ckpt, yield and kexit: when the C stream stops, waits, or retires its team. -/
def Obligations.CheckpointWords : Prop :=
  Claims.CheckpointStopWords ∧ Claims.TeamExitWord

/-- R229: `region` is opcode 0x66 with imm12 1 to open and 0 to close, and any other field value is 0x041. Opening keeps a snapshot for
replay, closing ends the region; an open region twice, or a close without one, raises 0x041. -/
def Claims.RegionWords : Prop :=
  encodeDirect (.region true) = some (mkDI 0x66 0 0 1) ∧ encodeDirect (.region false) = some (mkDI 0x66 0 0 0) ∧
  (∀ (st : Stream) (w : Nat), w / 2 ^ 24 = 0x66 → 2 ≤ w % 2 ^ 24 → decodeDirect st w = .reservedEncoding 0x041 0) ∧
  ∀ (s : State) (k : Nat), s.inC k →
    let tm := s.team k
    (tm.ctrl.region.isSome = true → Traps (.region true) s 0x041) ∧
    (tm.ctrl.region = none → Traps (.region false) s 0x041) ∧
    (tm.ctrl.region = none → ∃ t, exec (.region true) s = .next t ∧ TeamDone s t k { tm with
      ctrl := { tm.ctrl with region := some { pc := s.iw.next, c := tm.c, lc := tm.lc, stack := tm.ctrl.stack, gen := tm.genC } } }) ∧
    (tm.ctrl.region.isSome = true → ∃ t, exec (.region false) s = .next t ∧
      TeamDone s t k { tm with ctrl := { tm.ctrl with region := none } })

/-- R230, 07 R164, 05 R115: `seg` opens a checked segment with the literal that follows it, which is fetched and not issued. An open
segment ends first: a count that differs raises 0x180, then a folded signature that differs 0x181, with the segment closed, the
mismatch reported to Belvedere (20 R463), and nothing else of the word's effect. -/
def Claims.SegmentWord : Prop :=
  ∀ (s : State) (k : Nat), s.inC k →
    let tm := s.team k
    let shut := s.modCtrl k fun c => { c with seg := none }
    let counts (g : Segment) : Prop := g.count % 2 ^ 16 = g.expect.toNat / 2 ^ 16
    let fold (g : Segment) : Nat := (g.sig.toNat ^^^ (g.sig.toNat / 2 ^ 16)) % 2 ^ 16
    let signs (g : Segment) : Prop := fold g = g.expect.toNat % 2 ^ 16
    let mismatch (c : Cause) (expected computed : Nat) : Prop :=
      let v := shut.reportMismatch tm.core tm.ctrl.recIdx expected computed
      exec .seg s = .next (v.raise k (v.raiseAt c) s.iw.words.length s.iw.next)
    (∀ g, tm.ctrl.seg = some g → ¬counts g → mismatch 0x180 (g.expect.toNat / 2 ^ 16) (g.count % 2 ^ 16)) ∧
    (∀ g, tm.ctrl.seg = some g → counts g → ¬signs g → mismatch 0x181 (g.expect.toNat % 2 ^ 16) (fold g)) ∧
    ((∀ g, tm.ctrl.seg = some g → counts g ∧ signs g) →
      (∀ e, shut.fetchWord k (s.iw.pc + 4) = .inl e →
        exec .seg s = .next (shut.raise k { shut.raiseErr e with pc := s.iw.pc + 4 } s.iw.words.length s.iw.next)) ∧
      ∀ w u, shut.fetchWord k (s.iw.pc + 4) = .inr (w, u) → ∃ t, exec .seg s = .next t ∧
        t.team k = { tm with ctrl := { tm.ctrl with
          seg := some { expect := w }, pc := s.iw.pc + 8, waiting := false, ticket := none, joining := none } } ∧
        (∀ n, n ≠ k → t.team n = s.team n) ∧ t.mem = s.mem ∧ t.hostMem = s.hostMem)

/-- region and seg: the snapshot for a replay, the checked segment and its mismatches. -/
def Obligations.RegionAndSegmentWords : Prop :=
  Claims.RegionWords ∧ Claims.SegmentWord

/-! ## Child tasks -/

/-- R224, 19 R438: `fork` with a well-formed region list and lines to reserve creates a child and writes its handle, the number of
the fork; without the lines it writes 0 and counts the failure; either way it is a checkpoint. -/
def Claims.ForkWord : Prop :=
  ∀ (s u : State) (k : Nat) (d a b : BitVec 6) (rec : LoopRec) (bs : List Byte) (l : RegionList), s.inC k →
    let tm := s.team k
    let x := s.inst tm.inst
    let idx := (tm.cReg b).toNat % 2 ^ 16
    let va := (tm.cReg a).toNat
    s.overC k = false → tm.ctrl.withdrawn = false → idx < x.image.recordCount → s.readRecord k idx = .inr rec → recordValid x.image 3 rec = true →
    va % 16 = 0 → s.readList k va = .ok bs u →
    let v := u.modCtrl k fun c => { c with heldOn := none }
    let p := v.part x.card.pid
    (parseRegions bs = none → exec (.fork d a b) s = .next ((v.trapWith 0x2C8).commit s.cur s.iw)) ∧
    (parseRegions bs = some l → (4 ≤ tm.depth ∨ 16 ≤ tm.unjoined ∨ 65535 ≤ tm.forkCount) →
      exec (.fork d a b) s = .next ((v.trapWith 0x2C9).commit s.cur s.iw)) ∧
    (parseRegions bs = some l → tm.depth < 4 → tm.unjoined < 16 → tm.forkCount < 65535 →
      (p.revCfg.getLsbD 0 = false ∨ p.revFree < l.lines) →
      exec (.fork d a b) s = .next ((((v.modPart x.card.pid fun p => { p with revFailed := satInc16 p.revFailed }).modTeam k
        (·.setC d 0)).passCheckpoint k).commit s.cur s.iw)) ∧
    (parseRegions bs = some l → tm.depth < 4 → tm.unjoined < 16 → tm.forkCount < 65535 → p.revCfg.getLsbD 0 = true →
      l.lines ≤ p.revFree →
      exec (.fork d a b) s = .next ((((v.createChild k idx va rec l).modTeam k
        (·.setC d (BitVec.ofNat 64 (tm.forkCount + 1)))).passCheckpoint k).commit s.cur s.iw))

/-- R225: `join` of a handle that no unjoined child has raises 0x2C1; of a merged child it is an acquire, marks the child joined
and writes its conflicts; otherwise it waits for merges up to the handle. `revst` reads a child's state, the free bytes of the
store and the last join's conflicts. -/
def Claims.JoinWords : Prop :=
  ∀ (s : State) (k : Nat) (d a : BitVec 6), s.inC k →
    let tm := s.team k
    ((∀ c ∈ tm.children, c.handle = tm.cReg a → c.joined = true) → Traps (.join d a) s 0x2C1) ∧
    (∀ c, tm.children.find? (fun c => c.handle == tm.cReg a && !c.joined) = some c →
      (c.merged = true → Passes (.join d a) s k (((s.modTeam k fun x => { x with
          lastConflicts := c.conflicts
          children := x.children.map fun y => if y.handle = c.handle then { y with joined := true } else y }).acquireCore tm.core).modTeam k
            (·.setC d (BitVec.ofNat 64 c.conflicts)))) ∧
      (c.merged = false → Waits (.join d a) s ((s.giveSlot k).modCtrl k fun x => { x with joining := some c.handle.toNat }))) ∧
    ((∀ c ∈ tm.children, c.handle ≠ tm.cReg a) → Traps (.revst d a 0) s 0x2C1) ∧
    (∀ c, tm.children.find? (fun c => c.handle == tm.cReg a) = some c → ∃ t, exec (.revst d a 0) s = .next t ∧
      TeamDone s t k (tm.setC d (if c.joined then 2 else if c.retired then 1 else 0))) ∧
    (∃ t, exec (.revst d a 1) s = .next t ∧
      TeamDone s t k (tm.setC d (BitVec.ofNat 64 ((s.part (s.pidOf k)).revFree * 128)))) ∧
    (∃ t, exec (.revst d a 2) s = .next t ∧ TeamDone s t k (tm.setC d (BitVec.ofNat 64 tm.lastConflicts))) ∧
    (∀ sel : BitVec 6, 3 ≤ sel.toNat → Traps (.revst d a sel) s 0x041)

/-- fork, join and revst: children, their handles, merges and conflicts. -/
def Obligations.TaskWords : Prop :=
  Claims.ForkWord ∧ Claims.JoinWords

/-! ## Words that hand work to units -/

/-- R209, 14 R340: `cpy` links a free channel or leaves a following command at a busy one, `chkick` starts a linked channel after
a release; a misaligned address raises 0x0C1, a bad or foreign channel 0x041, a channel in ERROR or with a command waiting
0x04D. -/
def Obligations.CopyChannelWords : Prop :=
  ∀ (s : State) (k : Nat) (a b : BitVec 6), s.inC k →
    let tm := s.team k
    let addr := (tm.cReg a).toNat
    let ch := (tm.cReg b).toNat
    let h := (s.core tm.core).chan ch
    let h₁ := (s.core tm.core).chan addr
    let mine (h : Chan) : Prop := h.owner = none ∨ h.owner = some k
    (addr % 32 ≠ 0 → exec (.cpy a b) s =
      .next (s.raise k (s.raiseErr { cause := 0x0C1, vaddr := addr }) s.iw.words.length s.iw.next)) ∧
    (addr % 32 = 0 → (8 ≤ ch ∨ ¬mine h) → Traps (.cpy a b) s 0x041) ∧
    (addr % 32 = 0 → ch < 8 → mine h → (h.st = .error ∨ (h.st ≠ .idle ∧ h.next ≠ none)) → Traps (.cpy a b) s 0x04D) ∧
    (addr % 32 = 0 → ch < 8 → mine h → h.st = .idle →
      Passes (.cpy a b) s k (s.modChan tm.core ch fun h => { h with st := .linked, fetch := addr, owner := some k })) ∧
    (addr % 32 = 0 → ch < 8 → mine h → h.st ≠ .idle → h.st ≠ .error → h.next = none →
      Passes (.cpy a b) s k (s.modChan tm.core ch fun h => { h with next := some addr })) ∧
    ((8 ≤ addr ∨ ¬mine h₁) → Traps (.chkick a) s 0x041) ∧
    (addr < 8 → mine h₁ → h₁.st = .linked →
      Passes (.chkick a) s k ((s.releaseCore tm.core).modChan tm.core addr fun h => { h with st := .running })) ∧
    (addr < 8 → mine h₁ → h₁.st ≠ .linked → Passes (.chkick a) s k s)

/-- R210, R211, 17 R396: `rast` appends its command to the cluster's raster queue, waiting while that is full, and is 0x04A on an
M-cluster; the `bvh` words submit a command after the write-back of the core, waiting while the builders' queue is full, and those that
return a value wait for their own command, whose cause they raise when it fails. A misaligned address is 0x0C1. How many commands
either queue holds is free (log 73). -/
def Claims.UnitCommandWords : Prop :=
  ∀ (s : State) (k : Nat) (d a : BitVec 6), s.inC k →
    let tm := s.team k
    let addr := (tm.cReg a).toNat
    let cl := clusterOf tm.core
    let rs := (s.cluster cl).rasters
    let full := rs ≠ [] ∧ Config.rasterQueue < rs.length
    let queued (fn : Nat) : State :=
      let r := (s.releaseCore tm.core).modTeam k fun x => { x with buildCount := x.buildCount + 1 }
      { r with
        lodge.builds := r.lodge.builds ++
          [{ id := s.nextId, fn := fn, team := k, pid := s.pidOf k, core := tm.core, addr := addr, key := s.buildKey k }]
        nextId := r.nextId + 1 }
    let misaligned (i : Instr) : Prop :=
      exec i s = .next (s.raise k (s.raiseErr { cause := 0x0C1, vaddr := addr }) s.iw.words.length s.iw.next)
    (isMCluster cl = true → Traps (.rast a) s 0x04A) ∧
    (isMCluster cl = false → addr % 64 ≠ 0 → misaligned (.rast a)) ∧
    (isMCluster cl = false → addr % 64 = 0 → full → Waits (.rast a) s s) ∧
    (isMCluster cl = false → addr % 64 = 0 → ¬full →
      Passes (.rast a) s k (s.modCluster cl fun c => { c with rasters := c.rasters ++ [{ team := k, addr := addr }] })) ∧
    (addr % 64 ≠ 0 → ∀ i ∈ [Instr.bvhBuild a, .bvhRefit a, .bvhRebalance a, .bvhPublish d a, .bvhQuality d a], misaligned i) ∧
    (addr % 64 = 0 → ∀ w ∈ [(Instr.bvhBuild a, 0), (.bvhRefit a, 1), (.bvhRebalance a, 2)],
      (s.buildRoom k = false → Waits w.1 s s) ∧ (s.buildRoom k = true → Passes w.1 s k (queued w.2))) ∧
    (addr % 64 = 0 → ∀ w ∈ [(Instr.bvhPublish d a, 3), (.bvhQuality d a, 4)],
      (tm.ctrl.ticket = none → s.buildRoom k = false → Waits w.1 s s) ∧
      (tm.ctrl.ticket = none → s.buildRoom k = true →
        Waits w.1 s ((queued w.2).modCtrl k fun c => { c with ticket := some s.nextId })) ∧
      (∀ id c, tm.ctrl.ticket = some id → s.lodge.builds.find? (fun c => c.id == id) = some c →
        let taken : State := { s with lodge.builds := s.lodge.builds.filter (fun c => c.id != id) }
        (c.finished = false → Waits w.1 s s) ∧
        (c.finished = true → c.fail = none → Passes w.1 s k (taken.modTeam k (·.setC d c.value))) ∧
        (∀ x, c.finished = true → c.fail = some x →
          let v := taken.modCtrl k fun c => { c with ticket := none }
          exec w.1 s = .next (v.raise k { v.raiseAt x with vaddr := c.addr, shown := true, sector := c.sector, reported := true }
            s.iw.words.length s.iw.next))))

/-- R212, 17 R405, R406: `gpin` pins the resident generation its handle names and writes the actual handle; no resident
generation is 0x283 and a fifth pin 0x282. `gunpin` drops the latest pin with the handle; without one it is 0x283. -/
def Claims.PinWords : Prop :=
  ∀ (s u : State) (k : Nat) (d a : BitVec 6) (h : W64), s.inC k →
    let tm := s.team k
    (s.pinFor (s.pidOf k) k (tm.cReg a) = none → Traps (.gpin d a) s 0x283) ∧
    (s.pinFor (s.pidOf k) k (tm.cReg a) = some (h, u) → 4 ≤ tm.pins.length → Traps (.gpin d a) s 0x282) ∧
    (s.pinFor (s.pidOf k) k (tm.cReg a) = some (h, u) → tm.pins.length < 4 →
      Passes (.gpin d a) s k ((u.acquireCore tm.core).modTeam k fun x => ({ x with pins := x.pins ++ [h] } : Team).setC d h) ∧
      ∃ n e g, s.gen n = some e ∧ e.pid = s.pidOf k ∧ e.desc = handleDesc (tm.cReg a) ∧ h = mkHandle e.desc g ∧
        (g = handleGen (tm.cReg a) ∨ (handleGen (tm.cReg a) = 0 ∧ g = e.cur)) ∧ (∃ x ∈ e.gens, x.num = g)) ∧
    (tm.cReg a ∉ tm.pins → Traps (.gunpin a) s 0x283) ∧
    (tm.cReg a ∈ tm.pins → Passes (.gunpin a) s k ((s.dropPin (s.pidOf k) k (tm.cReg a)).modTeam k
      fun x => { x with pins := (x.pins.reverse.erase (tm.cReg a)).reverse }))

/-- rast, the bvh words, gpin and gunpin: commands queued, values returned, pins. -/
def Obligations.VisionCommandWords : Prop :=
  Claims.UnitCommandWords ∧ Claims.PinWords

/-- R213, 04 R90 to R95: `itemq` declares a tile once, 0x041 for a size of 0 or above 65,535 or a second declaration, 0x308 for a
tile that differs from the launch's or a surface beyond its limits; `covrd` reads the rung, the probe state and the surface. -/
def Claims.ItemWords : Prop :=
  ∀ (s : State) (k : Nat) (d a b : BitVec 6), s.inC k →
    let tm := s.team k
    let x := s.inst tm.inst
    let w := (tm.cReg a).toNat
    let h := (tm.cReg b).toNat
    let ok := 1 ≤ w ∧ w ≤ 65535 ∧ 1 ≤ h ∧ h ≤ 65535 ∧ tm.tile = none
    let fits := x.card.gridX * w * (x.card.gridY * h) ≤ 2 ^ 32 ∧ x.card.gridX * w * surfaceBytes x.card.elemFmt ≤ x.card.pitch
    let sampled := s.covers k = true ∧ x.sampled ≠ none
    let reads (sel : BitVec 6) (v : Nat) : Prop := ∃ t, exec (.covrd d sel) s = .next t ∧ TeamDone s t k (tm.setC d (BitVec.ofNat 64 v))
    (¬ok → Traps (.itemq a b) s 0x041) ∧
    (ok → s.covers k = false → ∃ t, exec (.itemq a b) s = .next t ∧ TeamDone s t k { tm with tile := some (w, h) }) ∧
    (ok → s.covers k = true → x.decl = some (w, h) → ∃ t, exec (.itemq a b) s = .next t ∧ (t.team k).tile = some (w, h)) ∧
    (ok → s.covers k = true → (∃ e, x.decl = some e ∧ e ≠ (w, h)) → Traps (.itemq a b) s 0x308) ∧
    (ok → s.covers k = true → x.decl = none → tm.linear ≠ 0 → Waits (.itemq a b) s s) ∧
    (ok → s.covers k = true → x.decl = none → tm.linear = 0 → ¬fits → Traps (.itemq a b) s 0x308) ∧
    (ok → s.covers k = true → x.decl = none → tm.linear = 0 → fits → ∃ t, exec (.itemq a b) s = .next t ∧
      (t.team k).tile = some (w, h) ∧ (t.inst tm.inst).decl = some (w, h)) ∧
    reads 0 (s.rungOf k) ∧ (sampled → reads 1 1 ∧ reads 2 (if x.rung = 0 then 1 else x.rung)) ∧ (¬sampled → reads 1 0 ∧ reads 2 0) ∧
    reads 3 (s.surface k).1 ∧ reads 4 (s.surface k).2 ∧
    (∀ sel : BitVec 6, 5 ≤ sel.toNat → Traps (.covrd d sel) s 0x041)

/-- R214, 07 R168: `defdrain` waits while an X record runs; then it cuts its queue into batches, places them on free groups of
their role, waits while batches are left, and completes when none is. -/
def Claims.DeferralDrainWord : Prop :=
  ∀ (s : State) (k : Nat) (q a n : BitVec 6), s.inC k →
    let tm := s.team k
    let ok := q.toNat < 4 ∧ n.toNat < 32 ∧ (n = 0 ∨ a.toNat + n.toNat ≤ 64)
    let snap := (List.range n.toNat).map fun j => tm.cReg (BitVec.ofNat 6 (a.toNat + j))
    let u := (s.modTeam k fun x => { x with
      drain := batchesOf (x.dq.getD q.toNat []), dq := setAt [] x.dq q.toNat [],
      dqScalars := setAt [] x.dqScalars q.toNat snap }).modCtrl k fun c => { c with ticket := some 1 }
    let batches := batchesOf (tm.dq.getD q.toNat [])
    (¬ok → Traps (.defdrain q a n) s 0x041) ∧
    (ok → tm.ctrl.ticket = none → tm.xBusy = true → Waits (.defdrain q a n) s s) ∧
    (ok → tm.ctrl.ticket = none → tm.xBusy = false → ∀ v,
      u.placeBatches k snap batches = .inr ([], v) →
      Passes (.defdrain q a n) s k (v.modTeam k fun x => { x with drain := [] })) ∧
    (ok → tm.ctrl.ticket = none → tm.xBusy = false → ∀ b bs v,
      u.placeBatches k snap batches = .inr (b :: bs, v) →
      Waits (.defdrain q a n) s (v.modTeam k fun x => { x with drain := b :: bs }))

/-- itemq, covrd and defdrain: the tile, the surface, batches of deferred items. -/
def Obligations.ItemAndDrainWords : Prop :=
  Claims.ItemWords ∧ Claims.DeferralDrainWord

/-- R264, R265: `gxlat` translates its address, keeps the translation under its register and sets the register's frame and limit;
`glim` sets a limit; a register 0 or a limit above 2⁵¹ raises 0x041. -/
def Claims.TranslationRegisterWords : Prop :=
  ∀ (s u : State) (d a b : BitVec 6) (imm : BitVec 12) (pa : Nat), s.offers [.a] = true →
    let t := s.cur.team
    let va := (s.readReg a).toNat
    let len := (s.readReg b).toNat
    let lim : Int := (s.readReg a).toNat + imm.toInt
    ((d = 0 ∨ 2 ^ 51 < len) → Traps (.gxlat d a b) s 0x041) ∧
    (d ≠ 0 → len ≤ 2 ^ 51 → va < 2 ^ 51 → s.translate (s.team t).core none (s.pidOf t) va .read = .inr (pa, u) →
      ∃ es, es ≠ [] ∧ (∀ e ∈ es, e.owner = .reg t s.cur.group d.toNat ∧ e.covers (s.pidOf t) va = true) ∧
        Completes (.gxlat d a b) s (({ u with
            tlb := es ++ u.tlb.filter fun x => x.owner != .reg t s.cur.group d.toNat } : State).modGroup t s.cur.group
          fun g => { g with tr := setAt {} g.tr d.toNat { frame := BitVec.ofNat 51 va, limit := len } })) ∧
    ((d = 0 ∨ lim < 0 ∨ 2 ^ 51 < lim) → Traps (.glim d a imm) s 0x041) ∧
    (d ≠ 0 → 0 ≤ lim → lim ≤ 2 ^ 51 → Completes (.glim d a imm) s (s.modGroup t s.cur.group
      fun g => { g with tr := setAt {} g.tr d.toNat { frame := (g.tr.getD d.toNat {}).frame, limit := lim.toNat } }))

/-- R285, R286, 18 R429: `mbput` waits for a free ring slot and reads its lanes into the ring's tail slot; the index words compute
on 32-bit lanes, `imov` also into a predicate. -/
def Claims.RingAndIndexWords : Prop :=
  ∀ (s u : State) (t : Tpl) (p : BitVec 4) (c : Nat) (ls : List LaneAcc), s.offers [.a] = true → s.midBody = true →
    let k := s.cur.team
    let base := t.srcA.toNat % 64
    let act := s.active p
    let at_ := s.operandLanes t p
    let n := t.aux.toNat / 2 ^ 26 % 8
    let off := t.imm.toNat
    let moved (l : Nat) : W32 := s.srcA t l + (if t.aux.getLsbD 16 then BitVec.ofNat 32 l else 0)
    (∀ r, s.entryReady 0x63 { fmts := [8], aux := 0x1E03FFFF } t c → (s.team k).rings.getD n none = some r →
      (s.envOf 0x63 t p c).memOk = true → t.srcB.toNat / 64 ≠ 3 → off % 128 = 0 → off + 128 ≤ r.slotBytes →
      let full := r.count ≤ r.f + r.heldPop + r.resv + (s.team k).pubsOf n ∨ r.engine ≠ 0
      (full → Waits (.mbput t p) s s) ∧
      (¬full → s.lanesPass .global base 4 at_ →
        s.transLanes (s.team k).core (some (.reg k s.cur.group base)) (s.pidOf k) .read at_ = .inr (ls, u) →
        PassesOn (.mbput t p) s ((u.pushOutst { s.accRecord .ringPut (.mbput t p) t c ls with dst := some (n, r.tail) }).popSources
          0x63 t))) ∧
    (∀ w ∈ [(Instr.iadd t p, 0x67, fun (x y : W32) => x + y), (.ishl t p, 0x68, fun x y => x <<< (y.toNat % 32)),
            (.iand t p, 0x6A, fun x y => x &&& y)],
      s.entryReady w.2.1 { dsts := [0] } t c →
      ∃ v, exec w.1 s = .next v ∧ LanesDone s v w.2.1 t act s.curGroup.gen fun l => w.2.2 (s.srcA t l) (s.srcB t l)) ∧
    (s.entryReady 0x69 { dsts := [0, 3], aux := 0x10000 } t c →
      (t.dstKind = 0 → ∃ v, exec (.imov t p) s = .next v ∧ LanesDone s v 0x69 t act s.curGroup.gen moved) ∧
      (t.dstKind = 3 → ∃ v, exec (.imov t p) s = .next v ∧ PredDone s v 0x69 t act fun l => decide (moved l ≠ 0)))

/-- gxlat, glim, mbput and the index words of the A stream. -/
def Obligations.TranslationAndRingWords : Prop :=
  Claims.TranslationRegisterWords ∧ Claims.RingAndIndexWords

/-! ## Vector words -/

/-- R241, R242: the element-wise integer words compute on the low bits of each lane, wrap or clamp, and write the active lanes. -/
def Obligations.VectorIntegerWords : Prop :=
  ∀ (s : State) (t : Tpl) (p : BitVec 4) (c : Nat), s.offers [.x] = true → s.midBody = true →
    ∀ w ∈ vectorIntOps, s.entryReady w.2.1 { fmts := [8, 9, 10, 11, 26], dsts := [0, 1], sat := w.2.2.1, u := true } t c →
      let f := laneType c (t.aux.getLsbD 24)
      ∃ u, exec (w.1 t p) s = .next u ∧ LanesDone s u w.2.1 t (s.active p) s.curGroup.gen fun l =>
        intLane f t.sat (w.2.2.2 f (laneInt f (s.srcA t l)) (laneInt f (s.srcB t l)) (laneInt f (s.srcC t l)))

/-- R238, R239, R155, R156: an entry whose fields break the rules of its opcode raises 0x041 at its last word; a queue not configured
or not deep enough raises 0x080; the word waits for its queues; an advance of a full destination raises 0x081, and a word that would
write a full destination without an advance waits (the model's choice, log 87). -/
def Claims.TemplateWordChecks : Prop :=
  ∀ (s : State) (t : Tpl) (p : BitVec 4) (c : Nat), s.offers [.x] = true →
    let q (n : Nat) : Que := Team.queue s.curGroup n
    ∀ w ∈ vectorIntOps,
      let rule : TRule := { fmts := [8, 9, 10, 11, 26], dsts := [0, 1], sat := w.2.2.1, u := true }
      let fields := s.zeroFields rule t = true ∧ s.ruleCode w.2.1 rule t = some c
      let srcs := (srcQueues w.2.1 t).map (·.1)
      let all := srcs ++ (dstQueue w.2.1 t).toList
      let deep := (∀ n ∈ all, (q n).depth ≠ 0) ∧ (∀ n ∈ srcs, t.wait.toNat ≤ (q n).depth) ∧
        ∀ n, dstQueue w.2.1 t = some n → t.free.toNat ≤ (q n).depth
      let ready := (∀ n ∈ srcs, t.wait.toNat ≤ (q n).visible) ∧ ∀ n, dstQueue w.2.1 t = some n → t.free.toNat ≤ (q n).room
      let full (adv : Bool) := ∃ n, dstQueue w.2.1 t = some n ∧ t.adv.getLsbD 3 = adv ∧ (q n).room = 0
      ((s.zeroFields rule t = false ∨ s.ruleCode w.2.1 rule t = none) →
        exec (w.1 t p) s = .next ((s.trapLast 0x041).commit s.cur s.iw)) ∧
      (fields → ¬deep → Traps (w.1 t p) s 0x080) ∧
      (fields → deep → ¬ready → Waits (w.1 t p) s s) ∧
      (fields → deep → ready → full true → Traps (w.1 t p) s 0x081) ∧
      (fields → deep → ready → full false → Waits (w.1 t p) s s)

/-- R123, R124, R238: what the field rules accept: no undefined aux bit, no rounding, saturate or destination kind the opcode does
not allow, a wait count with a queue source, and a format code of the opcode's list, read through ft when indirect. -/
def Claims.TemplateFieldRules : Prop :=
  ∀ (s : State) (op : Nat) (r : TRule) (t : Tpl), r.fmts ≠ [] → r.aux < 2 ^ 24 →
    let code := if t.ind then
        (let n := ((s.team s.cur.team).lcReg (t.aux.toNat / 2 ^ 29)).toNat
         if n ≤ 15 then ((s.team s.cur.team).ft.getD n none).map (fun c => c.toNat) else none)
      else some t.fmt.toNat
    let allowed (j : Nat) : Bool := r.aux.testBit j || (r.u && j == 24) || (t.ind && decide (29 ≤ j))
    (s.zeroFields r t = true ∧ ∃ c, s.ruleCode op r t = some c) ↔
      (∀ j < 32, t.aux.getLsbD j = true → allowed j = true) ∧ (r.rnd = false → t.rnd = 0) ∧ (r.sat = false → t.sat = false) ∧
      (r.dsts = [] ∨ t.dstKind.toNat ∈ r.dsts) ∧ (tSrcQueue op t = true → t.wait ≠ 0) ∧
      ∃ c, code = some c ∧ c ∈ r.fmts ∧ (r.u = true → t.aux.getLsbD 24 = true → c = 8)

/-- R235: what a source names: a vector (an index vector in A), the head slot of a queue, a scalar's low 32 bits in every lane, or
the entry's immediate in every lane. -/
def Claims.SourceOperands : Prop :=
  ∀ (s : State) (t : Tpl) (src : Byte), ∀ l < 32,
    let n := src.toNat % 64
    (src.toNat / 64 = 0 → lane (s.readSrc src t.imm).lanes l = s.vec n l) ∧
    (src.toNat / 64 = 1 → lane (s.readSrc src t.imm).lanes l = s.slotLane n (Team.queue s.curGroup n).head l) ∧
    (src.toNat / 64 = 2 → lane (s.readSrc src t.imm).lanes l = (match s.cur with
      | .x k g => (s.fieldX k g n).setWidth 32
      | .a k g => (s.fieldA k g n).setWidth 32
      | _ => 0)) ∧
    (src.toNat / 64 = 3 → lane (s.readSrc src t.imm).lanes l = t.imm)

/-- Template entries: field rules, queue conditions, and what each source kind names. -/
def Obligations.TemplateChecks : Prop :=
  Claims.TemplateWordChecks ∧ Claims.TemplateFieldRules ∧ Claims.SourceOperands

/-- R245 to R247: the element-wise floating words round the exact result of their operands once per lane in their mode, with one
draw of the group's generator for each active lane in SR. -/
def Claims.VectorRoundingWords : Prop :=
  ∀ (s : State) (t : Tpl) (p : BitVec 4) (c : Nat), s.offers [.x] = true → s.midBody = true →
    let m := s.tplMode t
    let fl := s.flushes
    let act := s.active p
    let draws := genDraws s.curGroup.gen act
    let f := floatType c
    let x (v : Nat → W32) (l : Nat) : Val := f.decode (if fl then f.flush ((v l).toNat % 2 ^ f.width) else (v l).toNat % 2 ^ f.width)
    let out (m : RMode) (sat : Bool) (d : W32) (r : Val) : W32 :=
      BitVec.ofNat 32 (if fl then f.flush (f.round m sat d.toNat r % 2 ^ f.width) else f.round m sat d.toNat r % 2 ^ f.width)
    (∀ w ∈ vectorFloatOps, s.entryReady w.2.1 { fmts := [0, 1, 2], dsts := [0, 1], rnd := true, sat := true } t c →
      ∃ u, exec (w.1 t p) s = .next u ∧ LanesDone s u w.2.1 t act (if m = .sr then draws.1 else s.curGroup.gen) fun l =>
        out m t.sat (if m = .sr then lane draws.2 l else 0) (w.2.2 m (x (s.srcA t) l) (x (s.srcB t) l) (x (s.srcC t) l))) ∧
    (s.entryReady 0x2F { fmts := [0, 1, 2], dsts := [0, 1], rnd := true } t c →
      ∃ u, exec (.vrnd t p) s = .next u ∧ LanesDone s u 0x2F t act (if m = .sr then draws.1 else s.curGroup.gen) fun l =>
        out .rne false 0 (match x (s.srcA t) l with
          | .fin n k e => .fin n (roundInt m (if m = .sr then lane draws.2 l else 0).toNat n k e).natAbs 0
          | v => v)) ∧
    (∀ w ∈ [(Instr.vfmin t p, 0x24, minVal), (.vfmax t p, 0x25, maxVal)],
      s.entryReady w.2.1 { fmts := [0, 1, 2], dsts := [0, 1] } t c →
      ∃ u, exec w.1 s = .next u ∧ LanesDone s u w.2.1 t act s.curGroup.gen fun l =>
        out .rne false 0 (w.2.2 (x (s.srcA t) l) (x (s.srcB t) l)))

/-- R243, R246: `vcmp` and `vfcmp` write a bit of a predicate, or all ones or zeros in a vector, for each active lane; `vsel`
chooses by a predicate. -/
def Claims.VectorCompareWords : Prop :=
  ∀ (s : State) (t : Tpl) (p : BitVec 4) (c : Nat), s.offers [.x] = true → s.midBody = true →
    let act := s.active p
    let rel := t.aux.toNat / 2 ^ 16 % 8
    let f := laneType c (t.aux.getLsbD 24)
    let a l := laneInt f (s.srcA t l)
    let b l := laneInt f (s.srcB t l)
    let int (l : Nat) : Bool := match rel with
      | 0 => a l == b l
      | 1 => a l != b l
      | 2 => decide (a l < b l)
      | 3 => decide (a l ≤ b l)
      | 4 => decide (b l < a l)
      | _ => decide (b l ≤ a l)
    let g := floatType c
    let x (v : Nat → W32) (l : Nat) : Val := g.decode (flushIn s.flushes g (v l).toNat)
    let float (l : Nat) : Bool := floatRel rel (x (s.srcA t) l) (x (s.srcB t) l)
    let puts (i : Instr) (op : Nat) (bit : Nat → Bool) : Prop :=
      (t.dstKind = 3 → ∃ u, exec i s = .next u ∧ PredDone s u op t act bit) ∧
      (t.dstKind = 0 → ∃ u, exec i s = .next u ∧ LanesDone s u op t act s.curGroup.gen fun l => if bit l then 0xFFFFFFFF#32 else 0)
    (rel ≤ 5 → s.entryReady 0x0F { fmts := [8, 9, 10, 11, 26], dsts := [0, 3], u := true, aux := 0x70000 } t c → puts (.vcmp t p) 0x0F int) ∧
    (rel ≤ 4 → s.entryReady 0x26 { fmts := [0, 1, 2], dsts := [0, 3], aux := 0x70000 } t c → puts (.vfcmp t p) 0x26 float) ∧
    (s.entryReady 0x10 { dsts := [0, 1], aux := 0xF0000 } t c →
      ∃ u, exec (.vsel t p) s = .next u ∧ LanesDone s u 0x10 t act s.curGroup.gen fun l =>
        if (s.curGroup.pReg (t.aux.toNat / 2 ^ 16 % 16)).getLsbD l then s.srcA t l else s.srcB t l)

/-- Vector floating arithmetic, rounding, comparison and selection, lane by lane. -/
def Obligations.VectorFloatWords : Prop :=
  Claims.VectorRoundingWords ∧ Claims.VectorCompareWords

/-- R242 to R244: packed dot products, averages, moves, lane numbers and bit fields. -/
def Claims.VectorPackedWords : Prop :=
  ∀ (s : State) (t : Tpl) (p : BitVec 4) (c : Nat), s.offers [.x] = true → s.midBody = true →
    let act := s.active p
    let aux := t.aux.toNat
    let pos := aux % 32
    let len := aux / 32 % 64
    let done (i : Instr) (op : Nat) (gen : W32) (v : Nat → W32) : Prop := ∃ u, exec i s = .next u ∧ LanesDone s u op t act gen v
    let part (w : Nat) (uns : Bool) (x : W32) (j : Nat) : Int := laneInt { width := w, signed := !uns } (x >>> (w * j))
    let dot (n w : Nat) (l : Nat) : W32 := intLane { width := 32, signed := true } t.sat ((s.srcC t l).toInt +
      ((List.range n).map fun j => part w (t.aux.getLsbD 16) (s.srcA t l) j * part w (t.aux.getLsbD 17) (s.srcB t l) j).sum)
    let draws := genDraws s.curGroup.gen act
    let m := s.tplMode t
    let f := laneType c (t.aux.getLsbD 24)
    let sum l := laneInt f (s.srcA t l) + laneInt f (s.srcB t l)
    (∀ w ∈ [(Instr.vdot4 t p, 0x13, 4, 8), (.vdot8 t p, 0x14, 8, 4)],
      s.entryReady w.2.1 { dsts := [0, 1], sat := true, aux := 0x30000 } t c →
      done w.1 w.2.1 s.curGroup.gen (dot w.2.2.1 w.2.2.2)) ∧
    (s.entryReady 0x15 { fmts := [8, 9, 10, 11, 26], dsts := [0, 1], rnd := true, u := true } t c →
      done (.vavg t p) 0x15 (if m = .sr then draws.1 else s.curGroup.gen) fun l =>
        intLane f false (roundInt m (if m = .sr then lane draws.2 l else 0).toNat (decide (sum l < 0)) (sum l).natAbs (-1))) ∧
    (s.entryReady 0x16 { dsts := [0, 1] } t c → done (.vmov t p) 0x16 s.curGroup.gen (s.srcA t)) ∧
    (s.entryReady 0x17 { dsts := [0, 1], aux := 0x10000 } t c →
      (t.aux.getLsbD 16 = true → done (.viota t p) 0x17 s.curGroup.gen fun l => (s.curGroup.items.getD l none).getD 0xFFFFFFFF#32) ∧
      (t.aux.getLsbD 16 = false → 2 ≤ t.srcA.toNat / 64 →
        done (.viota t p) 0x17 s.curGroup.gen fun l => BitVec.ofNat 32 l + s.srcA t l)) ∧
    (1 ≤ len → pos + len ≤ 32 → aux / 2 ^ 11 % 32 = 0 →
      (s.entryReady 0x18 { fmts := [8], dsts := [0, 1], u := true, aux := 0xFFFF } t c →
        done (.vbfx t p) 0x18 s.curGroup.gen fun l =>
          BitVec.ofInt 32 (laneInt { width := len, signed := !t.aux.getLsbD 24 } (s.srcA t l >>> pos))) ∧
      (s.entryReady 0x19 { dsts := [0, 1], aux := 0xFFFF } t c →
        ∃ v, done (.vbfi t p) 0x19 s.curGroup.gen v ∧ ∀ l < 32, ∀ j < 32, (v l).getLsbD j =
          if pos ≤ j ∧ j < pos + len then (s.srcB t l).getLsbD (j - pos) else (s.srcA t l).getLsbD j))

/-- R246, R248, R249: `vdot2`, the conversions and the class mask. -/
def Claims.VectorConvertWords : Prop :=
  ∀ (s : State) (t : Tpl) (p : BitVec 4) (c : Nat), s.offers [.x] = true → s.midBody = true →
    let act := s.active p
    let m := s.tplMode t
    let fl := s.flushes
    let dst := t.aux.toNat / 2 ^ 16 % 32
    let off := t.aux.toNat % 2 ^ 16
    let set : List Nat := [0, 1, 2, 3, 4, 5, 6, 7, 8, 9, 10, 11, 12, 13, 26, 27]
    let pairOk := dst ∈ set ∧ dst ≠ c ∧ ¬(isIntCode dst = true ∧ isIntCode c = true ∧ fl = true)
    let whole := p = 0 ∧ s.curGroup.live = 0xFFFFFFFF#32
    let gen (k : W32) : W32 := if m = .sr then (genDraws s.curGroup.gen k).1 else s.curGroup.gen
    let draw (k : W32) (l : Nat) : Nat := if m = .sr then (lane (genDraws s.curGroup.gen k).2 l).toNat else 0
    let conv (k : W32) (l x : Nat) : Nat := cvtDst fl (elemOf dst) m t.sat (draw k l) (cvtSrc fl m (elemOf c) (x % 2 ^ elemBits c))
    let rule (dsts : List Nat) (aux : Nat) : TRule := { fmts := set, dsts := dsts, rnd := true, sat := true, aux := aux }
    let bit (v : Nat → W32) (j : Nat) : Bool := (v (j / 32)).getLsbD (j % 32)
    let f := floatType c
    let el (v : Nat → W32) (l j : Nat) : Val := f.decode (flushIn fl f (((v l) >>> (16 * j)).toNat % 2 ^ 16))
    (s.entryReady 0x31 (rule [0, 1] 0x1F0000) t c → pairOk →
      ∃ u, exec (.vcvt t p) s = .next u ∧ LanesDone s u 0x31 t act (gen act) fun l =>
        elemLane dst (conv act l (s.srcA t l).toNat)) ∧
    (s.entryReady 0x32 (rule [0] 0x1FFFFF) t c → pairOk → whole → elemBits dst ≤ 16 → off % 32 = 0 →
      off + 32 ≤ 1024 / elemBits dst →
      ∃ u v, exec (.vpack t p) s = .next u ∧ LanesDone s u 0x32 t 0xFFFFFFFF#32 (gen 0xFFFFFFFF#32) v ∧
        ∀ j < 1024, bit v j = if off * elemBits dst ≤ j ∧ j < (off + 32) * elemBits dst
          then (conv 0xFFFFFFFF#32 (j / elemBits dst - off) (s.srcA t (j / elemBits dst - off)).toNat).testBit (j % elemBits dst)
          else bit (s.vec t.dstIdx.toNat) j) ∧
    (s.entryReady 0x33 (rule [0, 1] 0x1FFFFF) t c → pairOk → whole → t.srcA.toNat / 64 ≤ 1 → off % 32 = 0 →
      off + 32 ≤ 1024 / elemBits c →
      ∃ (u : State) (x : Nat → Nat), exec (.vunpack t p) s = .next u ∧
        LanesDone s u 0x33 t 0xFFFFFFFF#32 (gen 0xFFFFFFFF#32) (fun l => elemLane dst (conv 0xFFFFFFFF#32 l (x l))) ∧
        ∀ l < 32, ∀ j < elemBits c, (x l).testBit j = bit (s.srcA t) ((off + l) * elemBits c + j)) ∧
    (s.entryReady 0x34 { fmts := [0, 1, 2], dsts := [0, 1] } t c →
      ∃ (u : State) (k : Nat → Nat), exec (.vfclass t p) s = .next u ∧ LanesDone s u 0x34 t act s.curGroup.gen (fun l => 1#32 <<< k l) ∧ ∀ l < 32,
        match f.decode ((s.srcA t l).toNat % 2 ^ f.width) with
        | .nan => k l = 8
        | .inf n => k l = if n then 0 else 7
        | .fin n x _ => k l = if x = 0 then (if n then 3 else 4)
            else if x < 2 ^ f.fracBits then (if n then 2 else 5) else if n then 1 else 6) ∧
    (s.entryReady 0x30 { fmts := [1, 2], dsts := [0, 1], rnd := true, sat := true } t c →
      ∃ u, exec (.vdot2 t p) s = .next u ∧ LanesDone s u 0x30 t act (gen act) fun l =>
        BitVec.ofNat 32 (flushIn fl fp32 (fp32.round m t.sat (draw act l) (sumVals m
          [mulVal (el (s.srcA t) l 0) (el (s.srcB t) l 0), mulVal (el (s.srcA t) l 1) (el (s.srcB t) l 1),
           fp32.decode (flushIn fl fp32 (s.srcC t l).toNat)]))))

/-- Packed dot products, averages, moves, bit fields, conversions and class masks. -/
def Obligations.VectorBitWords : Prop :=
  Claims.VectorPackedWords ∧ Claims.VectorConvertWords

/-- R250 to R253, 08 R185: shuffles and broadcasts move lanes whether active or not; reductions and scans apply the pairwise tree
to the active lanes; ballots and `vtos` write a mask and a lane. -/
def Obligations.LaneWords : Prop :=
  ∀ (s : State) (t : Tpl) (p : BitVec 4) (c : Nat), s.offers [.x] = true → s.midBody = true →
    let act := s.active p
    let aux := t.aux.toNat
    let k := aux % 32
    let form := aux / 2 ^ 16 % 4
    let op := aux / 2 ^ 16 % 8
    let m := s.tplMode t
    let f := laneType c (t.aux.getLsbD 24)
    let int : Bool := isIntCode c
    let moved (l : Nat) : Nat := if form = 0 then (s.srcB t l).toNat % 32 else if form = 1 then (l + k) % 32 else l ^^^ k
    let done (i : Instr) (op : Nat) (v : Nat → W32) : Prop := ∃ u, exec i s = .next u ∧ LanesDone s u op t act s.curGroup.gen v
    let red (mask : W32) : W32 :=
      if int then intTree f op t.sat mask (s.srcA t) else floatTree (floatType c) s.flushes op m t.sat mask (s.srcA t)
    let redOk := op ≤ 5 ∧ (int = true ∨ op ≤ 2) ∧ m ≠ .sr
    let codes : List Nat := [0, 1, 2, 8, 9, 10, 11, 26]
    (s.entryReady 0x40 { dsts := [0, 1], aux := 0x3FFFF } t c →
      ((form = 0 ∧ aux % 2 ^ 16 = 0) ∨ ((form = 1 ∨ form = 2) ∧ aux / 32 % 2 ^ 11 = 0)) →
      done (.vshuf t p) 0x40 fun l => s.srcA t (moved l)) ∧
    (s.entryReady 0x41 { dsts := [0, 1], aux := 0x1F } t c →
      done (.vbcast t p) 0x41 fun _ => s.srcA t k) ∧
    (redOk → s.entryReady 0x42 { fmts := codes, dsts := [0, 2], rnd := true, sat := true, u := true, aux := 0x70000 } t c →
      (t.dstKind = 0 → done (.vred t p) 0x42 fun _ => red act) ∧
      (t.dstKind = 2 → ∃ u, exec (.vred t p) s = .next u ∧
        ScalarLaneDone s u 0x42 t (if int = true ∧ f.signed = true then (red act).signExtend 64 else (red act).setWidth 64))) ∧
    (redOk → s.entryReady 0x43 { fmts := codes, dsts := [0, 1], rnd := true, sat := true, u := true, aux := 0xF0000 } t c → ∃ mask : Nat → W32,
        (∀ l < 32, ∀ j < 32, (mask l).getLsbD j = (act.getLsbD j && decide (j < l ∨ (j = l ∧ t.aux.getLsbD 19 = false)))) ∧
        done (.vscan t p) 0x43 fun l => red (mask l)) ∧
    (s.entryReady 0x44 { dsts := [2, 3] } t c → ∃ b : W32,
      (∀ l < 32, b.getLsbD l = (act.getLsbD l && decide (s.srcA t l ≠ 0))) ∧
      (t.dstKind = 2 → ∃ u, exec (.vballot t p) s = .next u ∧ ScalarLaneDone s u 0x44 t (b.setWidth 64)) ∧
      (t.dstKind = 3 → ∃ u, exec (.vballot t p) s = .next u ∧ PredDone s u 0x44 t 0xFFFFFFFF#32 fun l => b.getLsbD l)) ∧
    (s.entryReady 0x4F { fmts := [0, 8], dsts := [2], aux := 0x1FFFF } t c →
      (if t.aux.getLsbD 16 then t.srcB.toNat / 64 = 2 ∧ aux % 2 ^ 16 = 0 else aux / 32 % 2 ^ 11 = 0) →
      let l := if t.aux.getLsbD 16 then (s.srcB t 0).toNat % 32 else k
      let v : W64 := if c = 8 then (s.srcA t l).signExtend 64 else (s.srcA t l).setWidth 64
      ∃ u, exec (.vtos t p) s = .next u ∧
        ScalarLaneDone s u 0x4F t (if act.getLsbD l then v else s.curGroup.sReg t.dstIdx.toNat))

/-- R234, R254, R255, 11 R267: `pop`, `qpush` and `qadv` move the slots of a queue, and raise 0x080 and 0x081 where they cannot. -/
def Claims.QueueMoveWords : Prop :=
  ∀ (s : State) (t : Tpl) (p : BitVec 4) (c : Nat) (n : BitVec 6) (k : BitVec 4),
    let held := s.idempotent s.cur
    let hp (q : Que) (j : Nat) : Nat := if held then q.heldPop + j else q.heldPop
    let hf (q : Que) (j : Nat) : Nat := if held then q.heldFill + j else q.heldFill
    let act := s.active p
    let src := t.srcA.toNat % 64
    let dst := t.dstIdx.toNat
    let q (n : Nat) : Que := Team.queue s.curGroup n
    let past (u : State) (g : Group) : Prop := onlyTeam s u s.cur.team ∧
      u.team s.cur.team = { s.team s.cur.team with groups := (u.team s.cur.team).groups } ∧
      (∀ h, h ≠ s.cur.group → u.group s.cur.team h = s.group s.cur.team h) ∧
      u.curGroup = { g with
        actx := if s.cur.stream = .a then s.curGroup.actx.passed false s.iw else s.curGroup.actx,
        xctx := if s.cur.stream = .x then s.curGroup.xctx.passed false s.iw else s.curGroup.xctx }
    let x := q n.toNat
    let legalTail := if s.cur.stream = .a then n.toNat < 8 else 8 ≤ n.toNat ∧ n.toNat < 12
    let legalHead := if s.cur.stream = .a then 8 ≤ n.toNat ∧ n.toNat < 12 else n.toNat < 8 ∨ (12 ≤ n.toNat ∧ n.toNat < 16)
    (s.offers [.x] = true → s.midBody = true → s.entryReady 0x45 { dsts := [0], aux := 0xF0000 } t c → t.srcA.toNat / 64 = 1 →
      t.adv.getLsbD 0 = false → t.wait ≠ 0 →
      ∃ u, exec (.pop t p) s = .next u ∧
        past u { s.curGroup with
          v := u.curGroup.v, vTaint := u.curGroup.vTaint, p := u.curGroup.p, pTaint := u.curGroup.pTaint, queues := u.curGroup.queues } ∧
        (∀ m, ∀ l < 32, lane (u.curGroup.vReg m) l = if m = dst ∧ act.getLsbD l = true then s.srcA t l else lane (s.curGroup.vReg m) l) ∧
        (∀ m, u.curGroup.pReg m = if m = t.aux.toNat / 2 ^ 16 % 16 ∧ m ≠ 0 then (q src).headSlot.valid else s.curGroup.pReg m) ∧
        ∀ m, Team.queue u.curGroup m = if m = src then { q src with
          head := ((q src).head + 1) % (q src).depth, f := (q src).f - 1, heldPop := hp (q src) 1 } else q m) ∧
    (s.offers [.x] = true → s.midBody = true → s.entryReady 0x46 { dsts := [1] } t c → t.free ≠ 0 → t.adv.getLsbD 3 = false →
      (t.srcA.toNat / 64 = 1 → src ≠ dst) →
      ∃ u, exec (.qpush t p) s = .next u ∧ past u { s.curGroup with queues := u.curGroup.queues } ∧
        (∀ m, m ≠ dst → Team.queue u.curGroup m = (q m).movedBy .x 0x46 t held m) ∧
        { Team.queue u.curGroup dst with slots := [] } = { q dst with
          slots := [], tail := ((q dst).tail + 1) % (q dst).depth, f := (q dst).f + 1, heldFill := hf (q dst) 1 } ∧
        ∀ j, ∀ l < 32, u.slotLane dst j l = if j = (q dst).tail ∧ act.getLsbD l = true then s.srcA t l else s.slotLane dst j l) ∧
    (s.offers [.a, .x] = true →
      ((k = 0 ∨ ¬legalTail) → Traps (.qadvTail n k) s 0x041) ∧ ((k = 0 ∨ ¬legalHead) → Traps (.qadv n k) s 0x041) ∧
      (k ≠ 0 → (x.depth = 0 ∨ x.depth < k.toNat) →
        (legalTail → Traps (.qadvTail n k) s 0x080) ∧ (legalHead → Traps (.qadv n k) s 0x080)) ∧
      (k ≠ 0 → x.depth ≠ 0 → k.toNat ≤ x.depth →
        (legalTail → x.room < k.toNat → Traps (.qadvTail n k) s 0x081) ∧
        (legalHead → x.visible < k.toNat → Traps (.qadv n k) s 0x081) ∧
        (legalHead → k.toNat ≤ x.visible → s.midBody = true → ∃ u, exec (.qadv n k) s = .next u ∧
          past u { s.curGroup with queues := u.curGroup.queues } ∧ (∀ m, m ≠ n.toNat → Team.queue u.curGroup m = q m) ∧
          (Team.queue u.curGroup n.toNat).f = x.f - k.toNat ∧
          (Team.queue u.curGroup n.toNat).head % x.depth = (x.head + k.toNat) % x.depth ∧
          (Team.queue u.curGroup n.toNat).tail = x.tail ∧ (Team.queue u.curGroup n.toNat).heldPop = hp x k.toNat) ∧
        (legalTail → k.toNat ≤ x.room → s.midBody = true → ∃ u, exec (.qadvTail n k) s = .next u ∧
          past u { s.curGroup with queues := u.curGroup.queues } ∧ (∀ m, m ≠ n.toNat → Team.queue u.curGroup m = q m) ∧
          (Team.queue u.curGroup n.toNat).tail % x.depth = (x.tail + k.toNat) % x.depth ∧
          (Team.queue u.curGroup n.toNat).head = x.head ∧
          (Team.queue u.curGroup n.toNat).f + (Team.queue u.curGroup n.toNat).resv = x.f + x.resv + k.toNat)))

/-- R256, R258, R259, 07 R167: `defer` appends one entry for each active lane to its deferral queue of 256 entries; `mread` and
`mwrite` move 32 words between a tile and the lanes, once no matrix operation that names the tile is outstanding. -/
def Claims.DeferAndTileWords : Prop :=
  ∀ (s : State) (t : Tpl) (p : BitVec 4) (c : Nat), s.offers [.x] = true → s.midBody = true →
    let k := s.cur.team
    let tm := s.team k
    let g := s.curGroup
    let act := s.active p
    let aux := t.aux.toNat
    let n := aux / 2 ^ 16 % 16
    let dq := aux / 2 ^ 20 % 4
    let base := t.srcA.toNat % 64
    let tile := aux / 2 ^ 16 % 8
    let off := aux % 2 ^ 16
    let old := tm.dq.getD dq []
    let entries := (maskLanes act).map fun l => ({
      record := t.imm.toNat, token := tm.ctrl.stack.length, item := g.itemOf l, role := g.role, base := base,
      live := (List.range n).map fun j => lane (g.vReg (base + j)) l } : DefEntry)
    let word (i j : Nat) : W32 := (tm.tiles.getD i []).getD j 0
    let named := tile < tm.tiles.length ∧ off % 32 = 0 ∧ off < 4096
    (∀ rec, s.entryReady 0x47 { aux := 0x3F0000 } t c → t.srcA.toNat / 64 = 0 → n ≤ 8 → (n = 0 ∨ base + n ≤ g.vregs) →
      t.imm.toNat < 2 ^ 16 → t.imm.toNat < (s.inst tm.inst).image.recordCount → s.readRecord k t.imm.toNat = .inr rec →
      bitsOf rec.flags 0 2 = 1 → bitsOf rec.flags 3 1 = 0 →
      (old.length + entries.length ≤ 256 → PassesOn (.defer t p) s (s.modTeam k fun x =>
        { x with dq := setAt [] x.dq dq (old ++ entries) })) ∧
      (256 < old.length + entries.length → Waits (.defer t p) s s)) ∧
    (s.entryReady 0x48 { dsts := [0, 1], aux := 0x7FFFF } t c → named →
      (s.tileBusy k tile = true → Waits (.mread t p) s s) ∧
      (s.tileBusy k tile = false → ∃ u, exec (.mread t p) s = .next u ∧
        LanesDone s u 0x48 t act g.gen fun l => word tile (off + l))) ∧
    (s.entryReady 0x49 { aux := 0x7FFFF } t c → named →
      (s.tileBusy k tile = true → Waits (.mwrite t p) s s) ∧
      (s.tileBusy k tile = false → ∃ tiles : List (List W32), tiles.length = tm.tiles.length ∧
        PassesOn (.mwrite t p) s ((s.modTeam k fun x => { x with tiles := tiles }).popSources 0x49 t) ∧
        ∀ i j, (tiles.getD i []).getD j 0 =
          if i = tile ∧ off ≤ j ∧ j < off + 32 ∧ act.getLsbD (j - off) = true then s.srcA t (j - off) else word i j))

/-- pop, qpush, qadv, defer, mread, mwrite and vtos: queues, deferral, tiles, scalars. -/
def Obligations.QueueAndDeferWords : Prop :=
  Claims.QueueMoveWords ∧ Claims.DeferAndTileWords

/-- R257, R260, R261, 16 R382, R390: `itemnext` gives its lanes their next items, the lowest lane first, and clears p1 to p15; it
waits before the tile is declared, and away from the first kernel word of a REFILL record it is 0x041 (07 R166). `vdisc`, `vzout`, `cacc` and
`crej` decide on the batch or round in the head slot of a delivery queue, 0x248 for a queue of another unit. -/
def Claims.DecisionWords : Prop :=
  ∀ (s : State) (t : Tpl) (p : BitVec 4) (c : Nat), s.offers [.x] = true → s.midBody = true →
    let k := s.cur.team
    let g := s.cur.group
    let act := s.active p
    let q := t.srcA.toNat % 64
    let x := (Team.queue s.curGroup q).headSlot
    let bind := (Team.queue s.curGroup q).bind
    let m := act &&& x.valid
    let cl := clusterOf (s.team k).core
    let d := t.dstIdx.toNat
    let z := act ||| (s.curGroup.live &&& mkMask fun l => (s.curGroup.items.getD l none).isNone)
    let ready (op : Nat) (r : TRule) : Prop := s.entryReady op r t c ∧ t.srcA.toNat / 64 = 1 ∧ 12 ≤ q
    let noDisc (i : Instr) : Prop := exec i s = .next ((Eff.trap (s.modCluster cl fun c =>
      { c with rasters := c.rasters.map fun r => if r.team = k ∧ r.delivered x.source = true then r.violate else r }) (s.raiseAt 0x241)).commit
        s.cur s.iw)
    (s.entryReady 0x4A { dsts := [0] } t c → atRefillHead (s.ctxState s.cur) = false →
      exec (.itemnext t p) s = .next ((s.trapLast 0x041).commit s.cur s.iw)) ∧
    (s.entryReady 0x4A { dsts := [0] } t c → atRefillHead (s.ctxState s.cur) = true → (s.team k).tile = none → z ≠ 0 →
      Waits (.itemnext t p) s s) ∧
    (s.entryReady 0x4A { dsts := [0] } t c → atRefillHead (s.ctxState s.cur) = true → ((s.team k).tile ≠ none ∨ z = 0) →
      let u := (s.refill k g d (maskLanes z)).modGroup k g (·.clearPreds)
      let y := u.group k g
      (y.live ≠ 0 → PassesOn (.itemnext t p) s u) ∧
      (y.live = 0 → PassesOn (.itemnext t p) s (u.modRun s.cur fun r => { r with refillStopped := true })) ∧
      (∀ n, y.pReg n = if n = 0 then 0xFFFFFFFF#32 else 0) ∧
      (∀ n, n ≠ d → y.vReg n = s.curGroup.vReg n) ∧
      (∀ l ls id w, maskLanes z = l :: ls → s.nextItem k g = some (id, w) → y.items.getD l none = some id) ∧
      ∀ l < 32, if z.getLsbD l then
          (∃ id, y.items.getD l none = some id ∧ lane (y.vReg d) l = id ∧ y.live.getLsbD l = s.curGroup.live.getLsbD l) ∨
          (y.items.getD l none = none ∧ lane (y.vReg d) l = lane (s.curGroup.vReg d) l ∧ y.live.getLsbD l = false)
        else y.items.getD l none = s.curGroup.items.getD l none ∧ lane (y.vReg d) l = lane (s.curGroup.vReg d) l ∧
          y.live.getLsbD l = s.curGroup.live.getLsbD l) ∧
    (ready 0x4B {} → (bind ≠ .raster → Traps (.vdisc t p) s 0x248) ∧
      (bind = .raster → x.noDisc = true → noDisc (.vdisc t p)) ∧
      (bind = .raster → x.noDisc = false → PassesOn (.vdisc t p) s ((s.modBatch cl k x.source fun b =>
        { b with disc := b.disc ||| m }).popSources 0x4B t))) ∧
    (ready 0x4C {} → (bind ≠ .raster → Traps (.vzout t p) s 0x248) ∧
      (bind = .raster → x.noDisc = true → noDisc (.vzout t p)) ∧
      (bind = .raster → x.noDisc = false → PassesOn (.vzout t p) s ((s.modBatch cl k x.source fun b =>
        { b with zset := b.zset ||| m, zout := mergeLanes m b.zout (mkLanes (s.srcB t)) }).popSources 0x4C t))) ∧
    (ready 0x4D { aux := 0x10000 } → (bind ≠ .traversal → Traps (.cacc t p) s 0x248) ∧
      (bind = .traversal → PassesOn (.cacc t p) s ((s.modCurGroup fun y => y.decideTrace x.source m fun l =>
        some (s.srcB t l, if t.aux.getLsbD 16 then some (s.srcC t l) else none)).popSources 0x4D t))) ∧
    (ready 0x4E {} → (bind ≠ .traversal → Traps (.crej t p) s 0x248) ∧
      (bind = .traversal → PassesOn (.crej t p) s
        ((s.modCurGroup fun y => y.decideTrace x.source m fun _ => none).popSources 0x4E t)))

/-- R390: the first decision on a candidate stands; an acceptance outside the limits is a rejection; another lowers TMAX to its
distance in a ray and becomes the winner when it comes before the winner so far. -/
def Claims.CandidateDecisions : Prop :=
  ∀ (x : TraceLane) (sweep : Bool) (c : Cand) (t : W32) (user : Option W32),
    let done : TraceLane := { x with decided := true }
    (∀ hit, x.cur = none ∨ x.decided = true → x.decide sweep hit = x) ∧
    (x.cur = some c → x.decided = false → x.decide sweep none = done) ∧
    (x.cur = some c → x.decided = false → x.accepts sweep c t = false → x.decide sweep (some (t, user)) = done) ∧
    (x.cur = some c → x.decided = false → x.accepts sweep c t = true → ∀ won, (won ↔ x.win = none ∨
        ∃ u q w, x.win = some (u, q, w) ∧ (fixW t < fixW u ∨ (fixW t = fixW u ∧ c.prim < q))) →
      (won → x.decide sweep (some (t, user)) = { done with
        tmax := if sweep then x.tmax else t, win := some (t, c.prim, user.getD (BitVec.ofNat 32 c.prim)) }) ∧
      (¬won → x.decide sweep (some (t, user)) = { done with tmax := if sweep then x.tmax else t }))

/-- itemnext, vdisc, vzout, cacc and crej: item refill and candidate decisions. -/
def Obligations.VisionDecisionWords : Prop :=
  Claims.DecisionWords ∧ Claims.CandidateDecisions

/-! ## The A stream -/

/-- R273, R275 to R277, R280, R281: a load of the global, private or scratchpad space takes the tail slot of its queue and is
outstanding until its data land; a scratchpad load reads its words at issue; a full-empty load waits for a place among 64. -/
def Claims.LoadWords : Prop :=
  ∀ (s u : State) (t : Tpl) (p : BitVec 4) (c : Nat) (ls : List LaneAcc), s.offers [.a] = true → s.midBody = true →
    let k := s.cur.team
    let base := t.srcA.toNat % 64
    let w := elemBits c / 8
    let q := t.dstIdx.toNat
    let adv := t.adv.getLsbD 3
    let e := s.envOf 0x50 t p c
    let at_ := s.operandLanes t p
    let priv := s.privAddrs (s.envOf 0x65 t p c) (s.active p)
    let words := (s.inst (s.team k).inst).image.privateWords
    let rule (os : Nat) : TRule := { fmts := [0, 1, 2, 8, 9, 10, 11, 26], dsts := [1], aux := 0x1FBFFFF + os }
    let sent (kind : OutKind) (i : Instr) (ls : List LaneAcc) : Outst :=
      { s.accRecord kind i t c ls with dst := some (q, (Team.queue s.curGroup q).tail) }
    let taken (v : State) (o : Outst) : State := (v.pushOutst o).takeSlot q adv
    let scr := s.readScratch (s.accRecord .scratch (.ldl t p) t c at_)
    (t.free ≠ 0 → e.memOk = true → s.lanesPass .global base w at_ →
      s.transLanes (s.team k).core (some (.reg k s.cur.group base)) (s.pidOf k) .read at_ = .inr (ls, u) →
      (s.entryReady 0x50 (rule 0) t c → e.ordOk [0, 1] = true →
        PassesOn (.ld t p) s ((taken u (sent .load (.ld t p) ls)).popSources 0x50 t)) ∧
      (s.entryReady 0x53 (rule 0) t c → e.order = 0 → e.scope ≤ 4 → e.prm = false →
        PassesOn (.ldc t p) s ((taken u (sent .load (.ldc t p) ls)).popSources 0x53 t))) ∧
    (t.free ≠ 0 → e.memOk = true → e.ordOk [0, 1] = true → s.entryReady 0x51 (rule 0) t c →
      (s.scratchWaits e.order w at_ = true → Waits (.ldl t p) s s) ∧
      (s.scratchWaits e.order w at_ = false → s.lanesPass .scratch base w at_ →
        PassesOn (.ldl t p) s ((taken s { scr with dst := some (q, (Team.queue s.curGroup q).tail) }).popSources 0x51 t) ∧
        ∀ l ∈ at_, lane scr.data l.lane = elemLane c ((s.team k).scratchRead l.va w))) ∧
    (t.free ≠ 0 → e.memOk = true → e.ordOk [0] = true → s.entryReady 0x52 (rule 0x4000000) t c →
      (s.scratchWaits 0 w at_ = true → Waits (.ldf t p) s s) ∧
      (s.scratchWaits 0 w at_ = false → s.lanesPass .scratch base w at_ → 64 ≤ s.heldOnCore (s.team k).core →
        Waits (.ldf t p) s s) ∧
      (s.scratchWaits 0 w at_ = false → s.lanesPass .scratch base w at_ → s.heldOnCore (s.team k).core < 64 → PassesOn (.ldf t p) s
        (((taken s (sent .fullEmpty (.ldf t p) at_)).modTeam k (·.serveAll)).popSources 0x52 t))) ∧
    (t.free ≠ 0 → privOk (s.envOf 0x65 t p c) = true → s.entryReady 0x65 { fmts := [0, 8], dsts := [1], aux := 0xFFFF } t c →
      (∀ l ∈ priv, 0 ≤ privWord (s.envOf 0x65 t p c) l.lane ∧ privWord (s.envOf 0x65 t p c) l.lane < words) →
      s.lanesPass .global 0 4 priv →
      s.transLanes (s.team k).core none (s.pidOf k) .read priv = .inr (ls, u) →
      PassesOn (.ldp t p) s ((taken u (sent .load (.ldp t p) ls)).popSources 0x65 t)) ∧
    (s.entryReady 0x57 { aux := 0x5FBFFFF } t c → (s.envOf 0x57 t p c).memOk = true → (s.envOf 0x57 t p c).ordOk [0] = true →
      PassesOn (.pf t p) s (at_.foldl (fun v l => v.prefetch (s.envOf 0x57 t p c) l) s))

/-- R272: the lanes of an access are checked in order: the frame limit 0x0C8, address bits [63:51] 0x101, alignment 0x0C1, the
footprint 0x0C0; the frame names the lanes that fail the first failing check. -/
def Claims.AccessLaneFaults : Prop :=
  ∀ (s : State) (t : Tpl) (p : BitVec 4) (c : Nat), s.offers [.a] = true → s.iw.resumed = false →
    let base := t.srcA.toNat % 64
    let w := elemBits c / 8
    let e := s.envOf 0x50 t p c
    let at_ := s.operandLanes t p
    let out := at_.filter fun l => !s.curGroup.inFrame base w l.va
    let high := at_.filter fun l => decide (2 ^ 51 ≤ l.va)
    let odd := at_.filter fun l => l.va % w != 0
    let past := at_.filter fun l => decide ((s.inst (s.team s.cur.team).inst).image.scratchBytes < l.va + w)
    let rule : TRule := { fmts := [0, 1, 2, 8, 9, 10, 11, 26], dsts := [1], aux := 0x1FBFFFF }
    t.free ≠ 0 → e.memOk = true → e.ordOk [0, 1] = true →
    (s.entryReady 0x50 rule t c →
      (out ≠ [] → TrapsLanes (.ld t p) s 0x0C8 out) ∧
      (out = [] → high ≠ [] → TrapsLanes (.ld t p) s 0x101 high) ∧
      (out = [] → high = [] → odd ≠ [] → TrapsLanes (.ld t p) s 0x0C1 odd)) ∧
    (s.entryReady 0x51 rule t c → s.scratchWaits e.order w at_ = false →
      (odd ≠ [] → TrapsLanes (.ldl t p) s 0x0C1 odd) ∧
      (odd = [] → past ≠ [] → TrapsLanes (.ldl t p) s 0x0C0 past))

/-- R278 to R281: a store takes the lanes of its data slot's mask and is performed at once when nothing of its group holds it
back; a relaxed store changes no byte outside its lanes'. Scratchpad stores write their words, and `stf` then
fills the granules written (after its last lane: the model's choice, log 101). -/
def Claims.StoreWords : Prop :=
  ∀ (s u v : State) (t : Tpl) (p : BitVec 4) (c : Nat) (ls : List LaneAcc) (vs : List (Nat × Nat)),
    s.offers [.a] = true → s.midBody = true → storeData t = true →
    let k := s.cur.team
    let base := t.srcA.toNat % 64
    let w := elemBits c / 8
    let e := s.envOf 0x54 t p c
    let at_ := s.operandLanes t p
    let part (ls : List LaneAcc) : List LaneAcc := ls.filter fun l => (s.partLanes t p).getLsbD l.lane
    let data := mkLanes (s.srcC t)
    let priv := s.privAddrs (s.envOf 0x66 t p c) (s.active p)
    let words := (s.inst (s.team k).inst).image.privateWords
    let rule : TRule := { fmts := [0, 1, 2, 8, 9, 10, 11, 26], aux := 0x1FBFFFF }
    let record (i : Instr) : Outst := { s.accRecord .store i t c (part ls) with data := (s.readSrc t.srcC t.imm).lanes }
    let goes (i : Instr) (op : Nat) : Prop :=
      let may := u.mayPerform k (record i) s.curGroup.outst
      (may = false → PassesOn i s ((u.pushOutst (record i)).popSources op t)) ∧
      (∀ ch, may = true → u.perform k (record i) = .wait ch →
        PassesOn i s ((u.pushOutst { record i with heldOn := some ch }).popSources op t)) ∧
      (∀ x, may = true → u.perform k (record i) = .err x → exec i s = .next ((Eff.trap u
        { u.raiseAt x.cause (lanesMask (u.failLanes k (record i) x.cause)) with sector := x.sector }).commit s.cur s.iw)) ∧
      (may = true → u.perform k (record i) = .ok vs v → PassesOn i s (v.popSources op t) ∧
        (e.order = 0 → (∀ l ∈ ls, l.home = false) →
          (∀ x, (∀ l ∈ part ls, ¬(l.pa ≤ x ∧ x < l.pa + w)) → v.mem.read x = s.mem.read x) ∧
          (∀ x, (∀ l ∈ part ls, ¬(l.pa ≤ x + 2 ^ 47 ∧ x + 2 ^ 47 < l.pa + w)) → v.hostMem.read x = s.hostMem.read x)))
    let wrote : State := (part at_).foldl (fun v l => v.storeScratch k l.va (bytesOfNat w (lane data l.lane).toNat) false) s
    let filled : State := wrote.modTeam k (·.fill ((part at_).map (·.va / 16)))
    (e.memOk = true → e.ordOk [0, 2] = true → s.entryReady 0x54 rule t c → s.lanesPass .global base w at_ →
      s.transLanes (s.team k).core (some (.reg k s.cur.group base)) (s.pidOf k) .write at_ = .inr (ls, u) → goes (.st t p) 0x54) ∧
    (privOk (s.envOf 0x66 t p c) = true → s.entryReady 0x66 { fmts := [0, 8], aux := 0xFFFF } t c →
      (∀ l ∈ priv, 0 ≤ privWord (s.envOf 0x66 t p c) l.lane ∧ privWord (s.envOf 0x66 t p c) l.lane < words) →
      s.lanesPass .global 0 4 priv →
      s.transLanes (s.team k).core none (s.pidOf k) .write priv = .inr (ls, u) → goes (.stp t p) 0x66) ∧
    (e.memOk = true → e.ordOk [0, 2] = true → s.entryReady 0x55 rule t c → s.lanesPass .scratch base w at_ →
      (s.scratchWaits e.order w at_ = true → Waits (.stl t p) s s) ∧
      (s.scratchWaits e.order w at_ = false → PassesOn (.stl t p) s (wrote.popSources 0x55 t) ∧
        ∀ x, (∀ l ∈ part at_, ¬(l.va ≤ x ∧ x < l.va + w)) → (wrote.team k).scratchByte x = (s.team k).scratchByte x)) ∧
    (e.memOk = true → e.ordOk [0] = true → s.entryReady 0x56 rule t c → s.lanesPass .scratch base w at_ →
      s.scratchWaits 0 w at_ = false → PassesOn (.stf t p) s (filled.popSources 0x56 t) ∧
        (∀ x, (filled.team k).scratchByte x = (wrote.team k).scratchByte x) ∧
        ∀ l ∈ part at_,
          (part at_ = [l] → ∀ j < w, (filled.team k).scratchByte (l.va + j) = (bytesOfNat w (lane data l.lane).toNat).getD j 0) ∧
          ((∀ g ∈ (s.team k).groups, g.outst = []) → (filled.team k).isFull (l.va / 16) = true))

/-- Loads and stores of the A stream: lanes checked in order, slots, bytes stored. -/
def Obligations.AccessWords : Prop :=
  Claims.LoadWords ∧ Claims.AccessLaneFaults ∧ Claims.StoreWords

/-- R282, R283: an atomic word whose own fields are bad is 0x041; it checks its lanes in the order of R272 and waits while an ordered add
finds no accumulator. It is then performed at once without a result, when nothing of its group holds it back, or outstanding; with a
result it is outstanding until its data land. On the scratchpad it is performed and delivered at issue. Each new word is the
operation's of the old word and the data, and the result is the old word. -/
def Obligations.VectorAtomicWords : Prop :=
  ∀ (s : State) (t : Tpl) (p : BitVec 4) (c : Nat), s.offers [.a] = true → s.midBody = true →
    let k := s.cur.team
    let base := t.srcA.toNat % 64
    let q := t.dstIdx.toNat
    let at_ := s.operandLanes t p
    let part (ls : List LaneAcc) : List LaneAcc := ls.filter fun l => (s.partLanes t p).getLsbD l.lane
    let quiet := t.aux.getLsbD 25
    let out := at_.filter fun l => !s.curGroup.inFrame base 4 l.va
    let high := at_.filter fun l => decide (2 ^ 51 ≤ l.va)
    let odd := at_.filter fun l => l.va % 4 != 0
    let past := at_.filter fun l => decide ((s.inst (s.team k).inst).image.scratchBytes < l.va + 4)
    ∀ w ∈ atomicOps, s.entryReady w.2.1 { fmts := [w.2.2.1], aux := 0x3FFFFFF + w.2.2.2.1 } t c →
      let i := w.1 t p
      let ok := atomicOk w.2.1 t (s.envOf w.2.1 t p c)
      let record (ls : List LaneAcc) : Outst := { s.accRecord .atomic i t c (part ls) with
        data := (s.readSrc t.srcC t.imm).lanes, cmp := if w.2.1 = 0x60 then s.curGroup.iReg (t.aux.toNat / 2 ^ 26 % 8) else [],
        dst := if quiet then none else some (q, (Team.queue s.curGroup q).tail) }
      (ok = false → exec i s = .next ((s.trapLast 0x041).commit s.cur s.iw)) ∧
      (∀ ls l x, (record ls).atomicLane l x =
        (w.2.2.2.2 (t.aux.getLsbD 26) (BitVec.ofNat 32 x) (s.srcC t l) (lane (record ls).cmp l)).map (·.toNat)) ∧
      (ok = true → t.aux.getLsbD 18 = false →
        (out ≠ [] → TrapsLanes i s 0x0C8 out) ∧ (out = [] → high ≠ [] → TrapsLanes i s 0x101 high) ∧
        (out = [] → high = [] → odd ≠ [] → TrapsLanes i s 0x0C1 odd) ∧
        (s.lanesPass .global base 4 at_ → ∀ (ls : List LaneAcc) (u : State),
          s.transLanes (s.team k).core (some (.reg k s.cur.group base)) (s.pidOf k) .atomic at_ = .inr (ls, u) →
          let o := record ls
          let may := u.mayPerform k o s.curGroup.outst
          (u.accReady k o = false → Waits i s u) ∧
          (u.accReady k o = true → quiet = false →
            PassesOn i s (((u.pushOutst o).takeSlot q (t.adv.getLsbD 3)).popSources w.2.1 t)) ∧
          (u.accReady k o = true → quiet = true → may = false → PassesOn i s ((u.pushOutst o).popSources w.2.1 t)) ∧
          (∀ ch, u.accReady k o = true → quiet = true → may = true → u.perform k o = .wait ch →
            PassesOn i s ((u.pushOutst { o with heldOn := some ch }).popSources w.2.1 t)) ∧
          (∀ x, u.accReady k o = true → quiet = true → may = true → u.perform k o = .err x → exec i s = .next ((Eff.trap u
            { u.raiseAt x.cause (lanesMask (u.failLanes k o x.cause)) with sector := x.sector }).commit s.cur s.iw)) ∧
          (∀ vs v, u.accReady k o = true → quiet = true → may = true → u.perform k o = .ok vs v →
            PassesOn i s (v.popSources w.2.1 t)))) ∧
      (ok = true → t.aux.getLsbD 18 = true →
        let o := record at_
        let r := scratchRmw o (s.team k)
        let landed := s.setTeam k r.1
        let held := s.scratchWaits o.order 4 o.lanes = true ∨ (quiet = false ∧ ∃ e ∈ s.curGroup.outst, e.loadQueue = some q)
        (odd ≠ [] → TrapsLanes i s 0x0C1 odd) ∧ (odd = [] → past ≠ [] → TrapsLanes i s 0x0C0 past) ∧
        (s.lanesPass .scratch base 4 at_ →
          (held → Waits i s s) ∧
          (¬held → s.badLanes k o.lanes ≠ [] → exec i s =
            .next ((Eff.trap s (s.raiseAt 0x143 (lanesMask (s.badLanes k o.lanes)))).commit s.cur s.iw)) ∧
          (¬held → s.badLanes k o.lanes = [] → quiet = true → PassesOn i s (landed.popSources w.2.1 t)) ∧
          (¬held → s.badLanes k o.lanes = [] → quiet = false → PassesOn i s
            (((landed.takeSlot q (t.adv.getLsbD 3)).fillSlot k s.cur.group { r.2 with dst := o.dst } r.2.data).popSources w.2.1 t)) ∧
          ∀ l, o.lanes = [l] →
            let old := (s.team k).scratchRead l.va 4
            lane r.2.data l.lane = BitVec.ofNat 32 old ∧
            ∀ j < 4, r.1.scratchByte (l.va + j) = match o.atomicLane l.lane old with
              | some v => (bytesOfNat 4 v).getD j 0
              | none => (s.team k).scratchByte (l.va + j)))

/-- R284, 16 R369, R370, R389: `smp`, `trace` and `attr` name a delivery queue: 0x04A on an M-cluster, 0x080 unconfigured, 0x248
bound to another unit; with room each reads its records, once the group's earlier words let it (11 R279), and leaves a request, or an
outstanding load for `attr`. -/
def Obligations.VisionRequestWords : Prop :=
  ∀ (s : State) (t : Tpl) (p : BitVec 4) (c : Nat), s.offers [.a] = true → s.midBody = true →
    let k := s.cur.team
    let base := t.srcA.toNat % 64
    let q := 12 + t.aux.toNat / 2 ^ 26 % 4
    let x := Team.queue s.curGroup q
    let core := (s.team k).core
    let h := s.traceHandle t
    let smpReady := s.entryReady 0x58 { aux := 0xC00FFFF } t c ∧ t.srcA.toNat / 64 = 2 ∧ base < 32 ∧ t.srcB.toNat / 64 ≤ 1 ∧
      t.srcC.toNat / 64 ≤ 1
    let traceReady := s.entryReady 0x62 { aux := 0x1C03FFFF } t c ∧ (s.envOf 0x62 t p c).memOk = true ∧
      (t.srcC = 0 ∨ t.srcC.toNat / 64 = 2)
    let attrReady := s.entryReady 0x64 { fmts := [0, 1, 2, 8, 9, 10, 11, 26], dsts := [1], aux := 0xC00FFFF } t c ∧
      t.srcB.toNat / 64 ≠ 1 ∧ t.free ≠ 0
    let va := (((s.scalarSrc base).toNat + ((t.aux.setWidth 16 : BitVec 16)).toInt) % (2 ^ 64 : Nat)).toNat
    let desc := (maskLanes (s.active p)).map fun n => ({ lane := n, va := va } : LaneAcc)
    let at_ := s.operandLanes t p
    let w := if t.aux.getLsbD 28 then 64 else 32
    let attrs := (maskLanes (s.active p)).map fun n => ({
      lane := n, va := attrAddr (s.envOf 0x64 t p c) x n, home := (s.envOf 0x64 t p c).eaTaint.getLsbD n } : LaneAcc)
    let e := s.envOf 0x58 t p c
    let checks (i : Instr) (ok : QBind → Prop) : Prop :=
      (isMCluster (clusterOf core) = true → Traps i s 0x04A) ∧
      (isMCluster (clusterOf core) = false → x.depth = 0 → Traps i s 0x080) ∧
      (isMCluster (clusterOf core) = false → x.depth ≠ 0 → ¬ok x.bind → Traps i s 0x248)
    let bound (ok : QBind → Prop) : Prop := isMCluster (clusterOf core) = false ∧ x.depth ≠ 0 ∧ ok x.bind
    let reads (i : Instr) (u : State) (n : Nat) (ls : List LaneAcc) (then_ : List (LaneAcc × List Byte) → State → Prop) : Prop :=
      (u.recordWaits n ls = true → Waits i s u) ∧
      (u.recordWaits n ls = false → u.holdLost (.word s.cur) = true →
        exec i s = .next (((u.unhold (.word s.cur)).trapWith 0x148).commit s.cur s.iw)) ∧
      (u.recordWaits n ls = false → u.holdLost (.word s.cur) = false →
        (∀ ch, u.readRecords n ls = .wait ch → Waits i s (u.hold (.word s.cur) ch)) ∧
        (∀ y, u.readRecords n ls = .err y → exec i s = .next ((Eff.trap u
          { u.raiseAt y.cause (lanesMask (u.recordFails n y.cause ls)) with sector := y.sector }).commit s.cur s.iw)) ∧
        ∀ rs v, u.readRecords n ls = .ok rs v → then_ rs (v.unhold (.word s.cur)))
    (smpReady → checks (.smp t p) (fun b => b = .none ∨ b = .sampler) ∧ (bound (fun b => b = .none ∨ b = .sampler) →
      (x.room = 0 → Waits (.smp t p) s s) ∧
      (x.room ≠ 0 → s.lanesPass .global 0 64 desc → ∀ (ls : List LaneAcc) (u : State),
        s.transLanes core none (s.pidOf k) .read desc = .inr (ls, u) → reads (.smp t p) u 64 (ls.take 1) fun rs v =>
          (rs = [] → PassesOn (.smp t p) s ((v.pushSmp q e {}).popSources 0x58 t)) ∧
          (∀ y bs, rs = [(y, bs)] → smpOk bs = false → exec (.smp t p) s = .next ((v.trapWith 0x24A).commit s.cur s.iw)) ∧
          (∀ y bs, rs = [(y, bs)] → smpOk bs = true →
            PassesOn (.smp t p) s ((v.pushSmp q e (parseSmp bs)).popSources 0x58 t))))) ∧
    (traceReady → checks (.trace t p) (fun b => b = .none ∨ b = .traversal) ∧ (bound (fun b => b = .none ∨ b = .traversal) →
      (h ∉ (s.team k).pins → Traps (.trace t p) s 0x283) ∧
      (h ∈ (s.team k).pins → s.traceReady q = false → Waits (.trace t p) s s) ∧
      (h ∈ (s.team k).pins → s.traceReady q = true → s.lanesPass .global base w at_ → ∀ (ls : List LaneAcc) (u : State),
        s.transLanes core (some (.reg k s.cur.group base)) (s.pidOf k) .read at_ = .inr (ls, u) →
        reads (.trace t p) u w ls fun rs v => PassesOn (.trace t p) s ((v.pushTrace q (t.aux.getLsbD 28) h
          (rs.map fun r => parseLane (t.aux.getLsbD 28) r.1 r.2)).popSources 0x62 t)))) ∧
    (attrReady → checks (.attr t p) (fun b => b = .raster) ∧ (bound (fun b => b = .raster) →
      s.lanesPass .global 0 (elemBits c / 8) attrs → ∀ (ls : List LaneAcc) (u : State),
      s.transLanes core none (s.pidOf k) .read attrs = .inr (ls, u) →
      PassesOn (.attr t p) s (((u.pushOutst { s.accRecord .load (.attr t p) t c ls with
        dst := some (t.dstIdx.toNat, (Team.queue s.curGroup t.dstIdx.toNat).tail), order := 0, scope := 0, prm := false }).takeSlot
          t.dstIdx.toNat (t.adv.getLsbD 3)).popSources 0x64 t)))

/-! ## The M stream -/

/-- R289, R293, R296, R298 to R303, R307: `mma`, `mmas` and `mreq` check their fields (0x041), wait for their barrier, slots and room, claim
the slots they read and join the operation queue with their formats, slots, pops and cost. -/
def Claims.MatrixIssueWords : Prop :=
  ∀ (s : State) (k : Nat) (w : MFields) (a b : BitVec 5), s.cur = .m k → s.offers [.m] = true → s.midBody = true →
    let tm := s.team k
    let op := w.op.toNat
    let kb := op % 32
    let bit (n : Nat) : Bool := w.op.getLsbD n
    let ints : List Nat := [8, 9, 10, 11, 12, 13, 26]
    let ra := w.ringA.toNat
    let rb := w.ringB.toNat
    let mode : Option Nat := if op / 2 % 8 ≤ 4 then some (op / 2 % 8)
      else if op / 2 % 8 = 7 ∧ tm.fpMode ≠ 5 then some tm.fpMode.toNat else none
    let slots (ring n : Nat) : List Nat := match tm.rings.getD ring none with
      | some r => (List.range n).map fun j => (r.head + r.claimed + j) % r.count
      | none => []
    (∀ x ∈ [(false, Instr.mma w), (true, .mmas w)],
      let ca : Claim := { ring := ra, n := kb, keep := bit 6 }
      let cb : Claim := { ring := rb, n := kb, keep := bit 7 }
      let block := max (classCycles a.toNat) (classCycles b.toNat) * (if isMCluster (clusterOf (s.arrayOf k)) then 1 else 16) /
        (if x.1 then 2 else 1)
      let fields := op / 2 ^ 9 = 0 ∧ 1 ≤ kb ∧ kb ≤ 16 ∧ w.acc.toNat < tm.tiles.length ∧ ra ≠ rb ∧
        (bit 5 = true → b.toNat ∈ [0, 1, 2, 3, 4, 8, 9, 10, 11, 26, 31]) ∧ (w.accf = 1 → a.toNat ∈ ints ∧ b.toNat ∈ ints) ∧
        tm.holds ra kb (blockBytes x.1 a.toNat) ∧ tm.holds rb kb (blockBytes false b.toNat)
      ((∀ a b, ¬tm.mReads w (bit 8) a b) → Traps x.2 s 0x041) ∧
      (tm.mReads w (bit 8) a b → ¬fields → Traps x.2 s 0x041) ∧
      (tm.mReads w (bit 8) a b → fields → s.mStops x.2 k w [ca, cb] none (kb * block) (block / 32)) ∧
      (tm.mReads w (bit 8) a b → fields → s.mReady k w [ca, cb] none (kb * block) (block / 32) →
        PassesOn x.2 s (s.mIssued k w {
          team := k, instr := x.2, fmtA := a.toNat, fmtB := b.toNat, slotsA := slots ra kb,
          slotsB := slots rb kb, popA := if bit 6 then 0 else kb, popB := if bit 7 then 0 else kb, cost := kb * block } [ca, cb] none))) ∧
    (let c : Claim := { ring := ra, n := 1, keep := bit 5 }
     let fields := op / 2 ^ 7 = 0 ∧ ra ≠ rb ∧ (b.toNat ≤ 19 ∨ b.toNat ∈ [26, 27, 31]) ∧ (bit 0 = true → a.toNat ∉ [22, 25, 30]) ∧
       tm.holds ra 1 (blockBytes false a.toNat) ∧ tm.holds rb 1 (blockBytes false b.toNat)
     ((∀ a b, ¬tm.mReads w (bit 6) a b) → Traps (.mreq w) s 0x041) ∧
     (tm.mReads w (bit 6) a b → (¬fields ∨ mode = none) → Traps (.mreq w) s 0x041) ∧
     (tm.mReads w (bit 6) a b → fields → mode ≠ none → s.mStops (.mreq w) k w [c] (some rb) 64 64) ∧
     (∀ m, tm.mReads w (bit 6) a b → fields → mode = some m → s.mReady k w [c] (some rb) 64 64 →
       PassesOn (.mreq w) s (s.mIssued k w {
         team := k, instr := .mreq w, fmtA := a.toNat, fmtB := b.toNat, mode := m,
         slotsA := slots ra 1, popA := if bit 5 then 0 else 1, cost := 64 } [c] (some rb))))

/-- R288, R293, R298, R302 to R307, R312, R313: the oldest operation of an array that works retires: its effect, its pops, its post. A
cause discards it and the team's later operations and is raised at its word. The operation of a team that a trap has ended completes
without a tile write, and raises nothing. -/
def Claims.MatrixRetirement : Prop :=
  ∀ (s : State) (core : Nat) (o : MOp) (rest : List MOp), s.ev.core = core → (s.core core).mops = o :: rest →
    s.arrayRuns core = true →
    let k := o.team
    let tm := s.arrayTeam k
    let live := (s.team k).status ≠ .stopped
    let dropped := s.modCore core fun c => { c with mops := rest }
    let u := (dropped.opEffect o).arrayTeam k
    let word (tm : Team) (i j : Nat) : W32 := (tm.tiles.getD i []).getD j 0
    let slotByte (ring : Nat) (r : Ring) (j : Nat) : Byte := tm.scratchByte (r.base + ring * r.slotBytes + j)
    let others (w : MFields) : Prop := u.scratch = tm.scratch ∧ ∀ i j, i ≠ w.acc.toNat → word u i j = word tm i j
    let tile (w : MFields) : Prop := live ∧ w.acc.toNat < tm.tiles.length
    (∀ c, s.opCause o = some c → live → exec .mOpRetire s = .next ((s.discardFrom o).raise k
      { cause := c, ctx := some (.m k), stream := 3, pc := o.info.pc, group := 0, regionPc := s.regionPc (.m k), time := s.now } 1 0)) ∧
    (∀ c, s.opCause o = some c → ¬live → exec .mOpRetire s = .next dropped) ∧
    (s.opCause o = none →
      exec .mOpRetire s = .next (((((dropped.opEffect o).opPops o).opPost o).opRepair o).checkPull k) ∧
      (∀ w, (o.instr = .mzero w ∨ o.instr = .mma w ∨ o.instr = .mmas w ∨ o.instr = .mld w) → ¬live → dropped.opEffect o = dropped) ∧
      (∀ w, o.instr = .mzero w → tile w → others w ∧ ∀ j < 4096, word u w.acc.toNat j = 0) ∧
      (∀ w, (o.instr = .mma w ∨ o.instr = .mmas w) → tile w → o.step = 0 → o.slotsA.length = o.slotsB.length → others w ∧
        let blocks := tm.operands o w (decide (o.instr = .mmas w))
        ∀ m < 64, ∀ n < 64, word u w.acc.toNat (64 * m + n) = (List.range (8 * o.slotsA.length)).foldl (fun acc j =>
          let blk := blocks.getD (j / 8) ([], [])
          let chunk (l : List Val) : List Val := (l.drop (16 * (j % 8))).take 16
          accumulate w.accf.toNat acc (List.zipWith (product o.fmtA o.fmtB) (chunk (blk.1.getD m [])) (chunk (blk.2.getD n []))))
            (word tm w.acc.toNat (64 * m + n))) ∧
      (∀ w r n, o.instr = .mld w → tile w → tm.rings.getD w.ringA.toNat none = some r → o.slotsA = [n] → others w ∧
        (w.accf ≠ 2 → 16384 ≤ r.slotBytes → ∀ i < 64, ∀ j < 64, word u w.acc.toNat (64 * i + j) = BitVec.ofNat 32 (natOfBytes
          ((List.range 4).map fun b => slotByte n r (4 * (if w.op.getLsbD 0 then 64 * j + i else 64 * i + j) + b))))) ∧
      (∀ w, o.instr = .mst w → u.tiles = tm.tiles ∧ ∀ x, u.scratchByte x =
        if o.offset ≤ x ∧ x < o.offset + (tm.mstData o w).length then (tm.mstData o w).getD (x - o.offset) 0 else tm.scratchByte x) ∧
      (∀ w r, o.instr = .mreq w → tm.rings.getD w.ringB.toNat none = some r → u.tiles = tm.tiles ∧
        (let bs := writeLines o.fmtB (rmodeOf o.mode 0) (w.op.getLsbD 4) (tm.reqLines o w)
         let at_ := r.base + r.tail * r.slotBytes
         ∀ x, u.scratchByte x = if at_ ≤ x ∧ x < at_ + bs.length then bs.getD (x - at_) 0 else tm.scratchByte x) ∧
        u.rings.getD w.ringB.toNat none = some { r with tail := (r.tail + 1) % r.count, f := r.f + 1, resv := r.resv - 1 }))

/-- mma, mmas and mreq at issue, and the retirement of the oldest matrix operation. -/
def Obligations.MatrixMultiplyWords : Prop :=
  Claims.MatrixIssueWords ∧ Claims.MatrixRetirement

/-- R289, R297, R304 to R311, 06 R147: the other matrix words, each in the operation queue once it may issue: `mzero`, `mld` and `mst` act
on a tile, `mbar` waits on and posts to barriers, `mfmt` sets the latch, `mloop` starts a replay with its post held to the loop's end,
`mend` ends the stream and `mrel` does nothing else. A field outside the rules of the word, `mend` away from the end of an epilogue and
`mrel` away from the start of a body raise 0x041. -/
def Claims.MatrixTileAndControlWords : Prop :=
  ∀ (s : State) (k : Nat) (w : MFields) (run : RecRun), s.cur = .m k → s.offers [.m] = true → (s.team k).mctx.run = some run →
    let tm := s.team k
    let op := w.op.toNat
    let ra := w.ringA.toNat
    let off := (tm.lcReg (op % 8)).toNat
    let d := op / 8 % 32
    let bytes := 512 * elemBits d + (if 14 ≤ d ∧ d ≤ 19 then 128 else 0)
    let mode : Option Nat := if op / 2 ^ 8 % 8 ≤ 4 then some (op / 2 ^ 8 % 8)
      else if op / 2 ^ 8 % 8 = 7 ∧ tm.fpMode ≠ 5 then some tm.fpMode.toNat else none
    let c : Claim := { ring := ra, n := 1, keep := w.op.getLsbD 1 }
    let tile := w.acc.toNat < tm.tiles.length
    let ldBytes := if w.accf = 2 then 8192 else 16384
    let slot : List Nat := match tm.rings.getD ra none with
      | some r => [(r.head + r.claimed) % r.count]
      | none => []
    let len := op % 2 ^ 8
    let n := op / 2 ^ 8
    let mld := tile ∧ op / 4 = 0 ∧ tm.holds ra 1 ldBytes
    let mst := tile ∧ op / 2 ^ 13 = 0 ∧ (d ≤ 19 ∨ d = 26) ∧ mode ≠ none
    let inside := off % 64 = 0 ∧ off + bytes ≤ (s.inst tm.inst).image.scratchBytes
    let clears := op = 1 ∧ w.ind = false ∧ w.fmtA = 0 ∧ w.fmtB = 0
    let sets := op = 0 ∧ ∃ a b, tm.mReads w false a b
    let loops := 1 ≤ len ∧ len ≤ 64 ∧ 1 ≤ n ∧ run.pos + 1 + len ≤ run.body.length ∧
      ∀ x ∈ (run.body.drop (run.pos + 1)).take len, x.toNat / 2 ^ 58 ∉ [8, 9, 10]
    let starts := run.pos = 0 ∧ (run.st = .prologue ∨ (run.st = .kernel ∧ run.pro = []))
    let ends := run.st = .epilogue ∧ run.pos + 1 = run.epi.length
    let plain (i : Instr) : State := s.mIssued k w { team := k, instr := i } [] none
    let free := s.mReady k w [] none 0 0
    (¬tile → Traps (.mzero w) s 0x041) ∧ (¬mld → Traps (.mld w) s 0x041) ∧ (¬mst → Traps (.mst w) s 0x041) ∧
    (¬clears → ¬sets → Traps (.mfmt w) s 0x041) ∧ (¬loops → Traps (.mloop w) s 0x041) ∧ (¬starts → Traps (.mrel w) s 0x041) ∧
    (¬ends → Traps (.mend w) s 0x041) ∧
    (mst → off % 64 ≠ 0 → Traps (.mst w) s 0x0C1) ∧ (mst → off % 64 = 0 → ¬inside → Traps (.mst w) s 0x0C0) ∧
    (tile → s.mStops (.mzero w) k w [] none 8 8) ∧ (mld → s.mStops (.mld w) k w [c] none 32 32) ∧
    (mst → inside → s.mStops (.mst w) k w [] none 32 32) ∧ s.mStops (.mbar w) k w [] none 0 0 ∧
    ((clears ∨ sets) → s.mStops (.mfmt w) k w [] none 0 0) ∧ (loops → s.mStops (.mloop w) k w [] none 0 0) ∧
    (starts → s.mStops (.mrel w) k w [] none 0 0) ∧ (ends → s.mStops (.mend w) k w [] none 0 0) ∧
    (s.midBody = true →
      (tile → s.mReady k w [] none 8 8 →
        PassesOn (.mzero w) s (s.mIssued k w { team := k, instr := .mzero w, cost := 8 } [] none)) ∧
      (mld → s.mReady k w [c] none 32 32 → PassesOn (.mld w) s (s.mIssued k w
        { team := k, instr := .mld w, slotsA := slot, popA := if w.op.getLsbD 1 then 0 else 1, cost := 32 } [c] none)) ∧
      (∀ m, mst → inside → mode = some m → s.mReady k w [] none 32 32 → PassesOn (.mst w) s (s.mIssued k w
        { team := k, instr := .mst w, fmtA := d, mode := m, offset := off, cost := 32 } [] none)) ∧
      (free → PassesOn (.mbar w) s (plain (.mbar w))) ∧
      (clears → free → PassesOn (.mfmt w) s ((plain (.mfmt w)).modTeam k fun x => { x with latch := none })) ∧
      (∀ a b, op = 0 → tm.mReads w false a b → free →
        PassesOn (.mfmt w) s ((plain (.mfmt w)).modTeam k fun x => { x with latch := some (a, b) })) ∧
      (loops → free → PassesOn (.mloop w) s ((plain (.mloop { w with postEn := false, postB := 0 })).modRun (.m k) fun x => { x with
        loopStart := x.pos + 1, loopLen := len, loopLeft := n - 1
        loopOp := if w.postEn then some {
            instr := .mloop w, info := s.iw, count := run.count, sig := run.sig, latch := tm.latch
            wait := if w.waitEn then some (w.waitB.toNat, (s.barRec (.m k) w.waitB.toNat).map fun q => { q with waiting := false })
              else none }
          else none })) ∧
      (starts → free → PassesOn (.mrel w) s (plain (.mrel w)))) ∧
    (s.iw.resumed = false → ends → free → Completes (.mend w) s ((plain (.mend w)).modTeam k fun x => { x with mEnded := true }))

/-- R307: the wait of a matrix word takes the completed phase of its barrier and waits until there is one; 0x1C8 for a barrier not
initialised, 0x1C0 for one invalidated meanwhile; a full operation queue makes it wait. A wait that is not met keeps the phase recorded and
whether an arrival recorded it (09 R218). -/
def Claims.MatrixBarrierWait : Prop :=
  ∀ (s : State) (k : Nat) (w : MFields), s.cur = .m k → s.offers [.m] = true → w.waitEn = true → w.postEn = false →
    let tm := s.team k
    let n := w.waitB.toNat
    let was := s.barRec (.m k) n
    let gone := ∃ q, was = some q ∧ q.gone = true
    let seen : W16 := match was with
      | some q => q.phase
      | none => 0
    (gone → exec (.mbar w) s = .next (((s.clearBarRec (.m k) n).trapWith 0x1C0).commit s.cur s.iw)) ∧
    (¬gone → s.barrier tm.core n = none → Traps (.mbar w) s 0x1C8) ∧
    (∀ x, ¬gone → s.barrier tm.core n = some x →
      (x.phase = seen → Waits (.mbar w) s (s.setBarRec
        { was.getD { ctx := .m k, bar := n, phase := 0, arrived := false } with waiting := true })) ∧
      (x.phase ≠ seen → s.mRoom (s.arrayOf k) 0 = false → Waits (.mbar w) s s) ∧
      (x.phase ≠ seen → s.mRoom (s.arrayOf k) 0 = true → s.midBody = true → (∀ q, tm.mctx.run = some q → q.loopEnds = false) →
        PassesOn (.mbar w) s ((s.setBarRec { ctx := .m k, bar := n, phase := x.phase, arrived := false }).pushOp
          { team := k, instr := .mbar w, info := s.iw, runBefore := tm.mctx.run, latchBefore := tm.latch, issued := s.cycle,
            waitBefore := some (n, was.map fun q => { q with waiting := false }) })))

/-- mzero, mst, mld, mbar, mfmt, mloop, mend, mrel, and barrier waits of matrix words. -/
def Obligations.MatrixControlWords : Prop :=
  Claims.MatrixTileAndControlWords ∧ Claims.MatrixBarrierWait

/-! ## Events: submission, releases, deadlines -/

/-- 02 R43, R44, R46: the writes of a page are handled one at a time in their order; one that comes while a submit of the page is being
checked waits. A write that finds 16 results of its page is dropped and sets OVERFLOW; every other one takes the next sequence
number. A failed check posts its code, OP 0 hands the card to acceptance, OP 1 stops the card's releases. -/
def Claims.SubmitWrites : Prop :=
  (∀ (s u : State) (w : RegWrite), s.regWrite = some (w, u) →
    let p := w.base / 4096
    let d := w.bits.toNat % 2 ^ 32
    let op := d / 2 ^ 30
    let j := d % 2 ^ 13
    let x := u.page p
    let jb := u.job j
    let r : SubResult := { seq := x.seq, code := 0, op := op, job := j }
    let code := if 2 ≤ op ∨ d / 2 ^ 13 % 2 ^ 17 ≠ 0 then 16 else if u.lodge.jobCount.toNat ≤ j then 17
      else if op = 0 ∧ jb.accepted = true then 18
      else if op = 1 ∧ (jb.accepted = false ∨ jb.withdrawing ≠ none) then 19 else 0
    ∀ i row, (i, row) ∈ [(Instr.submit, RegRow.submit), (.withdraw, .withdraw)] → u.rowOf w = row →
      ((∃ q ∈ x.prep, q.op = 0) → exec i s = .next (u.setPage p { x with queue := x.queue ++ [d] })) ∧
      ((∀ q ∈ x.prep, q.op ≠ 0) → x.queue = [] →
        (16 ≤ x.results.length + x.prep.length → exec i s = .next (u.setPage p { x with overflow := true })) ∧
        (x.results.length + x.prep.length < 16 →
          (code ≠ 0 → exec i s = .next (u.setPage p
            { x with seq := x.seq + 1, results := x.results ++ [{ r with code := code }], prep := x.prep.filter (·.seq != x.seq) })) ∧
          (code = 0 → op = 0 → exec i s = .next (u.setPage p { x with seq := x.seq + 1, prep := x.prep ++ [r] })) ∧
          (code = 0 → op = 1 → exec i s = .next
            (((u.setPage p { x with seq := x.seq + 1, prep := x.prep ++ [r] }).modJob j
              fun y => { y with withdrawing := some (p, x.seq) }).checkWithdraw j))))) ∧
  (∀ (s : State) (p n d : Nat) (ds : List Nat), (s.page p).queue = d :: ds →
    ((∃ q ∈ (s.page p).prep, q.op = 0) → s.handleQueue p n = s) ∧
    ((∀ q ∈ (s.page p).prep, q.op ≠ 0) →
      s.handleQueue p (n + 1) = ((s.setPage p { s.page p with queue := ds }).handleSubmit p d).handleQueue p n))

/-- 02 R46, R52: once no live instance of a withdrawing card is left, its withdraw result is posted and the card is not accepted; until
then neither happens. An instance that is DONE or FAILED is not live. -/
def Claims.WithdrawEnds : Prop :=
  ∀ (s : State) (j page seq : Nat), (s.job j).withdrawing = some (page, seq) →
    let live := ∃ x ∈ s.insts, x.job = j ∧ x.st ≠ .done ∧ x.st ≠ .failed
    let x := s.page page
    (live → s.checkWithdraw j = s) ∧
    (¬live → s.checkWithdraw j = (s.modJob j fun y => { y with accepted := false, withdrawing := none }).setPage page
      { x with results := x.results ++ [{ seq := seq, code := 0, op := 1, job := j }], prep := x.prep.filter (·.seq != seq) })

/-- 02 R43, R49, 03 R82: a read of RESULT, PTP_STATUS or MIG_FWD_EXT returns the register; RESULT removes the oldest result,
PTP_STATUS clears the largest offset, MIG_FWD_EXT clears itself. -/
def Claims.RegisterReads : Prop :=
  ∀ s : State, s.lodge.bootStep = 5 →
    let p := s.ev.page.toNat
    let x := s.page p
    exec .resultRead s = .next { s with
      pages := setAt {} s.pages p { x with results := x.results.drop 1 }, readData := s.windowValue (p * 4096 + 8) } ∧
    exec .ptpStatusRead s = .next { s with lodge.ptpMax := 0, readData := s.windowValue 0x10010 } ∧
    exec .migFwdExtRead s = .next { s with lodge.migFwdExt := 0, readData := s.windowValue 0x10018 }

/-- 01 R29, 02 R44, R45, R50, R51: the checks of a card that is submitted, and what its acceptance makes; then the page's waiting
writes are handled. A card that cannot be read is reported to Belvedere. -/
def Claims.CardAcceptance : Prop :=
  ∀ (s : State) (r : SubResult), (s.page s.ev.page.toNat).prep.find? (fun x => x.seq == s.ev.seq && x.op == 0) = some r →
    let p := s.ev.page.toNat
    let j := r.job
    let told : State := { s with belv := s.belv ++ [BelvMsg.cardRead j] }
    let ends (t : State) (code : Nat) : Prop :=
      exec .cardAcceptance s = .next ((t.postResult p { r with code := code }).handleQueue p (s.page p).queue.length)
    ((s.job j).accepted = true → ends s 18) ∧
    ((s.job j).accepted = false → (s.part p).valid = false → ends s 4) ∧
    ((s.job j).accepted = false → (s.part p).valid = true →
      (∀ c, s.cardBytes j = .inl c → ends told 14) ∧
      (∀ bs, s.cardBytes j = .inr bs →
        let x := s.checkCard p bs
        let v := if x.lost = true then told else s
        (x.code ≠ 0 → ends v x.code) ∧
        (x.code = 0 → ∃ t, ends t 0 ∧
          t = v.acceptCard j x ∧ (t.job j).accepted = true ∧ (t.job j).card = x.card ∧ (t.job j).withdrawing = none ∧
          (x.card.flag 1 = true → x.card.flag 2 = false → t.insts.length = s.insts.length + 1 ∧
            (t.inst s.insts.length).job = j ∧ (t.inst s.insts.length).release = s.now ∧
            (t.inst s.insts.length).deadline = s.now + x.card.deadlineNs) ∧
          ((x.card.flag 1 = false ∨ x.card.flag 2 = true) → t.insts = s.insts))))

/-- SUBMIT, WITHDRAW, the reads with effects, and the acceptance of a card. -/
def Obligations.SubmissionEvents : Prop :=
  Claims.SubmitWrites ∧ Claims.WithdrawEnds ∧ Claims.RegisterReads ∧ Claims.CardAcceptance

/-- 02 R48, R50 to R52, R61: a release is due when Bandstand's time unit has not reported an offset, the card is accepted, periodic,
enabled and not withdrawing and its instant has come; the earliest due release comes first; it makes instance n, or logs 0x209 at the instance limit. -/
def Claims.ReleaseEvent : Prop :=
  (∀ (s : State) (j a : Nat), s.dueRelease j = some a ↔
    s.lodge.fatal = false ∧ UnitId.bandstand ∉ s.lodge.ltuBad ∧ (s.job j).accepted = true ∧ (s.job j).withdrawing = none ∧ (s.job j).card.flag 1 = true ∧
    (s.job j).card.flag 2 = true ∧ a = (s.job j).card.firstReleaseNs + (s.job j).nextN * (s.job j).card.periodNs ∧ a ≤ s.now) ∧
  ∀ (s : State) (a : Nat), s.dueRelease s.ev.job = some a →
    (∀ k < s.jobs.length, ∀ b, s.dueRelease k = some b → k = s.ev.job ∨ a < b ∨ (a = b ∧ s.ev.job < k)) →
    let j := s.ev.job
    let n := (s.job j).nextN
    let u := s.modJob j fun y => { y with nextN := n + 1 }
    let live := (s.liveOf j).length
    let sampled := (s.job j).card.flag 3 = true ∧ ∃ x ∈ s.liveOf j, x.sampled.isSome = true ∧ x.number + 2 ≤ n
    (2 ≤ live ∨ sampled → exec .release s = .next (u.logJob j 0x209 n a)) ∧
    (live < 2 → ¬sampled → ∃ t, exec .release s = .next t ∧ t.insts.length = s.insts.length + 1 ∧
      (t.job j).nextN = n + 1 ∧ (∀ i < s.insts.length, t.inst i = s.inst i) ∧ t.teams = s.teams ∧ t.mem = s.mem ∧
      let x := t.inst s.insts.length
      x.job = j ∧ x.number = n ∧ x.id = BitVec.ofNat 32 n ∧ x.release = a ∧ x.deadline = a + (s.job j).card.deadlineNs ∧
      x.st = .ready ∧ x.card = (s.job j).card)

/-- 02 R53, R56: an instance becomes ready at a cluster of its mask, and the cluster's agent decides. -/
def Claims.InstanceReadyEvent : Prop :=
  ∀ s : State, s.ev.inst < s.insts.length → (s.inst s.ev.inst).live = true →
    bitsOf (s.inst s.ev.inst).card.clusterMask s.ev.cluster 1 = 1 → s.ev.cluster ∉ (s.inst s.ev.inst).readyAt →
    exec .instanceReady s =
      .next ((s.modInst s.ev.inst fun y => { y with readyAt := s.ev.cluster :: y.readyAt }).agentDecide s.ev.cluster)

/-- Releases in order of their instants, and instances becoming ready. -/
def Obligations.ReleaseEvents : Prop :=
  Claims.ReleaseEvent ∧ Claims.InstanceReadyEvent

/-- 02 R48, R58 to R61: an instance that is live and not complete 200 ns after its deadline takes 0x200, once, unless Bandstand's time
unit has reported an offset. A cluster's report is due after 512 cycles or when a team has left it; the first report that brings the
charge above ⌊COMPUTE_BUDGET_NS × 3 / 2⌋ raises 0x201. One that also finds the deadline missed raises 0x200 and logs 0x201; a fallback
team beyond the budget takes STOP (21 R476). -/
def Claims.DeadlineAndBudget : Prop :=
  (∀ s : State, let x := s.inst s.ev.inst
    s.ev.inst < s.insts.length → x.deadline + 200 ≤ s.now → x.missed = false → x.live = true → x.stamp = none →
    (UnitId.bandstand ∉ s.lodge.ltuBad → exec .deadlineCheck s =
      .next ((s.modInst s.ev.inst fun y => { y with missed := true }).raiseInst s.ev.inst 0x200)) ∧
    (UnitId.bandstand ∈ s.lodge.ltuBad → exec .deadlineCheck s = .next s)) ∧
  (∀ s : State, (∀ e ∈ (s.cluster s.ev.cluster).charge, e.inst = s.ev.inst → e.left = false ∧ e.age < 512) →
    exec .budgetReport s = .next s) ∧
  (∀ (s : State) (c : Charge),
    (s.cluster s.ev.cluster).charge.find? (fun e => e.inst == s.ev.inst && (e.left || decide (512 ≤ e.age))) = some c →
    let i := s.ev.inst
    let x := s.inst i
    let u := (s.modCluster s.ev.cluster fun k => { k with charge := k.charge.filter (·.inst != i) }).modInst i
      fun y => { y with reported := y.reported + c.cycles }
    let v := u.modInst i fun y => { y with overBudget := true }
    let above := x.card.budgetNs * 3 / 2 < x.reported + c.cycles ∧ x.overBudget = false
    i < s.insts.length →
    (¬above → exec .budgetReport s = .next u) ∧
    (above → u.deadlineDue i = true → let z := v.deadlineCheck i
      exec .budgetReport s = .next (z.logInstCause i (if (z.inst i).card.nibble 0x201 = 4 then 1 else 3) 0x201)) ∧
    (above → u.deadlineDue i = false →
      (x.st ≠ .failed ∨ x.fallbackTeam = none → exec .budgetReport s = .next (v.raiseInst i 0x201)) ∧
      (∀ t, x.st = .failed → x.fallbackTeam = some t →
        exec .budgetReport s = .next ((v.logInstCause i 2 0x201).endByCause t false))))

/-- 01 R26, 02 R60, R502: what an instance-level cause does: EVENT logs it only; HANDLER logs it and gives it to every team of the
instance, and ends an instance that has none; a disposition that ends the instance waits for the next checkpoint of a team that
holds a slot, and takes effect at once when none does. Of two that wait the lower code takes effect and the other is logged. A cause
of an instance that is HELD is logged, of one that has ended ignored; 0x200 of an instance that completes late is left to its
stamp. -/
def Claims.InstanceCauses : Prop :=
  ∀ (s : State) (i : Nat) (c : Cause),
    let x := s.inst i
    let code := x.card.nibble c
    let r := instRaise c s.now
    let teams := s.instTeams i ≠ [] ∨ x.unplaced = true
    let holds := ∃ t ∈ s.instTeams i, s.holdsSlot t = true
    let atOnce (d : Nat) : State := if d = 5 then (s.logInstCause i 2 c).holdInstance i r
      else (s.logInstCause i 2 c).failInstance i (d == 2)
    (x.st = .held → s.raiseInst i c = s.logInstCause i 3 c) ∧
    (x.st = .done ∨ x.st = .failed → s.raiseInst i c = s) ∧
    (x.st = .retiring → c = 0x200 → code ≠ 4 → s.raiseInst i c = s) ∧
    (x.st ≠ .held → x.live = true → code = 4 → s.raiseInst i c = s.logInstCause i 1 c) ∧
    (x.st ≠ .held → x.live = true → (x.st = .retiring → c ≠ 0x200) →
      (code = 1 → teams → s.raiseInst i c = (s.logInstCause i 2 c).handlerAll i r) ∧
      (code = 1 → ¬teams → s.raiseInst i c = atOnce 0) ∧
      (code ≠ 1 → code ≠ 4 → holds →
        (x.pendingCause = none → s.raiseInst i c = s.modInst i fun y => { y with pendingCause := some r }) ∧
        (∀ q, x.pendingCause = some q →
          (q.cause.toNat ≤ c.toNat → s.raiseInst i c = s.logInstCause i 3 c) ∧
          (c.toNat < q.cause.toNat → s.raiseInst i c =
            (s.logInstCause i 3 q.cause).modInst i fun y => { y with pendingCause := some r }))) ∧
      (code ≠ 1 → code ≠ 4 → ¬holds → s.raiseInst i c = atOnce code))

/-- Deadline and budget causes, and what an instance-level cause does. -/
def Obligations.InstanceCauseEvents : Prop :=
  Claims.DeadlineAndBudget ∧ Claims.InstanceCauses

/-- 21 R482, 22 R487: Belvedere resolves a held instance by the two bits of ESC_POLICY for its criticality; the completion signal of an
instance is sent once, after its counter post. -/
def Obligations.EscalationAndSignal : Prop :=
  (∀ (s : State) (r : Raise), let i := s.ev.inst
    let x := s.inst i
    x.heldCause = some r → x.live = true →
    let f := (s.part x.card.pid).escPolicy.toNat / 2 ^ (2 * (x.card.criticality % 4)) % 4
    let code := if f = 1 ∧ x.card.fallbackRecord < 0xFFFF then 2 else if f = 2 then 3 else 0
    let u := s.logInst i { stream := 7, cause := r.cause, kind := 4, data := code }
    exec .escalationResolution s =
      .next (({ u with belv := u.belv.filter (· != BelvMsg.escalate r.cause x.job x.id) }).failInstance i (code == 2))) ∧
  (∀ s : State, let i := s.ev.inst
    let x := s.inst i
    x.card.flag 6 = true → x.posted = true → x.signalled = false →
    let u := s.modInst i fun y => { y with signalled := true }
    let v := x.card.msixVector
    (s.hostMode = true → exec .msixSignal s = .next { u with out := s.out ++ [.irq v] }) ∧
    (s.hostMode = false → s.msixMasked v = false → exec .msixSignal s = .next { u with out := s.out ++ [.msix v] }) ∧
    (s.hostMode = false → s.msixMasked v = true → v ∉ s.lodge.msixPend →
      exec .msixSignal s = .next { u with lodge.msixPend := v :: s.lodge.msixPend }))

/-- 02 R47 to R49, R51, R61: a timing message keeps the largest offset, reports a unit more than 8 ns off, and steps time only by a
forward correction above 1,000 ns; the releases that are due go first, in their order, and of the instants the step passes over the
latest one is left to release. Holdover and lock are shown in PTP_STATUS. -/
def Obligations.TimeEvents : Prop :=
  (∀ s : State, ∃ t, exec .ptpTimingMessage s = .next t ∧
    t.lodge.ptpMax.toNat = max s.lodge.ptpMax.toNat (min s.ev.offset 0xFFFF) ∧
    (s.ev.offset ≤ 8 → t.lodge.ltuBad = s.lodge.ltuBad) ∧ (8 < s.ev.offset → s.ev.unit ∈ t.lodge.ltuBad ∧ .offset s.ev.unit ∈ t.belv) ∧
    (s.ev.correction ≤ 1000 → t.now = s.now ∧ t.insts = s.insts ∧ t.teams = s.teams ∧ t.jobs = s.jobs ∧ t.mem = s.mem ∧
      t.lodge.ptpStep = s.lodge.ptpStep) ∧
    (1000 < s.ev.correction →
      let m := s.measureOffset s.ev.unit s.ev.offset
      let u := m.releaseDue m.dueCount
      (t.now : Int) = s.now + s.ev.correction ∧ t.lodge.ptpStep = true ∧
      ∀ j < s.jobs.length, (t.job j).nextN =
        if ({ u with now := t.now } : State).dueRelease j = none then (u.job j).nextN
        else max (u.job j).nextN ((t.now - (s.job j).card.firstReleaseNs) / (s.job j).card.periodNs))) ∧
  (∀ (s : State) (n : Nat),
    ((∀ j < s.jobs.length, s.dueRelease j = none) → s.releaseDue n = s) ∧
    (∀ j a, j < s.jobs.length → s.dueRelease j = some a →
      (∀ k < s.jobs.length, ∀ b, s.dueRelease k = some b → k = j ∨ a < b ∨ (a = b ∧ j < k)) →
      s.releaseDue (n + 1) = (s.releaseJob j).releaseDue n)) ∧
  (∀ s : State, exec .ptpHoldover s = .next { s with lodge.ptpLocked := false, lodge.ptpHoldover := true }) ∧
  (∀ s : State, exec .ptpLock s = .next { s with lodge.ptpLocked := true, lodge.ptpHoldover := false })

/-! ## Events: pre-emption, migration, swap -/

/-- 21 R468 to R470: the signal of an agent arrives at a running team; a drained team goes to the inactive bank, to shadow storage or
to the streamer; a transfer and a spill end its residence, and it issues again when it has resumed. -/
def Claims.PreemptionMoves : Prop :=
  (∀ s : State, let t := s.ev.team
    (s.team t).status = .running → (s.team t).sent ≠ .none → (s.team t).signal = .none →
    exec .signalArrival s = .next ((s.modTeam t fun x => { x with signal := x.sent }).checkPark t)) ∧
  (∀ s : State, let t := s.ev.team
    (s.team t).status = .parked → (s.team t).drained = true →
    (isMCluster (clusterOf (s.team t).core) = false ∨ s.hasOps t = false) →
    let v := ((s.stashOps t s.ev.n).endPull t).serveTeam t
    let u := { v with cores := v.cores.map (pauseChans t) }
    let set (x : TeamStatus) : State := u.modTeam t fun y => { y with status := x }
    ((u.team t).signal = .swap → exec .drainComplete s = .next (set .toShadow)) ∧
    ((u.team t).signal = .migrate → u.canTake t (u.team t).target = true →
      exec .drainComplete s = .next ((u.startMigrate t (u.team t).target).leftCluster t)) ∧
    ((u.team t).signal ≠ .swap → ((u.team t).signal = .migrate → u.canTake t (u.team t).target = false) →
      exec .drainComplete s = .next (set (if u.banks t then .toBank else .toShadow)))) ∧
  (∀ s : State, let t := s.ev.team
    (s.team t).status = .toBank →
    exec .bankTransferComplete s = .next ((s.modTeam t fun x => { x with
      status := .suspended, bank := 1 - (s.core (s.team t).core).active, sent := .none, signal := .none,
      share := clusterOf x.core }).slotsFree t (s.team t).signal)) ∧
  (∀ s : State, let t := s.ev.team
    (s.team t).status = .toShadow →
    exec .spillComplete s = .next (((s.flushPriv t).modTeam t fun x => { x with
      status := .spilled, sent := .none, signal := .none, share := clusterOf x.core }).slotsFree t (s.team t).signal)) ∧
  (∀ s : State, (s.team s.ev.team).status = .resuming → exec .teamResume s = .next (s.resumeTeam s.ev.team))

/-- 02 R56, 21 R468: a signalled team is PARKED exactly when every one of its contexts has stopped: the C stream at a checkpoint, at
its end or on a page fault, every other context retired, parked, aborted or stopped (the two of a group parked on a fault, 13 R332);
its cluster's agent then takes a decision. -/
def Claims.ParkingCondition : Prop :=
  ∀ (s : State) (t : Nat), let tm := s.team t
    let stopped (c : CtxState) : Prop := c.parked = true ∨ c.stopped = true ∨ ∀ r, c.run = some r →
      r.st = .retired ∨ r.st = .aborted ∨ r.st = .parked
    let all := tm.status = .running ∧ tm.signal ≠ .none ∧
      (tm.ctrl.atCheckpoint = true ∨ tm.ctrl.ended = true ∨ tm.ctrl.parked = true) ∧
      (∀ g ∈ tm.groups, g.actx.parked = true ∨ g.xctx.parked = true ∨ (stopped g.actx ∧ stopped g.xctx)) ∧ stopped tm.mctx
    (all → s.checkPark t = (s.modTeam t fun x => { x with status := .parked }).agentDecide (clusterOf tm.core)) ∧
    (¬all → s.checkPark t = s)

/-- Signals, parking, drains, bank transfers, spills and resumption of teams. -/
def Obligations.PreemptionEvents : Prop :=
  Claims.PreemptionMoves ∧ Claims.ParkingCondition

/-- 03 R80 to R82: the streamer's copy ends with the team on its target, where it resumes; a team that resumes dates its forwarding
entries and names its core in them. An entry ends 8,000 ns later, or lives on, counted once, while an operation issued before the move
is outstanding. -/
def Claims.MigrationEvents : Prop :=
  (∀ s : State, let t := s.ev.team
    let tm := s.team t
    tm.status = .migrating →
    (s.canTake t tm.target = false → exec .streamerCopyComplete s = .next
      (((s.flushPriv t).modTeam t fun x => { x with status := .spilled, sent := .none, signal := .none }).slotsFree t .none)) ∧
    (s.canTake t tm.target = true →
      let u := (s.sampFirst tm.inst (clusterOf tm.target)).moveTeam t tm.target
      exec .streamerCopyComplete s = .next
        (((u.modTeam t fun x => { x with bank := (u.core tm.target).active }).resumeTeam t).agentDecide (clusterOf tm.core)))) ∧
  (∀ (s : State) (t : Nat),
    let fs := s.lodge.forwards.map fun (f : Forward) =>
      if f.team = t ∧ f.resumed = none then { f with resumed := some s.now, dest := (s.team t).core } else f
    s.resumeTeam t = ({ s with lodge.forwards := fs } : State).resumeTeam t) ∧
  (∀ (s : State) (f : Forward) (n : Nat), let t := s.ev.team
    s.lodge.forwards.find? (fun g => g.team == t && (!(s.team t).status.live || g.resumed.any fun r => decide (r + 8000 ≤ s.now))) =
      some f → s.lodge.migFwdExt = BitVec.ofNat 32 n →
    (s.movedPending t = false → exec .forwardingEntryExpiry s = .next { s with lodge.forwards := s.lodge.forwards.erase f }) ∧
    (s.movedPending t = true → f.extended = true → exec .forwardingEntryExpiry s = .next s) ∧
    (s.movedPending t = true → f.extended = false → n < 0xFFFFFFFF → exec .forwardingEntryExpiry s = .next { s with
      lodge.forwards := s.lodge.forwards.map (fun g => if g = f then { f with extended := true } else g),
      lodge.migFwdExt := BitVec.ofNat 32 (n + 1) }))

/-- 02 R502, 13 R333: a core switches its banks after 64 cycles of idling on page faults, once its active bank has drained; the suspended
teams of the other bank resume, and causes that waited for a team with a slot may take effect. -/
def Claims.FaultBankSwitch : Prop :=
  (∀ s : State, let k := s.ev.core
    let other := s.bankTeams k (1 - (s.core k).active)
    (s.core k).switching = false → 64 ≤ (s.core k).idle → (∀ t ∈ s.residents k, (s.team t).status ≠ .resuming) →
    (∃ t ∈ s.bankTeams k (s.core k).active, (s.team t).status = .running ∧ s.faultParked t = true) →
    ((∃ t ∈ other, s.faultParked t = false) ∨ (other = [] ∧ s.agentHasTeam k = true)) →
    exec .faultBankSwitch s = .next (s.modCore k fun c => { c with switching := true })) ∧
  (∀ s : State, let k := s.ev.core
    (s.core k).switching = true → s.bankDrained k = true →
    let u := s.modCore k fun c => { c with active := 1 - c.active, switching := false, idle := 0 }
    let back := (u.bankTeams k (1 - (s.core k).active)).filter fun t => (u.team t).status == .suspended
    exec .bankSwitchComplete s = .next ((back.foldl (fun v t => v.resumeTeam t) u).endAllPending.agentDecide (clusterOf k)))

/-- 21 R477: a write of PART_SWAP with OP 1 signals every team of the partition and enters STATE 1, with OP 2 enters STATE 3; once the
teams are in shadow storage their ready entries are saved and STATE is 2; the restore brings them back and STATE is 0. -/
def Claims.SwapEvents : Prop :=
  (∀ (s u : State) (w : RegWrite), s.regWrite = some (w, u) →
    let p := bitsOf w.bits.toNat 4 4
    let v (st : Nat) : State := ({ u with lodge.swapPid := BitVec.ofNat 4 p } : State).modPart p fun x => { x with swapState := st }
    (u.rowOf w = .swapOut → exec .swapOut s = .next (((v 1).partTeams p).foldl (fun z t => z.modTeam t swapSignal) (v 1))) ∧
    (u.rowOf w = .swapIn → exec .swapIn s = .next (v 3))) ∧
  (∀ s : State, let p := s.ev.part
    let mine (e : ReadyEntry) : Bool := (s.inst e.inst).card.pid == p
    (s.part p).swapState = 1 → (∀ t ∈ s.partTeams p, (s.team t).status = .spilled ∨ (s.team t).status = .waiting) →
    exec .swapOutComplete s = .next (({ s with clusters := s.clusters.map fun c => { c with ready := c.ready.filter fun e => !mine e } }
      : State).modPart p fun x => { x with swapState := 2, savedReady := (List.range s.clusters.length).flatMap fun k =>
        ((s.cluster k).ready.filter mine).map fun e => (k, e) })) ∧
  (∀ s : State, let p := s.ev.part
    (s.part p).swapState = 3 →
    let u := (s.part p).savedReady.foldl (fun v e => v.modCluster e.1 fun c => { c with ready := c.ready ++ [e.2] }) s
    exec .swapInComplete s = .next ((u.modPart p fun x => { x with swapState := 0, savedReady := [] }).decideMask
      (s.part p).clusters.toNat))

/-- Migration by the streamer, bank switch on a fault, partition swap. -/
def Obligations.MigrationAndBankEvents : Prop :=
  Claims.MigrationEvents ∧ Claims.FaultBankSwitch ∧ Claims.SwapEvents

/-! ## Events: copy channels, ingress, memory -/

/-- 14 R341, R344, R345, R352: a running channel reads its next command at home and starts it; a malformed one ends the channel with
0x04C; a failed read parks or ends it. A read that another window holds waits, and fails with 0x148 when the window has been
withdrawn. -/
def Claims.CopyFetchEvent : Prop :=
  ∀ (s : State) (t : Nat), let k := s.ev.core
    let ch := s.ev.ch
    let h := (s.core k).chan ch
    let pid := s.pidOf t
    let rev := (s.team t).rev
    let held := s.heldByOther pid h.fetch 32 k ch
    h.st = .running → h.cmd = none → h.ending = false → h.owner = some t →
    (h.withdrawn = true → exec .copyCommandFetch s = .next (s.chanError k ch t h.fetch { cause := 0x148 })) ∧
    (∀ w, h.withdrawn = false → held = some w →
      exec .copyCommandFetch s = .next (s.modChan k ch fun x => { x with heldOn := some w })) ∧
    (∀ e, h.withdrawn = false → held = none → s.engRead pid rev h.fetch 32 = .inl e →
      exec .copyCommandFetch s = .next (s.chanFail k ch t h.fetch e)) ∧
    (∀ bs, h.withdrawn = false → held = none → s.engRead pid rev h.fetch 32 = .inr bs →
      let c := parseCopy h.fetch bs
      let u := (s.engTouch pid rev h.fetch 32).modChan k ch fun h => { h with
        heldOn := none, cmd := some c, fetch := h.fetch + 32, row := 0, pos := 0, acquired := false, lines := [], ringSlot := none,
        written := false, st := if c.op = 1 then .waiting else .running }
      let bad := c.bad h (s.team t) (s.inst (s.team t).inst).image.scratchBytes
      exec .copyCommandFetch s = .next (if bad then u.chanError k ch t c.addr { cause := 0x04C, vaddr := c.addr } else u))

/-- 14 R339: the unit serves a channel within a row, else the first ready channel after the one served last. -/
def Claims.CopyRotation : Prop :=
  ∀ (s : State) (k ch : Nat), ch < 8 → s.copyReady k ch = true →
    let inRow (c : Nat) : Prop := ((s.core k).chan c).pos ≠ 0
    let place (c : Nat) : Nat := (c + 8 - ((s.core k).lastChan + 1) % 8) % 8
    (inRow ch → (∀ c < 8, s.copyReady k c = true → inRow c → ch ≤ c) → s.copyPick k = some ch) ∧
    ((∀ c < 8, s.copyReady k c = true → ¬inRow c) → (∀ c < 8, s.copyReady k c = true → place ch ≤ place c) → s.copyPick k = some ch)

/-- 11 R283, 14 R339, R343, R346, R347, R349 to R353: a COPY whose channel is served writes its rows through the SWAP, CONV and TRANS
stages segment by segment, after its acquire, once its ring slot is reserved and no other window holds it; a ready channel that is not
served waits. A segment held by a window that is withdrawn fails with 0x148. -/
def Claims.CopyEvent : Prop :=
  ∀ (s : State) (t : Nat) (c : CopyCmd), let k := s.ev.core
    let ch := s.ev.ch
    let h := (s.core k).chan ch
    h.cmd = some c → h.owner = some t → h.st = .running → c.op = 0 → h.written = false → h.ending = false →
    (s.copyReady k ch = true → s.copyPick k ≠ some ch → exec .copy s = .next s) ∧
    (s.copyReserve k ch t h c = none → exec .copy s = .next s) ∧
    (∀ v, (s.copyReady k ch = true → s.copyPick k = some ch) → s.copyReserve k ch t h c = some v →
      let v := if h.acquired then v else v.copyAcquire k ch c
      let slot := (((v.core k).chan ch).ringSlot).getD 0
      let q := c.segEnd h.pos
      let fails (e : MErr) : Prop := exec .copy s = .next (v.chanFail k ch t c.addr e)
      let moved (u : State) : Prop :=
        exec .copy s = .next (((u.copyTouch t h c).copyAdvance k ch t h c).modCore k fun x => { x with lastChan := ch })
      (h.withdrawn = true → exec .copy s = .next (v.chanError k ch t c.addr { cause := 0x148 })) ∧
      (∀ w, h.withdrawn = false → v.copyHeld k ch t h.row h.pos c = some w →
        exec .copy s = .next (v.modChan k ch fun x => { x with heldOn := some w })) ∧
      (h.withdrawn = false → v.copyHeld k ch t h.row h.pos c = none → c.trans = false →
        let src := v.copySource t c h.row (h.pos / c.outW * c.inW) ((q - h.pos) / c.outW * c.inW)
        (∀ e, src = .inl e → fails e) ∧
        (∀ bs, src = .inr bs → (∀ e, v.copyPut t c slot h.row h.pos (c.stages bs) = .inl e → fails e) ∧
          ∀ u, v.copyPut t c slot h.row h.pos (c.stages bs) = .inr u → moved u)) ∧
      (h.withdrawn = false → v.copyHeld k ch t h.row h.pos c = none → c.trans = true →
        (∀ e, v.copyRows t c c.rows 0 = .inl e → fails e) ∧
        (∀ rows, v.copyRows t c c.rows 0 = .inr rows → (∀ e, v.copyPutRows t c slot rows c.dstRows 0 = .inl e → fails e) ∧
          ∀ u, v.copyPutRows t c slot rows c.dstRows 0 = .inr u → moved u)))

/-- 14 R340, R341, R344, R348, R349, R351, R352, R354: WAIT ends when its counter has reached its value; POST adds to its counter; LINK
names the next command; STOP ends the chain, at NEXT or IDLE; ARM sets a watch window with DONE 0, or disarms it with length 0. An access
that another window holds waits, and fails with 0x148 when the window has been withdrawn; a failed access parks or ends the channel. -/
def Claims.CopyControlEvents : Prop :=
  ∀ (s : State) (t : Nat) (c : CopyCmd), let k := s.ev.core
    let ch := s.ev.ch
    let h := (s.core k).chan ch
    let pid := s.pidOf t
    let rev := (s.team t).rev
    h.cmd = some c → h.owner = some t → (h.st = .running ∨ h.st = .waiting) → h.written = false → h.ending = false →
    let fails (i : Instr) (e : MErr) : Prop := exec i s = .next (s.chanFail k ch t c.addr e)
    let waits (i : Instr) (w : Nat × Nat) : Prop := exec i s = .next (s.modChan k ch fun x => { x with heldOn := some w })
    let free := h.withdrawn = false ∧ s.heldByOther pid c.srcAddr 8 k ch = none
    (∀ i op, (i, op) ∈ [(Instr.wait, 1), (.copyPost, 2), (.stop, 4)] → c.op = op → h.withdrawn = true →
      exec i s = .next (s.chanError k ch t c.addr { cause := 0x148 })) ∧
    (∀ i op w, (i, op) ∈ [(Instr.wait, 1), (.copyPost, 2)] → c.op = op → h.withdrawn = false →
      s.heldByOther pid c.srcAddr 8 k ch = some w → waits i w) ∧
    (c.op = 1 → free →
      (∀ e, s.engRead pid rev c.srcAddr 8 = .inl e → fails .wait e) ∧
      (∀ bs, s.engRead pid rev c.srcAddr 8 = .inr bs →
        let u := (s.engTouch pid rev c.srcAddr 8).modChan k ch fun x => { x with heldOn := none }
        (natOfBytes bs < c.dst → exec .wait s = .next u) ∧
        (c.dst ≤ natOfBytes bs → exec .wait s = .next
          ((if c.flag 4 then u.acquireAt k c.scope else u).modChan k ch fun h => { h with written := true, st := .running })))) ∧
    (c.op = 2 → free →
      (∀ e, s.engTranslate pid c.srcAddr .atomic = .inl e → fails .copyPost e) ∧
      (∀ pa, s.engTranslate pid c.srcAddr .atomic = .inr pa →
        (∀ x, s.engTargetFail rev c.srcAddr pa = some x → fails .copyPost (engFail x c.srcAddr pa .atomic)) ∧
        (s.engTargetFail rev c.srcAddr pa = none →
          let v := if c.flag 5 then s.releaseAt k c.scope else s
          ∀ u, v.counterAdd pid rev c.srcAddr (BitVec.ofNat 64 c.dst) = .inr u →
            exec .copyPost s = .next (u.modChan k ch fun h => { h with written := true, heldOn := none })))) ∧
    (c.op = 3 → exec .link s = .next (s.modChan k ch fun h => { h with fetch := c.srcAddr, written := true })) ∧
    (c.op = 4 → h.withdrawn = false →
      (∀ w, s.statusHeld k ch t c.addr = some w → waits .stop w) ∧
      (∀ e, s.statusHeld k ch t c.addr = none → s.statusErr t c.addr = some e → fails .stop e) ∧
      (s.statusHeld k ch t c.addr = none → s.statusErr t c.addr = none →
        let u := (s.modChan k ch fun x => { x with heldOn := none }).copyStatus t c.addr 0 0
        (h.next = none → exec .stop s = .next (u.modChan k ch fun h => { h with cmd := none, st := .idle, owner := none })) ∧
        (∀ a, h.next = some a → exec .stop s =
          .next ((u.releaseCore k).modChan k ch fun h => { h with cmd := none, fetch := a, next := none })))) ∧
    (c.op = 5 →
      (c.shape = 0 → exec .arm s = .next ((s.disarm k ch).modChan k ch fun h => { h with written := true })) ∧
      (c.shape ≠ 0 → exec .arm s = .next ((s.flushWindow pid c.srcAddr c.shape).modChan k ch fun h => { h with
        wmBase := c.srcAddr, wmLen := c.shape, wmDone := 0, armed := true, wmTeam := t, written := true })))

/-- 03 R82, 14 R342, R347, R349 to R352, R354, 21 R476: a command whose writes are made completes: a COPY is released, fills its ring slot,
arrives at its barrier, at the core its team moved to, and moves its watermark; STATUS is written. A channel of a team that has ended
completes with CODE 5 and is free. While another window holds STATUS the command waits. -/
def Claims.CopyCompletion : Prop :=
  ∀ (s : State) (t : Nat) (c : CopyCmd), let k := s.ev.core
    let ch := s.ev.ch
    let h := (s.core k).chan ch
    let held := s.statusHeld k ch t c.addr
    h.cmd = some c → h.owner = some t →
    (h.ending = true →
      let u := s.copyStatus t c.addr 5 h.row
      (held ≠ none → exec .copyCommandCompletion s = .next s) ∧
      (held = none → exec .copyCommandCompletion s = .next
        ((({ u with pending := u.pending.filter fun p => p.who != FaultBy.chan k ch } : State).disarm k ch).modChan k ch fun _ => {}))) ∧
    (h.ending = false → h.st = .running → h.written = true →
      (h.withdrawn = true → exec .copyCommandCompletion s = .next (s.chanError k ch t c.addr { cause := 0x148 })) ∧
      (∀ w, h.withdrawn = false → held = some w →
        exec .copyCommandCompletion s = .next (s.modChan k ch fun x => { x with heldOn := some w })) ∧
      (∀ e, h.withdrawn = false → held = none → s.statusErr t c.addr = some e →
        exec .copyCommandCompletion s = .next (s.chanFail k ch t c.addr e)) ∧
      (h.withdrawn = false → held = none → s.statusErr t c.addr = none →
        let z := s.modChan k ch fun x => { x with heldOn := none }
        let done (u : State) (code : Nat) : Prop := exec .copyCommandCompletion s =
          .next ((u.copyStatus t c.addr code h.row).modChan k ch fun h => { h with cmd := none })
        (c.op ≠ 0 → done z 0) ∧
        (c.op = 0 →
          let u := z.copyRelease k h c
          let m := bitsOf c.dst 0 3
          let v := match c.ring, h.ringSlot with
            | true, some slot => u.modTeam t fun tm => { tm with
                rings := setAt none tm.rings m ((tm.rings.getD m none).map (Ring.fillDone · slot)) }
            | _, _ => u
          let n := bitsOf c.dst 57 7
          let at_ := v.postCore k n
          let mark (x : State) : State :=
            if c.flag 12 then x.modChan k ch fun h => { h with wmDone := max h.wmDone (c.dstEnd - h.wmBase) } else x
          (bitsOf c.dst 56 1 = 0 → done (mark v) 0) ∧
          (bitsOf c.dst 56 1 = 1 → v.barrier at_ n = none → done (mark v) 1) ∧
          (∀ b, bitsOf c.dst 56 1 = 1 → v.barrier at_ n = some b → done (mark (v.setBarrier at_ n b.arrive)) 0))))

/-- Copy channels: fetch, copy, wait, gather, link, and completion of commands. -/
def Obligations.CopyEvents : Prop :=
  Claims.CopyFetchEvent ∧ Claims.CopyRotation ∧ Claims.CopyEvent ∧ Claims.CopyControlEvents ∧ Claims.CopyCompletion

/-- 14 R356, R357, 15 R360, R362: a frame goes to the lowest-numbered enabled channel whose port and filter match it. One that finds a
buffer free, and its port's buffer not full of held requests, is accepted: payload, header and counter post, with the requests they
make; any other adds to DROPS, up to 65,535; a frame that matches none is discarded. -/
def Obligations.IngressFrameEvent : Prop :=
  ∀ s : State, let f := s.ev.frame
    ((∀ n < 32, (s.ing n).takes f = false) → exec .ingressFrame s = .next s) ∧
    ∀ n < 32, (s.ing n).takes f = true → (∀ m < n, (s.ing m).takes f = false) →
      let g := s.ing n
      let count := bitsOf g.buf.toNat 48 10
      let base := bitsOf g.buf.toNat 7 41 * 128 + g.frames % count * g.len.toNat
      let body := f.payload.take (g.len.toNat - 64)
      let cut := decide (g.len.toNat - 64 < f.payload.length)
      let room := 32 * (s.lodge.ctls.map fun c => (c.held.filter (·.port == some f.port.toNat)).length).sum < 65536 ∧
        (BitVec.ofNat 32 g.frames - g.rel).toNat < count
      let u := ((s.flushPhys (base + 64) (g.len.toNat - 64)).physWrite (base + 64) body).writeRequests (.ingress n) base
        (64 + body.length) s.ev.n s.ev.ok
      let v := (u.physWrite base (ingressHeader g.frames (if f.port.toNat ≤ 11 then u.now else f.ptpStamp.toNat) body.length
        cut f.crcError)).recall 1000 g.cnt.toNat
      let w := (v.memRequest (.ingress n) g.cnt.toNat true false s.ev.n s.ev.ok).physWrite g.cnt.toNat
        (bytesOfNat 8 (natOfBytes (v.homeBytes 0 g.cnt.toNat g.cnt.toNat 8) + 1))
      (room → exec .ingressFrame s = .next (w.modIng n fun g => { g with
        frames := g.frames + 1, winBase := base + 64, winLen := g.len.toNat - 64 })) ∧
      (¬room → exec .ingressFrame s = .next (s.modIng n fun g => { g with drops := satInc16 g.drops }))

/-- 15 R360 to R362, 21 R469: a request reaches its controller. One whose charge would pass its regulator's share of the window is held,
unless its team drains, which is charged in the next window; one behind an older held request of its regulator is held too. Any other
goes to its bank, where it waits while the bank is busy, due for a refresh-management command, or has older requests; it is served with
32 bytes charged and its row activated, unless it takes the row its bank has open. -/
def Claims.ControllerTakes : Prop :=
  ∀ (s : State) (h : HeldReq),
    let c := s.ctl h.chan
    let past := s.regEnabled h.reg = true ∧ ((s.reg h.reg).budget + 23) / 24 < c.charge h.reg + 32
    let drains := ∃ t, h.team = some t ∧ (s.team t).status = .parked
    let older := ∃ q ∈ c.held, q.reg = h.reg
    let keep := s.modCtl h.chan fun c => { c with held := c.held ++ [h] }
    let busy := c.blocked s.now h.bank = true ∨ ∃ q ∈ c.queue, q.bank = h.bank
    let u := if h.later then s.modCtl h.chan fun c => { c with carry := setAt 0 c.carry h.reg (c.carry.getD h.reg 0 + 32) }
      else s.chargeSector h.chan h.reg
    (past → drains → s.atController h = s.toBank { h with later := true }) ∧
    (past → ¬drains → s.atController h = keep.firstHold h.reg) ∧
    (¬past → older → ¬drains → s.atController h = keep) ∧
    (¬past → (older → drains) → s.atController h = s.toBank h) ∧
    (busy → s.toBank h = s.modCtl h.chan fun c => { c with queue := c.queue ++ [h] }) ∧
    (¬busy → h.rowOpen = true → (u.ctl h.chan).open_.getD h.bank none = some h.row → s.toBank h = u) ∧
    (¬busy → (h.rowOpen = true → (u.ctl h.chan).open_.getD h.bank none ≠ some h.row) →
      s.toBank h = u.activate h.chan h.bank h.row) ∧
    (h.chan < s.lodge.ctls.length → ((s.chargeSector h.chan h.reg).ctl h.chan).charge h.reg = c.charge h.reg + 32)

/-- 03 R77, 13 R319, R320: a lookup of the home L2 hits in any way and then needs DRAM only for a sector that is not valid and not
written whole; a miss takes a way that R77 allows, a reserved one of the requester's partition when it has any, else an unreserved one,
and the dirty sectors of the line there go to DRAM. -/
def Claims.CacheLookup : Prop :=
  ∀ (s : State) (part : Option Nat) (pa way : Nat) (write whole : Bool),
    let line := lineOf pa
    let here : BitVec 4 := BitVec.ofNat 4 (2 ^ (pa % 128 / 32))
    let need := if write = true ∧ whole = true then [] else [sectorOf pa]
    let r := s.l2Lookup part pa write whole way
    let own (p : Nat) : W16 := s.reservedWays p (homeDie pa)
    (∀ x, s.lodge.l2.find? (·.line == line) = some x →
      r.1 = (if x.valid &&& here = 0 then need else []) ∧
      r.2 = s.lodge.l2.map fun y => if y.line = line then
        { y with valid := y.valid ||| here, dirty := y.dirty ||| (if write then here else 0) } else y) ∧
    ((∀ x ∈ s.lodge.l2, x.line ≠ line) → (line ∈ s.quar ∨ s.allocWays part (homeDie pa) = []) → r = ([sectorOf pa], s.lodge.l2)) ∧
    ((∀ x ∈ s.lodge.l2, x.line ≠ line) → line ∉ s.quar → s.allocWays part (homeDie pa) ≠ [] →
      ∃ w ∈ s.allocWays part (homeDie pa), (way ∈ s.allocWays part (homeDie pa) → w = way) ∧
        let out (y : L2Line) : Prop := y.die = homeDie pa ∧ y.set = l2Set pa ∧ y.way = w
        { die := homeDie pa, set := l2Set pa, way := w, line := line, valid := here, dirty := if write then here else 0 } ∈ r.2 ∧
        (∀ y ∈ s.lodge.l2, y ∈ r.2 ↔ ¬out y) ∧
        (∀ a, a ∈ r.1 ↔ a ∈ need ∨ ∃ y ∈ s.lodge.l2, out y ∧ ∃ k < 4, y.dirty.getLsbD k = true ∧ a = y.line + 32 * k)) ∧
    (∀ w, w ∈ s.allocWays part (homeDie pa) ↔ w < 16 ∧
      if (part.map own).getD 0 = 0 then ∀ p < 16, (own p).getLsbD w = false else ((part.map own).getD 0).getLsbD w = true)

/-- 13 R335, 15 R360: a request for a sector of this package's memory looks up its home L2, and what DRAM must give or take goes to the
controllers under the requester's regulator: its instance's, its ingress channel's, or 63. -/
def Claims.MemoryRequestEvent : Prop :=
  (∀ s : State, let w := s.ev.who
    let pa := s.ev.pa
    let here := s.physTarget pa = .mem ∧ s.pageHome (pa / 2 ^ 15) = s.pkg.toNat
    let u := s.countBlock pa (s.packageOf w)
    let r := u.l2Lookup (u.partitionOf w) pa s.ev.write s.ev.wide s.ev.n
    (¬here → exec .memoryRequest s = .next s) ∧
    (here → exec .memoryRequest s = .next
      (r.1.foldl (fun z a => z.atController (z.requestOf w a s.ev.ok)) { u with lodge.l2 := r.2 }))) ∧
  (∀ s : State, (∀ t, s.regulatorOf (.team t) = (s.inst (s.team t).inst).card.regulator) ∧
    (∀ n, s.regulatorOf (.ingress n) = (s.ing n).buf.toNat / 2 ^ 58 % 64) ∧
    (∀ d i, s.lodge.recon.getD d none = some i → s.regulatorOf (.recon d) = (s.inst i).card.regulator) ∧
    s.regulatorOf .host = 63 ∧ s.regulatorOf .app = 63 ∧ s.regulatorOf .belvedere = 63)

/-- 15 R361 to R366: a regulator window starts at its end with fresh budgets and the charges carried into it, which PEAK sees, and the
held requests go again in their order; before its end nothing starts. A refresh-management command takes the oldest alert whose bank has
had 16 activations, refreshes its neighbours in the bank, and keeps the bank busy for 160 ns; a refresh window clears its bank's
counters. -/
def Claims.WindowAndRowEvents : Prop :=
  (∀ s : State, s.now < s.lodge.windowEnd → exec .regulatorWindowStart s = .next s) ∧
  (∀ s : State, s.lodge.windowEnd ≤ s.now →
    let l := s.lodge
    let n := if l.regWindow = 0 then l.regWinLen else l.regWindow.toNat
    let u : State := { s with lodge.regWinLen := n, lodge.regWinStart := max l.windowEnd (s.now / n * n) }
    let top (k : Nat) : Nat := (l.ctls.map fun c => c.carry.getD k 0).foldl max 0
    let v : State := { u with
      lodge.regs := (List.range 64).map fun k => ({ (u.reg k) with budget := u.budgetOf k, held := false } : Regulator).seen (top k),
      lodge.ctls := l.ctls.map fun c => { c with charges := c.carry, carry := [], held := [] } }
    exec .regulatorWindowStart s = .next ((l.ctls.flatMap (·.held)).foldl (fun z h => z.atController h) v)) ∧
  (∀ (s : State) (bank row : Nat), let c := s.ctl s.ev.chan
    c.alerts.find? (fun a => decide (16 ≤ c.sinceRfm.getD a.1 16)) = some (bank, row) →
    let u := s.modCtl s.ev.chan fun c => { c with
      alerts := c.alerts.filter (· != (bank, row)), acts := c.acts.filter (fun a => !(a.1 == bank && a.2.1 == row)),
      sinceRfm := setAt 16 c.sinceRfm bank 0, open_ := setAt none c.open_ bank none,
      busy := (bank, s.now + 160) :: c.busy.filter (·.1 != bank), refreshed := some (bank, s.rfmRows row) }
    exec .rfmCommand s = .next { u with lodge.rhStat := u.lodge.rhStat + 1 }) ∧
  (∀ (s : State) (row r : Nat), r ∈ s.rfmRows row ↔
    r < 262144 ∧ r ≠ row ∧ row ≤ r + s.lodge.rhNeigh.toNat ∧ r ≤ row + s.lodge.rhNeigh.toNat) ∧
  (∀ s : State, exec .refreshWindowEnd s =
    .next (s.modCtl s.ev.chan fun c => { c with acts := c.acts.filter (·.1 != s.ev.bank) })) ∧
  (∀ (s : State) (chan bank row : Nat),
    let c := s.ctl chan
    let n := (((c.acts.find? fun a => a.1 == bank && a.2.1 == row).map (·.2.2)).getD 0) + 1
    let d := (s.activate chan bank row).ctl chan
    (bank, row, n) ∈ d.acts ∧ (s.lodge.rhThresh.toNat ≤ n → (bank, row) ∈ d.alerts) ∧ d.open_.getD bank none = some row ∧
      ∀ b r m, (b, r) ≠ (bank, row) → ((b, r, m) ∈ d.acts ↔ (b, r, m) ∈ c.acts))

/-- Requests at the home L2 and at the controllers, windows, row counters and refresh management. -/
def Obligations.ControllerEvents : Prop :=
  Claims.ControllerTakes ∧ Claims.CacheLookup ∧ Claims.MemoryRequestEvent ∧ Claims.WindowAndRowEvents

/-- 13 R334 to R338, 22 R493: a write of MIG_REQ with GO starts a move, or is refused for an absent package, an address outside memory,
migration off or a pinned page; a move that ends names the page's new home, counts, and leaves no line of the page in the L2; a window
start clears the counters. An access to a page being moved waits (R337). -/
def Claims.PageMoveEvents : Prop :=
  (∀ (s u : State) (w : RegWrite), s.regWrite = some (w, u) → u.rowOf w = .pageMove →
    let v := u.w0Write 0x1310 w.bits w.mask
    let pa := bitsOf v.lodge.migReq.toNat 15 33 * 2 ^ 15
    let target := bitsOf v.lodge.migReq.toNat 1 2
    let page := pa / 2 ^ 15
    let pinned := v.lodge.migLimit.toNat ≤ v.pageMoves page
    let r : State := { v with lodge.migReq := v.lodge.migReq ||| 0x20 }
    (¬pinned → v.packageUp target = true → v.physTarget pa = .mem → v.lodge.migWindow ≠ 0 →
      exec .pageMoveRequest s = .next { v with lodge.moves := [(page, target, true)] }) ∧
    (¬pinned → (v.packageUp target = false ∨ v.physTarget pa ≠ .mem ∨ v.lodge.migWindow = 0) → exec .pageMoveRequest s = .next r) ∧
    (pinned → exec .pageMoveRequest s = .next (r.notifyHot (page / 2) target 0))) ∧
  (∀ (s : State) (page target : Nat) (asked : Bool) (rest : List (Nat × Nat × Bool)),
    s.lodge.moves = (page, target, asked) :: rest →
    exec .pageMoveComplete s = .next ((({ s with
      lodge.moves := rest, lodge.l2 := s.lodge.l2.filter (·.line / 2 ^ 15 != page), lodge.migReq := if asked then s.lodge.migReq ||| 0x10 else s.lodge.migReq } : State).setPage_ page target
        (s.pageMoves page + 1)).touchShadow (page / 2))) ∧
  (∀ (s : State) (pid va n : Nat) (e : TlbEntry) (ws : List WalkEntry), s.walk 1000 pid va = .inr (e, ws) →
    (∃ m ∈ s.lodge.moves, m.1 = (e.pa + (va - e.va)) / 2 ^ 15) → s.heldBy pid va n ≠ none) ∧
  (∀ s : State, s.lodge.migWindow ≠ 0 → s.migStart ≠ s.lodge.migWinStart →
    let u : State := { s with
      lodge.migWinStart := s.migStart, lodge.ctls := s.lodge.ctls.map fun c => { c with blocks := [] },
      lodge.moved := s.lodge.moved.map fun m => { m with moves := 0 } }
    exec .migrationWindowStart s = .next (((s.lodge.moved.map (·.page / 2)).eraseDups).foldl (fun z b => z.touchShadow b) u))

/-- 13 R330 to R332, 14 R354, 16 R391, 17 R407, 19 R443: a parked fault is posted once in the ring of its partition, with its tag; an
FLT_ANSWER of that tag takes it from the service: resolved, its work goes on; unresolved, its cause is taken, after the merge it stopped
where there is one, and a unit's command ends. -/
def Claims.FaultServiceEvents : Prop :=
  (∀ (s : State) (p : Pending), let n := s.ev.n
    let a := (s.part p.part).fltSlot
    s.pending[n]? = some p → p.posted = false → s.fltFree a = true →
    let u := (s.flushPhys a 32).physWrite a (s.faultRecord p)
    let v := u.modPart p.part fun x => { x with fltNext := (x.fltNext + 1) % 64 }
    let w : State := { v with
      pending := setAt p v.pending n { p with posted := true, tag := v.fltTag }, fltTag := v.fltTag + 1,
      out := v.out ++ [OutMsg.fault p.part] }
    exec .faultRecordPost s = .next (w.signalVector (w.part p.part).fltVec.toNat)) ∧
  (∀ (s u : State) (w : RegWrite), s.regWrite = some (w, u) →
    let q := (w.w0 - 0x0900) / 8
    let tag : W32 := w.bits.setWidth 32
    let mine (y : Pending) : Bool := y.posted && y.part == q && y.tag == tag
    let v : State := { u with pending := u.pending.filter fun y => !mine y }
    (u.pending.find? mine = none → (u.rowOf w = .fltResolved → exec .fltAnswerResolved s = .next u) ∧
      (u.rowOf w = .fltUnresolved → exec .fltAnswerUnresolved s = .next u)) ∧
    (∀ p, u.pending.find? mine = some p →
      (u.rowOf w = .fltResolved →
        (p.who = .ctx → exec .fltAnswerResolved s = .next (v.unpark p.ctx)) ∧
        (∀ k ch, p.who = .chan k ch → exec .fltAnswerResolved s =
          .next (v.modChan k ch fun h => if h.st == .faulted then { h with st := h.before } else h)) ∧
        (p.who ≠ .ctx → (∀ k ch, p.who ≠ .chan k ch) → exec .fltAnswerResolved s = .next v)) ∧
      (u.rowOf w = .fltUnresolved →
        let e : MErr := { cause := p.raise.cause, vaddr := p.raise.vaddr, kind := p.raise.kind }
        let t := p.ctx.team
        let ends (z : State) : Prop := exec .fltAnswerUnresolved s = .next z
        let x := v.unpark p.ctx
        let r : Raise := { p.raise with serviceable := false, time := x.now }
        let merging := p.ctx.stream = .c ∧ (x.team t).ctrl.waiting = true ∧ p.raise.kind = .write
        (p.who = .ctx → (merging → (x.team t).nextMerge = none) → ends (x.raise t r 1 ((x.team t).ctrl.pc + 4))) ∧
        (∀ h, p.who = .ctx → merging → (x.team t).nextMerge = some h →
          let y := (x.applyMerge t h).1
          ends (y.raise t r 1 ((x.team t).ctrl.pc + 4))) ∧
        (∀ k ch, p.who = .chan k ch →
          ends (v.chanError k ch t (((((v.core k).chan ch).cmd.map (·.addr))).getD ((v.core k).chan ch).fetch) e)) ∧
        (∀ k c, p.who = .raster k → (v.cluster k).rasters.head? = some c → c.team = t → ends (v.rasterEnd k c 3 (some e))) ∧
        (∀ k g id slot n, p.who = .smp k g id slot → (v.group k g).smps.findIdx? (fun c => c.q == id && c.slot == slot) = some n →
          ends ((v.modGroup k g (·.dropSmp n)).groupCause k g e)) ∧
        (∀ k g id c, p.who = .trace k g id → (v.group k g).traces.find? (·.id == id) = some c →
          ends ((v.modGroup k g (·.setTrace { c with failed := true })).groupCause k g e)) ∧
        (∀ id c, p.who = .builder id → v.lodge.builds.find? (·.id == id) = some c →
          ends (v.endBuild c { code := 3, cause := some p.raise.cause })))))

/-- 13 R326, R328, R329: a walk caches the translation it reads; a TLB_INV write starts an invalidation when none is in progress, and
its completion leaves no entry that it matches. -/
def Claims.TranslationEvents : Prop :=
  (∀ s : State, let t := s.ev.team
    let va := s.ev.va
    let k := (s.team t).core
    (s.team t).status.live = true → va < 2 ^ 51 → s.cachedTlb k none (s.pidOf t) va = none →
    (∀ e, s.walk (clusterOf k) (s.pidOf t) va = .inl e → exec .pageWalk s = .next s) ∧
    (∀ e ws, s.walk (clusterOf k) (s.pidOf t) va = .inr (e, ws) → exec .pageWalk s = .next (s.installTlb k e ws))) ∧
  (∀ (s u : State) (w : RegWrite), s.lodge.tlbInv = [] → s.regWrite = some (w, u) →
    ∀ x ∈ [(Instr.tlbInvPage, RegRow.tlbPage), (.tlbInvPartition, .tlbPart), (.tlbInvTablePage, .tlbTable)], u.rowOf w = x.2 →
      exec x.1 s = .next { u with lodge.tlbInv := [w.bits] }) ∧
  (∀ (s : State) (d : W64) (ds : List W64), s.lodge.tlbInv = d :: ds →
    let op := d.toNat / 2 ^ 61
    let pid := d.toNat / 2 ^ 52 % 16
    let va := d.toNat / 2 ^ 15 % 2 ^ 36 * 2 ^ 15
    let table := d.toNat / 2 ^ 15 % 2 ^ 33 * 2 ^ 15
    ∃ t, exec .tlbInvComplete s = .next t ∧ t = { s with tlb := t.tlb, walks := t.walks, lodge.tlbInv := ds } ∧
      (op = 0 → ∀ e, e ∈ t.tlb ↔ e ∈ s.tlb ∧ ¬(e.covers pid va = true)) ∧
      (op = 1 → ∀ e, e ∈ t.tlb ↔ e ∈ s.tlb ∧ e.pid ≠ pid) ∧
      (op = 2 → ∀ e, e ∈ t.tlb ↔ e ∈ s.tlb ∧ table ∉ e.tables) ∧
      (op = 1 → ∀ e, e ∈ t.walks ↔ e ∈ s.walks ∧ e.pid ≠ pid) ∧
      (op = 2 → ∀ e, e ∈ t.walks ↔ e ∈ s.walks ∧ e.table ≠ table))

/-- Page moves, the fault service, and cached translations. -/
def Obligations.PageAndFaultEvents : Prop :=
  Claims.PageMoveEvents ∧ Claims.FaultServiceEvents ∧ Claims.TranslationEvents

/-! ## Events: records and landing data -/

/-- 02 R54, 05 R114, 07 R159, 21 R473: a record leaves ISSUED: one whose iteration may outlast PREEMPT_LIMIT raises 0x204, one of no
trips is retired, any other has its bodies copied and enters its prologue, or its kernel when it has none. -/
def Claims.RecordFetchEvent : Prop :=
  ∀ (s : State) (r : RecRun), let c := s.ev.ctx
    s.leavesIssued c = true → (s.ctxState c).run = some r →
    let event := (s.team c.team).fallback = false ∧ (s.team c.team).handler = none ∧ (s.inst (s.team c.team).inst).card.nibble 0x204 = 4
    let u := s.raise c.team (s.ctxRaise c (s.recordPc c r) { cause := 0x204 }) 0 0
    (s.iterOk r = false → (event → exec .recordBodyFetch s = .next (u.retireRun c)) ∧ (¬event → exec .recordBodyFetch s = .next u)) ∧
    (s.iterOk r = true → r.total = 0 → exec .recordBodyFetch s = .next (s.retireRun c)) ∧
    (s.iterOk r = true → r.total ≠ 0 →
      (∀ e va, s.copyBodies c r = .inl (e, va) → exec .recordBodyFetch s = .next (s.raise c.team (s.ctxRaise c va e) 0 0)) ∧
      (∀ v, s.copyBodies c r = .inr v →
        let kernel : Prop := r.replayed = true ∨ r.lr.proLen = 0
        (kernel → exec .recordBodyFetch s = .next (v.modRun c fun x => { x with
          st := .kernel, pos := 0, count := 0, sig := 0, spanStart := if r.replayed then x.spanStart else v.cycle,
          late := x.late && r.replayed, gen0 := v.genOf c })) ∧
        (¬kernel → exec .recordBodyFetch s = .next (v.modRun c fun x => { x with
          st := .prologue, pos := 0, count := 0, sig := 0, spanStart := v.cycle, late := false }))))

/-- 01 R39, R42, 07 R158: an iteration that passes its bound while its next word waits raises 0x203 there, once; the word is the oldest of
its resume list when it has one. The C stream's bound counts from its last checkpoint. -/
def Claims.BoundExpiryEvent : Prop :=
  (∀ (s : State) (t : Nat), s.ev.ctx = .c t → s.teamIssues t = true →
    let k := (s.team t).ctrl
    let u := s.modCtrl t fun k => { k with late := true }
    k.ended = false → k.late = false → k.parked = false → k.bound < s.cycle - k.spanStart →
    exec .iterBoundExpiry s = .next (u.raise t
      { cause := 0x203, ctx := some (.c t), pc := k.pc, regionPc := u.regionPc (.c t), time := s.now } 1 (u.nextC t k.pc))) ∧
  (∀ (s : State) (r : RecRun), let c := s.ev.ctx
    let x := s.ctxState c
    c.stream ≠ .c → s.teamIssues c.team = true → x.run = some r → r.st.issues = true → x.waiting = true → x.parked = false →
    x.stopped = false → r.late = false → r.lr.bound < s.cycle - r.spanStart →
    let at_ (pc : Nat) : Prop := exec .iterBoundExpiry s = .next
      ((s.modRun c fun y => { y with late := true }).raise c.team (s.ctxRaise c pc { cause := 0x203 }) (s.nextWord c r).2 0)
    (∀ o os, x.resume = o :: os → at_ o.info.pc) ∧
    (x.resume = [] → at_ ((s.inst (s.team c.team).inst).image.codeAddr (streamCode c.stream) (r.bodyOff + r.pos)
      (if c.stream = .m then 8 else 4))))

/-- 03 R84, R85: an idle core of an M-cluster pulls the record of a team of its cluster, with copies of the tiles the record names. -/
def Claims.BodyPullEvent : Prop :=
  ∀ (s : State) (r : RecRun), s.canPull s.ev.core s.ev.team = true → (s.team s.ev.team).mctx.run = some r →
    exec .bodyPull s = .next (s.modCore s.ev.core fun c => { c with
      pulled := some s.ev.team, copies := (recTiles r).map fun n => (n, (s.team s.ev.team).tileOf n) })

/-- 11 R273, R276, R285, 20 R450, R453: an outstanding word lands once earlier words it depends on have: its lanes fill the slot it
reserved, or its ring slot; a failure raises its cause at the word with it and the later ones undone. An access that a watch window
holds stays outstanding (14 R352), and fails with 0x148 when the window was withdrawn. -/
def Claims.LoadLandEvent : Prop :=
  ∀ (s : State) (o : Outst), let t := s.ev.team
    let g := s.ev.group
    let n := s.ev.n
    s.teamLands t = true → (s.group t g).outst[n]? = some o → s.mayPerform t o ((s.group t g).outst.take n) = true → s.accReady t o = true →
    (o.kind = .ringPut → ∀ e ∈ (s.group t g).outst.take n, footMeet ((s.team t).footBytes e) ((s.team t).footBytes o) = false) →
    (o.kind = .ringPut → o.osBit 25 = true → s.putsBefore t o = false) →
    let fails (c : Cause) (ls : List LaneAcc) (sector : Nat) : Prop := exec .loadDataLand s = .next (s.failOut t g n o c ls sector)
    let fills (data : Lanes) : Prop := exec .loadDataLand s = .next ((s.dropOut t g n).fillSlot t g o data)
    (o.withdrawn = true → fails 0x148 o.lanes 0) ∧
    (o.withdrawn = false →
      (o.kind = .scratch → (o.bad = 0 → fills o.data) ∧
        (o.bad ≠ 0 → fails 0x143 (o.lanes.filter fun l => o.bad.getLsbD l.lane) 0)) ∧
      (o.kind = .fullEmpty → o.unserved = [] → (s.badLanes t o.lanes = [] → fills o.data) ∧
        (s.badLanes t o.lanes ≠ [] → fails 0x143 (s.badLanes t o.lanes) 0)) ∧
      (o.kind ≠ .scratch → o.kind ≠ .fullEmpty →
        (∀ e, s.perform t o = .err e → fails e.cause (s.failLanes t o e.cause) e.sector) ∧
        (∀ w, s.perform t o = .wait w → exec .loadDataLand s =
          .next (s.modGroup t g fun x => { x with outst := setAt o x.outst n { o with heldOn := some w } })) ∧
        (∀ vs u, s.perform t o = .ok vs u → exec .loadDataLand s = .next
          (let u := u.dropOut t g n
           if o.kind = .ringPut then u.fillRing t g o (laneData vs) else u.fillSlot t g o (laneData vs)))))

/-- Records leave ISSUED, overrun, are pulled; outstanding words land. -/
def Obligations.RecordEvents : Prop :=
  Claims.RecordFetchEvent ∧ Claims.BoundExpiryEvent ∧ Claims.BodyPullEvent ∧ Claims.LoadLandEvent

/-! ## Events: vision units and builders -/

/-- 13 R330, 14 R352, 16 R391, 17 R407: a turn of a unit: one whose held request's window was withdrawn fails with 0x148; a failed access
waits on the window that holds it, a translation fault goes to the fault service when it is enabled, and any other ends the work. -/
def Claims.UnitTurns : Prop :=
  ∀ (s : State) (who : FaultBy) (fail : State → MErr → State) (go : State → State) (c : Ctx) (pid stream group : Nat) (e : MErr),
    (s.holdLost (.unit who) = true → s.unitTurn who fail go = fail (s.unhold (.unit who)) { cause := 0x148 }) ∧
    (s.holdLost (.unit who) = false → s.unitTurn who fail go = go (s.unhold (.unit who))) ∧
    (∀ w, e.hold = some w → s.unitFail who c pid stream group e fail = s.hold (.unit who) w) ∧
    (e.hold = none → e.serviceable = true → (s.part pid).fltEnable = true → s.unitFail who c pid stream group e fail = { s with
      pending := s.pending ++ [{ part := pid, who := who, ctx := c, raise :=
        { cause := e.cause, stream := stream, group := group, vaddr := e.vaddr, serviceable := true, kind := e.kind } }] }) ∧
    (e.hold = none → (e.serviceable = false ∨ (s.part pid).fltEnable = false) → s.unitFail who c pid stream group e fail = fail s e)

/-- 16 R369, R373 to R377, R381, R383, R391: the raster at the head of a cluster reads its command, binds its queues, reads its primitives
and deals its tiles to the named groups; a group's batches retire, its tile completes, the next one starts or a batch is delivered; a
finished command reports. The raster finishes the commands of a retired team (19 R443). -/
def Claims.RasterTurns : Prop :=
  (∀ (s : State) (r : Raster), let k := s.ev.cluster
    (s.cluster k).rasters.head? = some r → s.rasterRuns k r = true → s.holdLost (.unit (.raster k)) = true →
    ∀ i ∈ [Instr.rasterCommandStart, .rasterBatchDelivery, .rasterCommandComplete],
      exec i s = .next ((s.unhold (.unit (.raster k))).rasterEnd k r 4 (some { cause := 0x148 }))) ∧
  ∀ (s : State) (r : Raster), let k := s.ev.cluster
    let tm := s.team r.team
    let pid := s.pidOf r.team
    let v := s.unhold (.unit (.raster k))
    (s.cluster k).rasters.head? = some r → s.rasterRuns k r = true → s.holdLost (.unit (.raster k)) = false →
    (r.started = false → r.bound = true → exec .rasterCommandStart s = .next (v.rasterPrims k r)) ∧
    (r.started = false → r.bound = false →
      (∀ e, v.unitRead pid tm.rev r.addr 64 = .inl e → exec .rasterCommandStart s = .next (v.rasterFault k r e)) ∧
      (∀ bs, v.unitRead pid tm.rev r.addr 64 = .inr bs →
        let w := v.engTouch pid tm.rev r.addr 64
        let f (off n : Nat) : Nat := natOfBytes ((bs.drop off).take n)
        let q : Raster := { r with
          ctl := f 0x0C 4, pass := f 0x12 1, rect := f 0x14 4, depthBase := f 0x18 8, idBase := f 0x20 8, pitch := f 0x28 4,
          report := f 0x38 8, primBase := f 0 8, primCount := f 8 4, mask := f 0x10 2, bound := true }
        let named := maskGroups (f 0x10 2)
        let bad := rastOk bs tm.groups.length = false ∨ ∃ g ∈ named, (Team.queue (tm.group g) q.queue).rasterOk = false
        (bad → exec .rasterCommandStart s = .next (w.rasterEnd k q 2 (some { cause := 0x249, vaddr := r.addr }))) ∧
        (¬bad → exec .rasterCommandStart s = .next
          (((w.modTeam r.team fun tm => named.foldl (fun tm g =>
            tm.modGroup g (·.modQueue q.queue (·.bindRaster (f 0x30 8) (f 0x2C 4)))) tm).modRaster k fun _ => q).rasterPrims k q)))) ∧
    (∀ p, r.started = true → r.part s.ev.group = some p →
      let x := p.settle r (Team.queue (tm.group s.ev.group) r.queue) (tm.status == .retired)
      let y := r.setPart x
      let u := v.modRaster k fun _ => y
      exec .rasterBatchDelivery s = .next
        (if x.cur = none then u.startTile k y x
         else if x.frags = [] ∧ x.batches = [] then u.finishTile k y x else u.deliverBatch k y x)) ∧
    (r.started = true → r.groups.all RastGroup.finished = true →
      (∀ e, v.rasterReportErr r = some e → exec .rasterCommandComplete s = .next (v.rasterFault k r e)) ∧
      (v.rasterReportErr r = none → exec .rasterCommandComplete s =
        .next (v.rasterEnd k r (if r.code ≠ 0 then r.code else if r.overs = [] then 0 else 1) none)))

/-- 16 R374 to R377, R383, R391: the primitives of a bound command are read and its tiles dealt; a command that ends reports, unless it
was malformed or never read, leaves the raster, raises its cause in the submitting team, and 0x240 when a tile overflowed without
SPILL_OK. -/
def Claims.RasterEnds : Prop :=
  ∀ (s : State) (k : Nat) (r : Raster), let pid := s.pidOf r.team
    let rev := (s.team r.team).rev
    (∀ e, s.readRastPrims pid rev r.primBase r.primCount 0 = .inl e → s.rasterPrims k r = s.rasterFault k r e) ∧
    (∀ ps, s.readRastPrims pid rev r.primBase r.primCount 0 = .inr ps → s.rasterPrims k r =
      (s.engTouch pid rev r.primBase (48 * r.primCount)).modRaster k fun _ => r.tiled ps r.mask) ∧
    ∀ (code : Nat) (e : Option MErr),
      let u := if code = 2 ∨ r.bound = false then s else s.rasterReport r code
      let v := u.modCluster k fun c => { c with rasters := c.rasters.drop 1 }
      let w := match e with
        | some x => v.engineCause r.team x
        | none => v
      (r.overs = [] ∨ r.flag 10 = true → s.rasterEnd k r code e = w) ∧
      (r.overs ≠ [] → r.flag 10 = false → s.rasterEnd k r code e = w.engineCause r.team { cause := 0x240, vaddr := r.addr })

/-- Turns of the vision units, and the raster. -/
def Obligations.RasterEvents : Prop :=
  Claims.UnitTurns ∧ Claims.RasterTurns ∧ Claims.RasterEnds

/-- 16 R384 to R391, 17 R406: a sampler request fills its slot with the filtered texels of its lanes; a trace walks its generation,
delivers a candidate of every lane each round, and after its last round the results, with its records written first. A request that
fails never fills its slot. The unit finishes the words of a retired team, which has no queue to take a delivery. -/
def Obligations.SamplerAndTraversalEvents : Prop :=
  (∀ (s : State) (r : SmpReq), let t := s.ev.team
    let g := s.ev.group
    let tm := s.team t
    let who : FaultBy := .smp t g r.q r.slot
    let fail (z : State) (e : MErr) : State := (z.modGroup t g (·.dropSmp s.ev.n)).groupCause t g e
    let v := s.unhold (.unit who)
    (s.group t g).smps[s.ev.n]? = some r → tm.status = .running → s.smpFaulted t g = false →
    (s.holdLost (.unit who) = true → exec .samplerDelivery s = .next (fail v { cause := 0x148 })) ∧
    (s.holdLost (.unit who) = false →
      (∀ data u, v.sampleLanes (clusterOf tm.core) (s.pidOf t) tm.rev r (maskLanes r.mask) [] = .inr (data, u) →
        exec .samplerDelivery s = .next (u.modGroup t g fun x => (x.dropSmp s.ev.n).fillSmp r data (u.idempotent (.a t g)))) ∧
      (∀ e, v.sampleLanes (clusterOf tm.core) (s.pidOf t) tm.rev r (maskLanes r.mask) [] = .inl e →
        exec .samplerDelivery s = .next (v.unitFail who (.a t g) (s.pidOf t) 5 0xFD e fail)))) ∧
  (∀ (s : State) (r : TraceReq), let t := s.ev.team
    let g := s.ev.group
    let v := s.unhold (.unit (.trace t g r.id))
    s.traceReq t g s.ev.q = some r →
    (s.holdLost (.unit (.trace t g r.id)) = true →
      exec .traversalRound s = .next (v.traceLost t g r { cause := 0x148 }) ∧
      exec .traversalResult s = .next (v.traceLost t g r { cause := 0x148 })) ∧
    (s.holdLost (.unit (.trace t g r.id)) = false →
      (∀ e, v.traceWalk t r = .inl e →
        (r.round < r.rounds → exec .traversalRound s = .next (v.traceFail t g r e)) ∧
        (r.rounds ≤ r.round → exec .traversalResult s = .next (v.traceFail t g r e))) ∧
      (∀ w z, v.traceWalk t r = .inr (w, z) →
        (r.round < r.rounds →
          let d : TraceReq := { w with round := w.round + 1, lanes := w.lanes.map (·.next w.sweep) }
          exec .traversalRound s = .next ((z.modGroup t g (·.setTrace d)).traceSlots t g s.ev.q d.roundSlot)) ∧
        (r.rounds ≤ r.round →
          (∀ e, z.writeRecords (z.pidOf t) (z.team t).rev w.sweep w.lanes = .inl e →
            exec .traversalResult s = .next (z.traceFail t g w e)) ∧
          ∀ u, z.writeRecords (z.pidOf t) (z.team t).rev w.sweep w.lanes = .inr u →
            let find (l : Nat) : Option TraceLane := w.lanes.find? (·.lane == l)
            let slot := traceSlot w.id (mkMask fun l => (find l).isSome) (mkLanes fun l => match find l with
              | some x => x.result w.sweep
              | none => 0)
            let y := (u.traceSlots t g w.q slot).modGroup t g fun x => { x with traces := x.traces.filter (·.id != w.id) }
            (w.lanes.find? (·.deep) = none → exec .traversalResult s = .next y) ∧
            ∀ x, w.lanes.find? (·.deep) = some x →
              exec .traversalResult s = .next (y.groupCause t g { cause := 0x242, vaddr := x.addr }))))) ∧
  (∀ (s : State) (t g q : Nat) (x : QSlot),
    ((s.team t).status = .running → s.traceSlots t g q x = s.modGroup t g (·.modQueue q (·.deliver [x]))) ∧
    ((s.team t).status ≠ .running → s.traceSlots t g q x = s))

/-- 17 R393, R396, R398, R403, R405 to R409: a free builder takes the oldest command of its team on a descriptor no other works on, and
registers the descriptor; a command whose report can be written is performed and ends with its report and its value or cause; dropped
pins whose traces are done go. -/
def Obligations.BuilderEvents : Prop :=
  (∀ (s : State) (c : BuildCmd),
    s.lodge.builds.find? (·.id == s.ev.cmd) = some c → c.started = false → s.buildParked s.ev.cmd = false →
    earlierOf s.lodge.builds c = false → s.buildersBusy (dieOf (clusterOf c.core)) < 2 →
    let who : Holder := .unit (.builder c.id)
    let v := s.unhold who
    (s.holdLost who = true → exec .builderCommandStart s = .next (v.endBuild c { code := 4, cause := some 0x148 })) ∧
    (s.holdLost who = false →
      (∀ e, v.unitRead c.pid 0 c.addr 64 = .inl e → exec .builderCommandStart s = .next (v.buildFault c e)) ∧
      (∀ bs, v.unitRead c.pid 0 c.addr 64 = .inr bs →
        let w := v.engTouch c.pid 0 c.addr 64
        let f (off n : Nat) : Nat := natOfBytes ((bs.drop off).take n)
        let d : BuildCmd := { c with
          desc := f 0 8, ctl := f 8 4, handle := BitVec.ofNat 64 (f 16 8), report := f 24 8, started := true }
        let inUse := ∃ b ∈ s.lodge.builds, b.started = true ∧ b.finished = false ∧ b.pid = c.pid ∧ b.desc = f 0 8
        let u := w.modBuild s.ev.cmd fun _ => d
        (inUse → exec .builderCommandStart s = .next w) ∧
        (∀ e, ¬inUse → w.reportErr d = some e → exec .builderCommandStart s = .next (w.buildFault d e)) ∧
        (¬inUse → w.reportErr d = none →
          (buildCmdOk c.fn bs = false → exec .builderCommandStart s = .next (u.endBuild d { code := 2, cause := some 0x289 })) ∧
          (buildCmdOk c.fn bs = true → exec .builderCommandStart s = .next (u.registerDesc d)))))) ∧
  (∀ (s : State) (c : BuildCmd),
    s.lodge.builds.find? (·.id == s.ev.cmd) = some c → c.started = true → c.finished = false → s.buildParked s.ev.cmd = false →
    let who : Holder := .unit (.builder c.id)
    let v := s.unhold who
    let done (u : State) : Prop := exec .builderCommandComplete s = .next u
    (s.holdLost who = true → done (v.endBuild c { code := 4, cause := some 0x148 })) ∧
    (∀ e, s.holdLost who = false → v.reportErr c = some e → done (v.buildFault c e)) ∧
    (s.holdLost who = false → v.reportErr c = none →
      (c.fn = 4 → done (v.doQuality c)) ∧
      (c.fn < 4 → v.findGen c.pid c.desc = none → done (v.endBuild c { code := 6, cause := some 0x28A })) ∧
      (∀ n e, v.findGen c.pid c.desc = some (n, e) → (c.fn = 0 → done (v.doBuild c n e)) ∧ (c.fn = 1 → done (v.doRefit c n e)) ∧
        (c.fn = 2 → done (v.doRebalance c n e)) ∧ (c.fn = 3 → done (v.doPublish c n e))))) ∧
  (∀ (s : State) (e : GenEntry), s.gen s.ev.n = some e →
    let pins := e.pins.filter fun p => !p.dropping || (s.team p.team).tracing (mkHandle e.desc p.num)
    exec .pinDrop s = .next (s.setGenEntry s.ev.n ({ e with pins := pins } : GenEntry).settle))

/-- 19 R440 to R445: a child's merge is applied at its parent's join in fork order, once every raster command the child submitted has
completed: the revision is dropped, its lines returned, and the child counts as merged; a line, or report area, that cannot be
translated parks the team for the fault service, or its cause is raised after the merge. -/
def Claims.MergeEvent : Prop :=
  (∀ (s : State) (c : Child), let t := s.ev.team
    s.joinWaits t = true → (s.team t).nextMerge = some c → c.retired = true →
    ((∃ k ∈ s.clusters, ∃ r ∈ k.rasters, r.team = c.team) → exec .merge s = .next s) ∧
    ((∀ k ∈ s.clusters, ∀ r ∈ k.rasters, r.team ≠ c.team) →
    (∀ rv, s.findRev (s.team c.team).rev = some rv →
      (∀ e, (s.part rv.pid).fltEnable = true → s.mergeFault t rv = some e →
        exec .merge s = .next (s.parkFault t (.c t) (s.joinRaise t e))) ∧
      (((s.part rv.pid).fltEnable = false ∨ s.mergeFault t rv = none) →
        let u := (s.applyMerge t c).1
        ((s.applyMerge t c).2 = none → exec .merge s = .next u) ∧
        (∀ e, (s.applyMerge t c).2 = some e → exec .merge s =
          .next (u.raise t { u.joinRaise t e with serviceable := false } 1 ((u.team t).ctrl.pc + 4))))))) ∧
  (∀ (type : Nat) (a p x : W32), (x = a → mergeWord type a p x = p) ∧ (x ≠ a →
      (type = 0 → mergeWord type a p x = p) ∧ (type = 1 → mergeWord type a p x = x) ∧ (type = 2 → mergeWord type a p x = p + x - a) ∧
      (type = 4 → (mergeWord type a p x).toInt = max p.toInt x.toInt) ∧ (type = 5 → (mergeWord type a p x).toNat = max p.toNat x.toNat) ∧
      (type = 7 → (mergeWord type a p x).toInt = min p.toInt x.toInt) ∧ (type = 8 → (mergeWord type a p x).toNat = min p.toNat x.toNat) ∧
      (type = 10 → ∀ b < 32, (mergeWord type a p x).getLsbD b = if x.getLsbD b = a.getLsbD b then p.getLsbD b else x.getLsbD b) ∧
      (type = 11 → mergeWord type a p x = if p = a then x else p)))

/-- 04 R103 to R109, 20 R464 to R466, 22 R485: a free reconstruction unit takes the highest-ranked RETIRING coverage instance and
performs its passes; two redundant copies that agree are accepted, two that differ start the tie-break, which names the outvoted
cluster; three that differ raise 0x183. -/
def Claims.ReconstructionAndCompare : Prop :=
  (∀ (s : State) (i : Nat) (rest : List Nat), s.lodge.recon.getD s.ev.n none = none → s.reconWaiting s.ev.n = i :: rest →
    exec .reconstructionStart s = .next { s with lodge.recon := setAt none s.lodge.recon s.ev.n (some i) }) ∧
  (∀ (s : State) (i : Nat), s.lodge.recon.getD s.ev.n none = some i → (s.inst i).st = .retiring →
    let u : State := { s with lodge.recon := setAt none s.lodge.recon s.ev.n none }
    (∀ c v, u.reconstruct i = .inl (c, v) → exec .reconstructionComplete s = .next (v.reconFail i c)) ∧
    (∀ v, u.reconstruct i = .inr v →
      exec .reconstructionComplete s = .next ((v.modInst i fun y => { y with reconDone := true }).finishInstance i))) ∧
  (∀ s : State, let i := s.ev.inst
    let x := s.inst i
    let rev (n : Nat) : Nat := x.revs.getD n 0
    x.redundant = true → x.st = .retiring → x.compared = false → s.instTeams i = [] → x.unplaced = false →
    (x.card.flag 3 = false ∨ x.reconDone = true) →
    (x.tie = false → s.agree (rev 0) (rev 1) = true → exec .redundantCompare s = .next (s.acceptCopy i (rev 0))) ∧
    (x.tie = false → s.agree (rev 0) (rev 1) = false → exec .redundantCompare s = .next (s.tieBreak i)) ∧
    (x.tie = true → s.agree (rev 2) (rev 0) = true →
      exec .redundantCompare s = .next ((s.outvote i (x.copyCluster 1)).acceptCopy i (rev 0))) ∧
    (x.tie = true → s.agree (rev 2) (rev 0) = false → s.agree (rev 2) (rev 1) = true →
      exec .redundantCompare s = .next ((s.outvote i (x.copyCluster 0)).acceptCopy i (rev 1))) ∧
    (x.tie = true → s.agree (rev 2) (rev 0) = false → s.agree (rev 2) (rev 1) = false →
      let u : State := { s with belv := s.belv ++ [BelvMsg.voted (maskClusters x.card.clusterMask)] }
      exec .redundantCompare s = .next (u.endAtOnce i (x.card.nibble 0x183) (instRaise 0x183 s.now))))

/-- Merges of children, reconstruction of surfaces, comparison of redundant copies. -/
def Obligations.MergeAndCompareEvents : Prop :=
  Claims.MergeEvent ∧ Claims.ReconstructionAndCompare

/-! ## Events: supervision -/

/-- 21 R478, 22 R494: a device reset leaves the registers at their reset values but for what the boot sets: with every check passed it
ends at step 5 with two measurements and the failing clusters quarantined; a failed check halts it at step 1 with BOOT_FAIL.
Memory stays as it was (the model's choice, log 35). -/
def Claims.DeviceResetEvent : Prop :=
  ∀ s : State, let b := s.ev.boot
    ∃ t, exec .deviceReset s = .next t ∧ t.mem = s.mem ∧ t.hostMem = s.hostMem ∧ t.now = s.now ∧ t.teams = [] ∧ t.insts = [] ∧
      t.jobs = [] ∧ t.l1 = [] ∧ t.tlb = [] ∧ t.parts = [] ∧ t.pkg = b.pkg ∧ t.hostMode = b.hostMode ∧ t.preMcost = 512 ∧
      t.preIter = 1536 ∧ t.lodge.regWindow = 100000 ∧ t.lodge.rhThresh = 1024 ∧ t.lodge.hbMiss = 3 ∧ t.lodge.hbPeriod = 100 ∧
      ((b.verified0 = false ∨ b.verified1 = false) → t.lodge.bootFail = true ∧ t.lodge.halted = true ∧ t.lodge.bootStep = 1) ∧
      (b.verified0 = false → t.lodge.meas = []) ∧
      (b.verified0 = true → b.verified1 = false → t.lodge.meas = [extendMeas 0 b.digest0]) ∧
      (b.verified0 = true → b.verified1 = true → t.lodge.bootFail = false ∧ t.lodge.bootStep = 5 ∧
        t.lodge.meas = [extendMeas 0 b.digest0, extendMeas 0 b.digest1] ∧
        ∀ k < 28, (t.cluster k).quarantined = b.failing.getLsbD k ∧ (t.cluster k).bistPassed = !b.failing.getLsbD k)

/-- 21 R481, R482, 20 R454, R463, R466, R467, 02 R48: Belvedere takes its oldest report: a line with a clean copy is rewritten and leaves
quarantine; the table page of an uncorrectable entry is named in TLB_INV; detections and mismatches count against their core, offsets and
outvotes against their unit; a full quarantine holds instances (`State.holdAll`). -/
def Claims.ReportEvent : Prop :=
  (∀ (s : State) (m : BelvMsg), s.belv.find? (·.isReport) = some m →
    exec .uncorrectableReport s = .next (({ s with belv := s.belv.erase m } : State).handleReport s.ev.ok m)) ∧
  (∀ (s : State) (core a b c : Nat) (u : UnitId) (k : Nat), ∀ ok,
    s.handleReport ok (.mismatch core a b c) = s.countDetection core ∧ s.handleReport ok (.offset u) = s.offsetReport u ∧
    s.handleReport ok (.outvoted k) = s.declareFailed (.cluster k) ∧ s.handleReport ok (.quarantineFull k) = s.holdAll) ∧
  (∀ (s : State) (cause : Cause) (sector core : Nat) (who : Option (Nat × W32)), cause = 0x140 ∨ cause = 0x141 →
    s.handleReport false (.uncorrectable cause sector core who) = s ∧
    s.handleReport true (.uncorrectable cause sector core who) = s.rewriteLine sector) ∧
  (∀ (s : State) (cause : Cause) (sector core : Nat) (who : Option (Nat × W32)),
    (cause = 0x102 → s.handleReport false (.uncorrectable cause sector core who) = { s with
      lodge.regQueue := s.lodge.regQueue ++ [{ off := 0x10980, data := BitVec.ofNat 64 (2 ^ 62 + sector / 32768 * 32768) }] }) ∧
    (cause = 0x142 → s.handleReport true (.uncorrectable cause sector core who) = (s.rewriteLine sector).countDetection core) ∧
    (cause ∈ [0x143, 0x144, 0x145] → ∀ ok, s.handleReport ok (.uncorrectable cause sector core who) = s.countDetection core)) ∧
  (∀ (s : State) (pa : Nat), lineOf pa ∉ (s.rewriteLine pa).quar ∧
    (∀ l, l ≠ lineOf pa → (l ∈ (s.rewriteLine pa).quar ↔ l ∈ s.quar)) ∧ (s.rewriteLine pa).mem = s.mem) ∧
  (∀ (s : State) (core : Nat), let recent := (core, s.now) :: s.lodge.detects.filter fun d => decide (s.now ≤ d.2 + 1000000000)
    let u : State := { s with lodge.detects := recent }
    let n := (recent.filter (·.1 == core)).length
    (n ≤ 8 → s.countDetection core = u) ∧ (8 < n → s.countDetection core = u.declareFailed (.cluster (clusterOf core))))

/-- Device reset and boot, and what Belvedere does with each report. -/
def Obligations.ResetAndReportEvents : Prop :=
  Claims.DeviceResetEvent ∧ Claims.ReportEvent

/-- 21 R479, R480: a heartbeat clears its unit's misses; a wrong signature, a repeated number of a busy unit, or HB_CTL.MISS lost beats in
a row declare the unit failed; a failed memory controller is fatal. -/
def Claims.HeartbeatEvents : Prop :=
  ∀ s : State, let u := s.ev.unit
    let h := s.heart u
    let e := s.ev
    let beat := s.setHeart { h with seq := some e.seq, missed := 0 }
    let miss := s.setHeart { h with missed := h.missed + 1 }
    (e.ok = true → (e.busy = true → h.seq ≠ some e.seq) → exec .heartbeat s = .next beat) ∧
    (e.ok = false ∨ (e.busy = true ∧ h.seq = some e.seq) → exec .heartbeat s = .next (beat.declareFailed u)) ∧
    (h.missed + 1 < s.lodge.hbMiss.toNat → exec .heartbeatMiss s = .next miss) ∧
    (s.lodge.hbMiss.toNat ≤ h.missed + 1 → exec .heartbeatMiss s = .next (miss.declareFailed u)) ∧
    (∀ (t : State) (v : UnitId), ((t.declareFailed v).heart v).failed = true ∧
      (((∃ n, v = .memCtl n) ∨ v = .bandstand) → (t.declareFailed v).lodge.fatal = true) ∧
      ((∀ n, v ≠ .memCtl n) → v ≠ .bandstand → t.declareFailed v = t.setHeart { t.heart v with failed := true }))

/-- 21 R480: the restart of a failed unit: a cluster is quarantined, emptied while its cores respond, else reset with its teams lost; a
copy unit performs its copies in progress again from their first rows; an ingress channel drops its frame in progress; the
memory controllers are not restarted; the restart of a cluster brings its local time unit back; a cluster's self-test sets what a reconfiguration will find. -/
def Claims.RestartEvents : Prop :=
  (∀ s : State, (s.heart s.ev.unit).failed = true →
    (∀ k, (s.ev.unit = .cluster k ∨ s.ev.unit = .ltu k) →
      let u := s.modCluster k fun c => { c with quarantined := true, bistPassed := false }
      (s.ev.ok = true → u.emptied k = false → exec .unitRestart s = .next (u.emptyCluster k)) ∧
      ((s.ev.ok = false ∨ u.emptied k = true) → exec .unitRestart s =
        .next ((((((u.clusterTeams k).foldl (fun v t => v.lostTeam t) u).discardCluster k).resetCluster k).setHeart
          { unit := .cluster k }).setTimeUnit k |>.decideMask (2 ^ 28 - 1)))) ∧
    (∀ k, s.ev.unit = .copyUnit k → exec .unitRestart s =
      .next ((s.modCore k restartChans).setHeart { unit := .copyUnit k })) ∧
    (∀ n, s.ev.unit = .ingress n → exec .unitRestart s = .next
      ((if s.ev.ok then s else s.modIng n fun g => { g with drops := satInc16 g.drops }).setHeart { unit := .ingress n })) ∧
    ((∃ n, s.ev.unit = .memCtl n) ∨ s.ev.unit = .bandstand → exec .unitRestart s = .next s)) ∧
  (∀ (s : State) (k : Nat), let t := s.setTimeUnit k
    (t.heart (.ltu k)).failed = false ∧ UnitId.cluster k ∉ t.lodge.ltuBad ∧ UnitId.ltu k ∉ t.lodge.ltuBad) ∧
  (∀ s : State, (s.cluster s.ev.cluster).quarantined = true → exec .builtInSelfTestComplete s =
    .next (s.modCluster s.ev.cluster fun c => { c with bistPassed := s.ev.ok }))

/-- Heartbeats and their misses, and the restart of a failed unit. -/
def Obligations.HeartbeatAndRestartEvents : Prop :=
  Claims.HeartbeatEvents ∧ Claims.RestartEvents

/-- 21 R483, 22 R495: a margin below 30 ps raises a cluster's voltage in steps of 5 mV up to 150 mV, and then takes the cluster out of
service with LIMIT; a package power above CAP lowers the clocks, 10 ms above it at the floor set OVER; 105 °C set THERM and the
floor clock, 125 °C stop every cluster and set FATAL. The step and the clock chosen are the model's (see its log). -/
def Obligations.PowerEvents : Prop :=
  (∀ s : State, let k := s.ev.cluster
    let m := s.ev.marginPs
    let f := max 1500 (min s.ev.fmaxMhz.toNat 1800)
    let c := s.cluster k
    let u := s.modCluster k fun c => { c with marginPs := m, fmaxMhz := BitVec.ofNat 12 f, clockMhz := min c.clockMhz f }
    ((30 ≤ m.toNat ∨ c.limit = true) → exec .marginSample s = .next u) ∧
    (m.toNat < 30 → c.limit = false → c.voffMv.toNat ≤ 145 →
      exec .marginSample s = .next (u.modCluster k fun c => { c with voffMv := c.voffMv + 5 })) ∧
    (m.toNat < 30 → c.limit = false → 145 < c.voffMv.toNat → u.emptied k = true → exec .marginSample s =
      .next (u.modCluster k fun c => { c with quarantined := true, limit := true, emptying := false, bistPassed := false })) ∧
    (m.toNat < 30 → c.limit = false → 145 < c.voffMv.toNat → u.emptied k = false → exec .marginSample s =
      .next ((u.modCluster k fun c => { c with emptying := true }).emptyCluster k))) ∧
  (∀ s : State, let mhz := s.ev.fmaxMhz.toNat
    let cap := s.lodge.capWatts.toNat
    let n := s.lodge.overMs + 1
    let low : State := { s with lodge.overMs := 0 }
    let more : State := { s with lodge.overMs := n }
    (s.ev.watts ≤ cap → exec .powerCapControl s = .next (if s.lodge.therm then low else low.setClocks mhz)) ∧
    (cap < s.ev.watts → s.atFloor = false → exec .powerCapControl s = .next (s.setClocks mhz)) ∧
    (cap < s.ev.watts → s.atFloor = true → (n < 10 ∨ s.lodge.powerOver = true) → exec .powerCapControl s = .next more) ∧
    (cap < s.ev.watts → s.atFloor = true → 10 ≤ n → s.lodge.powerOver = false →
      exec .powerCapControl s = .next ({ more with lodge.powerOver := true } : State).signalStatus)) ∧
  (∀ s : State, ∃ t, exec .thermalLimit s = .next t ∧ (s.ev.celsius < 105 → t = s) ∧
    (105 ≤ s.ev.celsius → t.lodge.therm = true ∧ (∀ k < 28, (t.cluster k).clockMhz = 1500) ∧ t.teams = s.teams ∧ t.mem = s.mem) ∧
    (105 ≤ s.ev.celsius → s.ev.celsius < 125 → t.lodge.fatal = s.lodge.fatal) ∧
    (125 ≤ s.ev.celsius → t.lodge.fatal = true ∧ ∀ k < 28, (t.cluster k).thermalStop = true))

/-- 01 R16, 03 R74 to R76: setting VALID takes effect when the partition has clusters and shares none, and no cache way or regulator,
with a valid one, else sets ERR_OVERLAP; clearing it sets ERR_BUSY while a card of the partition is accepted; LOCK stays set, and
JOBTAB_BASE keeps its value once locked. -/
def Claims.PartitionEvents : Prop :=
  ∀ (s u : State) (w : RegWrite), s.regWrite = some (w, u) →
    let n := (w.w0 - 0x0400) / 32
    let p := u.part n
    let os := ((List.range 16).filter fun k => k != n && (u.part k).valid).map u.part
    let apart := p.clusters ≠ 0 ∧ (∀ o ∈ os, o.clusters &&& p.clusters = 0 ∧ o.waysP0 &&& p.waysP0 = 0 ∧ o.waysP1 &&& p.waysP1 = 0 ∧
      o.regs &&& p.regs = 0) ∧ 2 ≤ freeWays (p.waysP0 :: os.map (·.waysP0)) ∧ 2 ≤ freeWays (p.waysP1 :: os.map (·.waysP1))
    let busy := ∃ j ∈ u.jobs, j.accepted = true ∧ j.card.pid = n
    (u.rowOf w = .validSet → (apart → exec .partitionValidSet s = .next ((u.ctlBits w).reconfigure n)) ∧
      (¬apart → exec .partitionValidSet s = .next (u.modPart n fun p => { p.blockWrite 16 w.bits w.mask with errOverlap := true }))) ∧
    (u.rowOf w = .validClear →
      (busy → exec .partitionValidClear s = .next (u.modPart n fun p => { p.blockWrite 16 w.bits w.mask with errBusy := true })) ∧
      (¬busy → exec .partitionValidClear s = .next ((u.ctlBits w).modPart n fun p => { p with valid := false }))) ∧
    (u.rowOf w = .partLock → exec .partitionLock s = .next (u.modPart n fun p => { p.blockWrite 16 w.bits w.mask with
      lock := p.lock || w.bits.getLsbD 1 })) ∧
    (u.rowOf w = .jobtabLock → exec .jobtabLock s = .next { (u.w0Write 0 w.bits w.mask) with lodge.jobLock := true })

/-- 00 R11, R13, 22 R491: a register write without a row of its own changes its register alone; a write outside the two windows, or to
a read-only register, changes nothing. -/
def Claims.RegisterWriteEvent : Prop :=
  ∀ (s u : State) (w : RegWrite), s.regWrite = some (w, u) → u.rowOf w = .plain →
    (w.base < 0x10000 → exec .registerWrite s = .next (u.w1Write w.base w.bits)) ∧
    (0x10000 ≤ w.base → w.base < 0x20000 → w.w0 ≠ 0x0980 →
      exec .registerWrite s = .next (u.w0Write w.w0 w.bits w.mask).flushPending) ∧
    (0x20000 ≤ w.base → exec .registerWrite s = .next u) ∧
    (∀ o, (o = 0x0018 ∨ o = 0x0600 ∨ o = 0x0728 ∨ o = 0x0B10 ∨ (0x4000 ≤ o ∧ o < 0x7800)) → ∀ d m, u.w0Write o d m = u) ∧
    (∀ d m : W64, u.w0Write 0x0720 d m = { u with
      lodge.bvhSel := (u.lodge.bvhSel &&& ~~~(m.setWidth 8)) ||| (d.setWidth 8 &&& m.setWidth 8) })

/-- 22 R488 to R492, R494: links go down and come up; a request of another package, or of the host through W2, is performed at home
where it reaches memory, and waits while a watch window or a page move holds it; an outbound request that does not succeed makes its bytes fail with 0x381 until one does. -/
def Claims.PortEvents : Prop :=
  (∀ (s : State) (peer : Nat), s.links.find? (·.1 == s.ev.link) = some (s.ev.link, peer) →
    let u := ({ s with links := s.links.filter (·.1 != s.ev.link) } : State).signalStatus
    exec .fuicaLinkDown s = .next
      (if u.links.any (·.2 == peer) then u else { u with belv := u.belv ++ [.linkDown peer] })) ∧
  (∀ s : State, s.ev.link < 4 → s.ev.peer < 4 → s.ev.peer ≠ s.pkg.toNat → (∀ l ∈ s.links, l.1 ≠ s.ev.link) →
    exec .fuicaLinkUp s = .next ({ s with links := (s.ev.link, s.ev.peer) :: s.links } : State).signalStatus) ∧
  (∀ s : State, (s.pcieUp = true → exec .pcieLinkDown s = .next { s with pcieUp := false, belv := s.belv ++ [.hostDown] }) ∧
    exec .pcieLinkUp s = .next { s with pcieUp := true, hostAborts := [] }) ∧
  (∀ s : State, let n := if s.ev.wide then 8 else 4
    let access (pa : Nat) : State := if s.heldPhys pa n then s
      else if s.ev.write then s.physWrite pa (bytesOfNat n s.ev.data.toNat)
      else ({ s with readData := BitVec.ofNat 64 (natOfBytes (s.homeBytes 0 pa pa n)) } : State).touchAcc 0 pa pa n
    ((∃ l ∈ s.links, l.2 = s.ev.peer) → s.pageHome (s.ev.pa / 2 ^ 15) = s.pkg.toNat → s.physTarget s.ev.pa = .mem →
      s.homeFail s.ev.pa = none → exec .linkRequest s = .next (access s.ev.pa)) ∧
    (let pa := bitsOf s.lodge.w2Base.toNat 30 18 * 2 ^ 30 + s.ev.off
     s.pcieUp = true → s.hostMode = false → s.lodge.bootStep = 5 →
      (s.physTarget pa = .mem → s.homeFail pa = none → exec .hostW2Request s = .next (access pa)) ∧
      (s.physTarget pa ≠ .mem → exec .hostW2Request s = .next s))) ∧
  (∀ s : State, s.pcieUp = true → let n := if s.ev.wide then 8 else 4
    let rest := s.hostAborts.filter fun x => !(decide (s.ev.bus ≤ x.1) && decide (x.1 < s.ev.bus + n))
    (s.ev.status = .success → s.ev.write = true → exec .pcieOutboundCompletion s = .next { s with hostAborts := rest }) ∧
    (s.ev.status = .success → s.ev.write = false → exec .pcieOutboundCompletion s = .next { s with
      hostAborts := rest, hostMem := s.hostMem.writeBytes s.ev.bus (bytesOfNat n s.ev.data.toNat) }) ∧
    (s.ev.status ≠ .success → exec .pcieOutboundCompletion s = .next { s with
      hostAborts := ((List.range n).map fun k => (s.ev.bus + k, (0x381 : Cause))) ++ rest }))

/-- Partitions made valid or invalid, register writes, links and host requests. -/
def Obligations.RegisterAndPortEvents : Prop :=
  Claims.PartitionEvents ∧ Claims.RegisterWriteEvent ∧ Claims.PortEvents

/-! ## Exceptions -/

/-- 01 R24 to R26, 13 R330, 20 R454 to R456, R462: what taking an exception does. A serviceable page fault of a partition with a
fault service parks its context; the first qualifying cause of an idempotent region is replayed; while the team's handler runs, a
cause of another context stops that context and is held; a cause inside the handler, or in a fallback team, ends the instance as STOP;
every other cause takes the disposition of its class. A cause of the cycle in which the handler was entered, before any of its words,
is not held: one that ends the instance or takes EVENT has its disposition, and one of a lower code that takes HANDLER goes first. -/
def Claims.ExceptionTaken : Prop :=
  ∀ (s : State) (t : Nat) (r : Raise) (w n : Nat),
    let tm := s.team t
    let card := (s.inst tm.inst).card
    let u := s.reportData t r
    let serviced := r.serviceable = true ∧ (s.part card.pid).fltEnable = true
    let code := card.nibble r.cause
    let framed (v : State) : State := (v.logRaise t 2 r).modTeam t fun x => { x with frame := v.frameOf t r }
    let disposed (v : State) : State :=
      if code = 4 then (v.logRaise t 1 r).skip r w n
      else if code = 1 then (v.logRaise t 2 r).enterHandler t r
      else if code = 5 then (framed v).holdInstance (v.team t).inst r
      else (framed v).endByCause t (code == 2)
    let same (h : Handler) := h.entered = s.cycle ∧ tm.ctrl.fresh = true ∧ (code ≠ 1 ∨ r.cause.toNat < h.taken.cause.toNat)
    (∀ c, r.ctx = some c → serviced → s.raise t r w n = s.parkFault t c r) ∧
    (¬serviced → u.canReplay t r = true → s.raise t r w n = u.replay t r) ∧
    (∀ h, ¬serviced → u.canReplay t r = false → tm.handler = some h →
      (∀ c, r.ctx = some c → c ≠ .c t → ¬same h →
        s.raise t r w n = (u.stopCtx c).modTeam t fun x => { x with held := x.held ++ [{ r with reported := true }] }) ∧
      (∀ c, r.ctx = some c → c ≠ .c t → same h → s.raise t r w n = disposed (if code = 1 then u.unenter t h else u)) ∧
      ((u.unenter t h).team t).handler = none ∧ ((u.unenter t h).team t).held = h.taken :: tm.held ∧
      ((u.unenter t h).team t).ctrl.pc = h.savedPc) ∧
    (¬serviced → u.canReplay t r = false →
      ((tm.handler.isSome = true ∧ r.ctx = some (.c t)) ∨ (tm.handler = none ∧ tm.fallback = true)) →
      s.raise t r w n = (framed u).endByCause t false) ∧
    (¬serviced → u.canReplay t r = false → tm.handler = none → tm.fallback = false → s.raise t r w n = disposed u)

/-- 20 R448, R455: the entry of a handler: the C stream's next word, segment, region, bounds and record are saved, control goes to the
first word of HANDLER_RECORD with no segment and no region open, the trapping context stops at its word, and the trap frame is that of
the cause, with VADDR zero but for the causes that show an address. -/
def Claims.HandlerEntry : Prop :=
  ∀ (s : State) (t : Nat) (r : Raise),
    let k := (s.team t).ctrl
    let x := s.inst (s.team t).inst
    let v := s.enterHandler t r
    (v.team t).handler = some { trapped := r.ctx, boundary := r.boundary, savedPc := k.pc, savedSeg := k.seg, savedRegion := k.region,
                                savedRec := k.recIdx, savedBound := k.bound, savedSpan := k.spanStart,
                                savedTicket := k.ticket, savedLate := k.late,
                                taken := { r with logged := true, reported := true }, entered := s.cycle } ∧
    (v.team t).ctrl.pc = x.image.codeAddr 0 x.handlerRec.proOff 4 ∧ (v.team t).ctrl.recIdx = x.card.handlerRecord ∧
    (v.team t).ctrl.bound = x.handlerRec.bound ∧ (v.team t).ctrl.spanStart = s.cycle ∧ (v.team t).ctrl.seg = none ∧
    (v.team t).ctrl.region = none ∧ (v.team t).ctrl.stack = k.stack ∧ (v.team t).c = (s.team t).c ∧
    (∀ c, r.ctx = some c → c.stream ≠ .c → c.team = t → v.ctxState c = { s.ctxState c with stopped := true }) ∧
    (let f := (v.team t).frame
     f.cause = r.cause ∧ f.stream = BitVec.ofNat 3 r.stream ∧ f.pc = BitVec.ofNat 64 r.pc ∧ f.lanes = r.lanes ∧
     f.sector = BitVec.ofNat 48 r.sector ∧ f.regionPc = BitVec.ofNat 64 r.regionPc ∧ f.group = BitVec.ofNat 8 r.group ∧
     f.team = BitVec.ofNat 32 (s.team t).linear ∧ f.jobInst = x.id ∧ f.jobIndex = BitVec.ofNat 13 x.job ∧
     f.time = BitVec.ofNat 64 r.time ∧
     f.vaddr = if r.shown = true ∨ r.cause = 0x102 then BitVec.ofNat 64 r.vaddr else 0) ∧
    v.mem = s.mem ∧ v.hostMem = s.hostMem ∧ (∀ m, m ≠ t → (∀ c, r.ctx = some c → c.team = t) → v.team m = s.team m)

/-- 01 R24, 07 R158: under EVENT a C word has no effect and its stream goes on with the next word, also where the word waited; a word of
a record is passed over, the last of an `mloop` (12 R309) with the loop's post; a word of a resume list leaves it; and a boundary goes
on with its step 3. -/
def Claims.SkippedWord : Prop :=
  ∀ (s : State) (r : Raise) (w n : Nat), let v := s.skip r w n
    (∀ t, r.ctx = some (.c t) →
      (v.team t).ctrl = { (s.team t).ctrl with pc := n, waiting := false, ticket := none, joining := none } ∧ (v.team t).c = (s.team t).c ∧
        (∀ m, m ≠ t → v.team m = s.team m) ∧ v.mem = s.mem) ∧
    (∀ c, r.ctx = some c → c.stream ≠ .c → r.boundary = false → (v.ctxState c).waiting = false ∧ v.mem = s.mem ∧
      (∀ o os, (s.ctxState c).resume = o :: os → (v.ctxState c).resume = os ∧ (v.ctxState c).run = (s.ctxState c).run) ∧
      (∀ q, (s.ctxState c).resume = [] → (s.ctxState c).run = some q → (v.ctxState c).resume = [] ∧
        (v.ctxState c).run = some (({ q with loopOp := if c.stream = .m ∧ q.loopEnds = true then none else q.loopOp } : RecRun).step w) ∧
        (c.stream ≠ .m ∨ q.loopEnds = false → v.cores = s.cores))) ∧
    (∀ c, r.ctx = some c → c.stream ≠ .c → r.boundary = true → v = s.boundaryNext c)

/-- 05 R131, 06 R138: a reserved encoding raises its cause at the word that carries it, with nothing done, in any stream and also
inside an idempotent region (00 R12). -/
def Claims.ReservedEncodingWord : Prop :=
  ∀ (s : State) (cause : BitVec 10) (n : Nat), s.canIssue s.cur = true →
    exec (.reservedEncoding cause n) s =
      .next (s.raise s.cur.team { s.raiseAt cause with pc := s.iw.pc + 4 * n } s.iw.words.length s.iw.next)

/-- Taking an exception: every disposition, the handler entry, and EVENT. -/
def Obligations.CauseDispositions : Prop :=
  Claims.ExceptionTaken ∧ Claims.HandlerEntry ∧ Claims.SkippedWord ∧ Claims.ReservedEncodingWord

/-- 01 R38, R42, 07 R160, R162, R163: the boundary after the last word of a kernel iteration. The strides of an A record are applied
when the trip levels below theirs complete; a count, and then a signature, that differs from the record's is reported and raises 0x180
or 0x181, and an iteration past its bound raises 0x203, at the iteration's last kernel word, both together where both hold;
otherwise the next iteration starts with count and signature 0, or the record parks at a signalled checkpoint, or, after the last one,
it goes to its epilogue or retires. That an iteration to be replayed starts without the strides is the model's reading (log 76). -/
def Claims.IterationBoundary : Prop :=
  ∀ (s : State) (c : Ctx) (r : RecRun) (n : Nat), c.stream ≠ .c → (s.ctxState c).run = some r → r.st = .kernel →
    r.ker.length ≤ (r.step n).pos → s.holdsBoundary c r = false →
    let tm := s.team c.team
    let it := r.iter + 1
    let u := s.modRun c fun x => x.step n
    let v := match c with
      | .a t g => u.modGroup t g (applyStrides r.trips it r.lr.strides)
      | _ => u
    let checked := bitsOf r.lr.flags 5 1 = 1
    let last := r.refillStopped = true ∨ r.total ≤ it
    let over_ := r.late = false ∧ r.lr.bound < s.cycle - r.spanStart ∧ ¬(last ∧ r.epi ≠ [])
    let ckpt := bitsOf r.lr.flags 2 1 = 1
    let rz (cause : Cause) : Raise :=
      { cause := cause, ctx := some c, stream := streamCode c.stream, pc := r.lastPc, regionPc := u.regionPc c, group := c.frameGroup,
        boundary := true, time := s.now, lanes := match c with
          | .x t g => (s.group t g).live
          | _ => 0xFFFFFFFF#32 }
    let fails (z : State) (cause : Cause) : State :=
      if over_ then z.raisePair c.team (rz cause) (rz 0x203) else z.raise c.team (rz cause) 0 0
    let found (cause : Cause) (want got : Nat) : State :=
      if u.canReplay c.team (rz cause) then (u.reportMismatch tm.core r.idx want got).raise c.team (rz cause) 0 0
      else fails (v.reportMismatch tm.core r.idx want got) cause
    let t := s.advanceRun c n
    (checked → r.count ≠ r.lr.expectCount → t = (found 0x180 r.lr.expectCount r.count).endSpanC u c) ∧
    (checked → r.count = r.lr.expectCount → r.sig.toNat ≠ r.lr.expectSig → t = (found 0x181 r.lr.expectSig r.sig.toNat).endSpanC u c) ∧
    ((checked → r.count = r.lr.expectCount ∧ r.sig.toNat = r.lr.expectSig) →
      (over_ → t = (v.raise c.team (rz 0x203) 0 0).endSpanC u c) ∧
      (¬over_ → ∃ w z : State, t = z.endSpanC u c ∧ (z = w ∨ z = w.checkPark c.team) ∧ (tm.signal = .none → z = w) ∧
        (∀ k g, c = .a k g → ∀ m, (w.group k g).gReg m = (applyStrides r.trips it r.lr.strides (s.group k g)).gReg m) ∧
        (∀ m, m ≠ c.team → w.team m = s.team m) ∧ w.mem = s.mem ∧ w.hostMem = s.hostMem ∧
        (ckpt → (w.team c.team).ctrl.spanStart = s.cycle ∧ (w.team c.team).ctrl.late = false) ∧
        ∃ q, (w.ctxState c).run = some q ∧ q.lr = r.lr ∧ q.iter = it ∧ q.count = 0 ∧ q.sig = 0 ∧ q.pos = 0 ∧
          (last → q.st = if r.epi = [] then .retired else .epilogue) ∧
          (¬last → q.spanStart = s.cycle ∧ q.late = false ∧ q.st = if ckpt ∧ tm.signal ≠ .none then .parked else .kernel)))

/-- 01 R39: a boundary with its checkpoint flag set ends the span of the team's control record: past its ITER_BOUND_CYCLES the boundary
raises 0x203 at the word the C stream would issue next, once for the span. -/
def Claims.CheckpointSpan : Prop :=
  ∀ (s u : State) (c : Ctx) (r q : RecRun), (u.ctxState c).run = some r → (s.ctxState c).run = some q →
    let k := (u.team c.team).ctrl
    let m := (s.team c.team).ctrl
    let ends := bitsOf r.lr.flags 2 1 = 1 ∧ q.iter ≠ r.iter ∧ k.ended = false ∧ k.late = false ∧ k.bound < u.cycle - k.spanStart
    (¬ends → s.endSpanC u c = s) ∧
    let open_ := match m.region with
      | some g => g.pc
      | none => 0
    (ends → s.endSpanC u c = s.raise c.team
      { cause := 0x203, ctx := some (.c c.team), pc := m.pc, regionPc := open_, time := s.now } 1 (s.nextC c.team m.pc))

/-- 01 R38: a stride adds its sign-extended step to its register after an iteration that completes a cycle of every trip level below
its own, and to no other register; register 0 takes none. -/
def Claims.RecordStrides : Prop :=
  ∀ (trips es : List Nat) (e it m : Nat) (g : Group),
    let reg := bitsOf e 0 5
    let step : Int := if 2 ^ 23 ≤ bitsOf e 8 24 then (bitsOf e 8 24 : Int) - 2 ^ 24 else bitsOf e 8 24
    let cycles := (trips.take (bitsOf e 5 3)).foldl (· * ·) 1
    applyStrides trips it [] g = g ∧
    applyStrides trips it (e :: es) g = applyStrides trips it es (applyStrides trips it [e] g) ∧
    (m < 32 → (applyStrides trips it [e] g).gReg m =
      if reg ≠ 0 ∧ m = reg ∧ it % cycles = 0 then g.gReg m + BitVec.ofInt 64 step else g.gReg m)

/-- The boundary of a kernel iteration: strides, checks, parking, the next iteration, the bound of the control record. -/
def Obligations.KernelIterationBoundary : Prop :=
  Claims.IterationBoundary ∧ Claims.CheckpointSpan ∧ Claims.RecordStrides

/-! ## Fetch, decoding and the step -/

/-- 05 R113 to R115, 07 R151: a step runs the decoded instruction. A turn that offers a C context its next word fetches four bytes at the
pc and answers what their instruction does there; a turn that offers an A, X or M context its next word answers what the instruction
at the record's position does; a word of a resume list issues first; a turn that names an event answers what the event does; a
context that cannot issue is passed over. After the instruction, caches are within their capacities, and a word that did not wait
counts as issued at its core. A turn of an M context is one of its core's M pipe, which serves the ready slots in rotation (07 R154). -/
def Claims.TurnRunsInstruction : Prop :=
  ∀ (s : State) (turn : Turn) (ts : List Turn),
    (s.agenda = turn :: ts ∨ (s.agenda = [] ∧ ts = [] ∧ turn = Config.turn s.tick)) →
    let u := ({ s with agenda := ts, tick := s.tick + 1 } : State).beginTurn turn
    let ran (o : Outcome) (c : Ctx) : Outcome := match o with
      | .next v => .next (v.afterIssue c).boundCaches
      | .fault x => .fault x
      | .refused x => .refused x
    (∀ i e, turn.act = .event i e → eventRow i = true → step s = match exec i { u with ev := e } with
      | .next v => .next v.boundCaches
      | .fault x => .fault x
      | .refused x => .refused x) ∧
    (∀ c, turn.act = .issue c → u.canIssue c = false → step s = .next u) ∧
    (∀ c, c.stream ≠ .m → u.served c = c) ∧
    (∀ k i v, u.issueNext (.m k) = .run i v → u.served (.m k) =
      .m (((u.mOrder (u.team k).core).find? u.mWordReady).getD k)) ∧
    (∀ c d, turn.act = .issue c → u.canIssue c = true → u.served c = d →
      (∀ k w z, d = .c k → ((u.team k).craise = [] ∨ (u.team k).handler.isSome = true) → (u.team k).ctrl.due = false →
        let pc := (u.team k).ctrl.pc
        let v : State := { u with cur := d, iw := { pc := pc, next := pc + 4 } }
        v.entryCause k = none → v.fetchWord k pc = .inr (w, z) →
        let i := (decodeWords .c 0 (fun _ => none) [w]).1
        step s = ran (exec i { (z.modCtrl k fun x => { x with fresh := false }) with
          iw := { pc := pc, next := if w.toNat / 2 ^ 24 = 0x67 then pc + 8 else pc + 4, words := [w.setWidth 64],
                  reads := storesRead i .c {} w.toNat, writes := storesWritten i .c {} w.toNat,
                  forbidden := idemForbidden i .c w.toNat } }) d) ∧
      (∀ o os, d.stream ≠ .c → (u.ctxState d).resume = o :: os →
        step s = ran (exec o.instr { u with cur := d, iw := { o.info with resumed := true } }) d) ∧
      (∀ r, d.stream ≠ .c → (u.ctxState d).resume = [] → (u.ctxState d).run = some r → r.pos < r.body.length →
        (d.stream = .a → ((u.team d.team).group d.group).araise = [] ∨ (u.team d.team).handler.isSome = true) →
        let st := d.stream
        let g := (u.team d.team).group d.group
        let ws := r.body.drop r.pos
        let e : Instr × Nat := if st = .m then (decodeMatrix (ws.headD 0), 1)
          else decodeWords st g.vregs (fun n => (u.team d.team).tpl.getD n none) (ws.map fun (w : W64) => w.setWidth 32)
        let pc := (u.inst (u.team d.team).inst).image.codeAddr (streamCode st) (r.bodyOff + r.pos) (if st = .m then 8 else 4)
        step s = ran (exec e.1 { u with
          cur := d
          iw := { pc := pc, next := pc + (if st = .m then 8 else 4) * e.2, words := ws.take e.2,
                  reads := storesRead e.1 st g (ws.headD 0).toNat, writes := storesWritten e.1 st g (ws.headD 0).toNat,
                  forbidden := idemForbidden e.1 st (ws.headD 0).toNat } }) d))

/-- 05 R113, 13 R326: a fetch outside section 0 of the image is 0x040; inside it, the word is the one the core's instruction cache holds
for its physical address, and where it holds none the four bytes, in little-endian order, at the physical address that the page tables
give, which the cache then holds: its newest of at most 8,192 words. -/
def Claims.FetchedWord : Prop :=
  ∀ (s : State) (k pc : Nat),
    let tm := s.team k
    let x := s.inst tm.inst
    let base := x.image.base + (x.image.sections.getD 0 (0, 0)).1
    let size := (x.image.sections.getD 0 (0, 0)).2
    (pc < base ∨ base + size ≤ pc → s.fetchWord k pc = .inl { cause := 0x040, kind := .fetch }) ∧
    (∀ pa u, base ≤ pc → pc < base + size → s.translate tm.core none x.card.pid pc .fetch = .inr (pa, u) →
      let cached := (u.core tm.core).icache.find? fun w => w.rev == tm.rev && w.pa == pa
      (∀ w, cached = some w → s.fetchWord k pc = .inr (w.word, u)) ∧
      (cached = none → u.failAt tm.rev pc pa = none → u.physTarget pa = .mem → u.physTarget (pa + 1) = .mem →
        u.physTarget (pa + 2) = .mem → u.physTarget (pa + 3) = .mem → tm.rev = 0 → u.revs = [] →
        ∃ w, s.fetchWord k pc = .inr (w, u.modCore tm.core fun c =>
            { c with icache := ({ rev := tm.rev, pa := pa, word := w } :: c.icache).take 8192 }) ∧
          w.toNat = (u.mem.read pa).toNat + 2 ^ 8 * (u.mem.read (pa + 1)).toNat +
            2 ^ 16 * (u.mem.read (pa + 2)).toNat + 2 ^ 24 * (u.mem.read (pa + 3)).toNat))

/-- A step runs the instruction that the word at the program counter decodes to. -/
def Obligations.StepRunsDecodedInstruction : Prop :=
  Claims.TurnRunsInstruction ∧ Claims.FetchedWord

/-- 05 R116, R142, R143: words written out from the encoding tables decode to their instructions. -/
def Obligations.DirectWordsDecode : Prop :=
  ∀ w ∈ [(0x18143FFC#32, Instr.addi 5 3 (-4)), (0x201FFFFE, .limm 7 (-2)), (0x320C0FFA, .bne 3 0 (-6)), (0x011C28C0, .add 7 2 35),
         (0x53143106, .camoClu 5 3 4 0 3), (0x56000026, .fence false 2 3 false), (0x56000066, .fence true 2 3 false),
         (0x5D143100, .fork 5 3 4), (0x5E1C6000, .join 7 6), (0x6B2C5000, .revst 11 5 0), (0x00000000, .nop),
         (0x58000009, .barArrive 9), (0x62000000, .eret)],
    decodeWords .c 0 (fun _ => none) [w.1] = (w.2, 1)

/-- 05 R116 to R120, R122, R127 to R129, R133, R142 to R146: decoding what the encoder writes gives every well-formed instruction of
the three spaces back, with every operand: a direct word, a template entry with the patch word that executes it, a matrix word. -/
def Claims.DecodeOfEncode : Prop :=
  ∀ (i : Instr) (st : Stream) (vregs idx : Nat) (entry : Nat → Option W128) (rest : List W32), idx < 64 →
    i.wellFormed st vregs = true →
    (∀ w, encode idx i = some (.direct w) → decodeWords st vregs entry (w :: rest) = (i, 1)) ∧
    (∀ e p, encode idx i = some (.template e p) → st ≠ .c → entry idx = some e → decodeWords st vregs entry (p :: rest) = (i, 1)) ∧
    (∀ w, encode idx i = some (.matrix w) → decodeMatrix w = i)

/-- 05 R118, R133, R134, 06 R138, R142, R146: no two words of the direct or the matrix space decode to one instruction: a word that decodes
to an instruction is the word the encoder writes for it. -/
def Claims.EncodeOfDecode : Prop :=
  (∀ (st : Stream) (w : W32) (i : Instr), w.toNat < 2 ^ 31 → decodeDirect st w.toNat = i → (∀ c n, i ≠ .reservedEncoding c n) →
    encode 0 i = some (.direct w)) ∧
  (∀ (w : W64) (i : Instr), decodeMatrix w = i → (∀ c n, i ≠ .reservedEncoding c n) → encode 0 i = some (.matrix w))

/-- Decoding and encoding agree on every well-formed instruction of the three spaces. -/
def Obligations.EncodingsAgree : Prop :=
  Claims.DecodeOfEncode ∧ Claims.EncodeOfDecode

/-! ## Reset and memory -/

/-- 01, 03, 13, 15, 20, 21, 22: the Reset columns of the maps of W0: every 8 bytes below 0x8000 read zero but MIG_LIMIT (4), REG_WINDOW
(100,000 ns), RH_CTL (NEIGH 2, THRESH 1,024), PREEMPT_LIMIT (MCOST 512, ITER 1,536), HB_CTL (MISS 3, PERIOD_US 100), REG_CFG (RAISE, and
ENABLE but for regulator 63), AGE_STAT (FMAX_MHZ 1,800) and PWR_CTL (CAP_W 120); every submission page reads zero, and nothing is
accepted, released or running. -/
def Claims.ResetRegisters : Prop :=
  (∀ k < 4096, let o := 8 * k
    State.reset.w0Read o =
      if o = 0x0A00 then 4
      else if o = 0x0B00 then 100000
      else if o = 0x0B08 then 2 * 2 ^ 16 + 1024
      else if o = 0x0B40 then 512 * 2 ^ 16 + 1536
      else if o = 0x0B50 then 3 * 2 ^ 16 + 100
      else if 0x0C00 ≤ o ∧ o < 0x0C00 + 8 * 63 then 3
      else if o = 0x0C00 + 8 * 63 then 2
      else if 0x1200 ≤ o ∧ o < 0x1200 + 8 * 28 then 1800 * 2 ^ 8
      else if o = 0x1318 then 120
      else 0) ∧
  (∀ off < 0x10000, State.reset.windowValue off = 0) ∧
  State.reset.insts = [] ∧ State.reset.teams = [] ∧ State.reset.jobs = [] ∧ (∀ c n, State.reset.barrier c n = none)

/-- Both memories hold their canonical form at reset. -/
def Claims.ResetMemoryCanonical : Prop := State.reset.memWf

/-- The reset state: register values of the maps, nothing running, canonical memory. -/
def Obligations.ResetState : Prop :=
  Claims.ResetRegisters ∧ Claims.ResetMemoryCanonical

/-- The canonical form of both memories is an invariant of the step. -/
def Obligations.StepKeepsMemoryCanonical : Prop :=
  ∀ s t : State, s.memWf → step s = .next t → t.memWf
end

