-- ==== Sys2Proof/Laws/Word.lean ====
section
/-!
SUPPORT. Laws of the plain list and lane arithmetic: total arrays (`setAt`), lanes and masks.
-/
namespace Sys2Proof

/-- A total array reads the value written at an index, and what it held elsewhere. -/
theorem getD_setAt {α : Type} (d v : α) (xs : List α) (n m : Nat) :
    (setAt d xs n v)[m]?.getD d = if m = n then v else xs[m]?.getD d := by
  induction xs generalizing n m with
  | nil =>
    induction n generalizing m with
    | zero => cases m <;> simp [setAt]
    | succ n ih => cases m with
      | zero => simp [setAt]
      | succ m => simpa [setAt] using ih m
  | cons x xs ih => cases n <;> cases m <;> simp [setAt, ih]

@[simp] theorem getD_setAt_self {α : Type} (d v : α) (xs : List α) (n : Nat) : (setAt d xs n v)[n]?.getD d = v := by
  rw [getD_setAt, if_pos rfl]

theorem getD_setAt_ne {α : Type} (d v : α) (xs : List α) {n m : Nat} (h : m ≠ n) :
    (setAt d xs n v)[m]?.getD d = xs[m]?.getD d := by rw [getD_setAt, if_neg h]

/-- Of two writes of one index the later stands. -/
@[simp] theorem setAt_setAt {α : Type} (d v w : α) (xs : List α) (n : Nat) :
    setAt d (setAt d xs n v) n w = setAt d xs n w := by
  induction xs generalizing n with
  | nil => induction n with
    | zero => rfl
    | succ n ih => simp [setAt, ih]
  | cons x xs ih => cases n <;> simp [setAt, ih]

@[simp] theorem length_mkLanes (f : Nat → W32) : (mkLanes f).length = 32 := by simp [mkLanes]

theorem lane_mkLanes (f : Nat → W32) (l : Nat) : lane (mkLanes f) l = if l < 32 then f l else 0 := by
  unfold lane mkLanes
  split
  · rw [List.getD_eq_getElem?_getD]; simp [*]
  · rw [List.getD_eq_getElem?_getD]; simp [*]

theorem lane_splat (w : W32) (l : Nat) : lane (splat w) l = if l < 32 then w else 0 := by
  simp only [lane, splat, List.getD_eq_getElem?_getD, List.getElem?_replicate]
  split <;> rfl

@[simp] theorem length_bytesOfNat (n x : Nat) : (bytesOfNat n x).length = n := by
  induction n generalizing x with
  | zero => rfl
  | succ n ih => simp [bytesOfNat, ih]

/-- Bytes of a number give it back, modulo their number of bits. -/
theorem natOfBytes_bytesOfNat (n x : Nat) : natOfBytes (bytesOfNat n x) = x % 256 ^ n := by
  induction n generalizing x with
  | zero => simp [bytesOfNat, natOfBytes, Nat.mod_one]
  | succ n ih =>
    have hp : 256 ^ (n + 1) = 256 * 256 ^ n := Nat.pow_succ'
    rw [bytesOfNat, natOfBytes, BitVec.toNat_ofNat, ih, hp]
    exact (Nat.mod_mul (x := x) (a := 256) (b := 256 ^ n)).symm

end Sys2Proof
end

