-- ==== Sys2Proof/Laws/State.lean ====
section
/-!
SUPPORT. Laws of the state: what each named update of the state leaves as it was, field by field, and what the lookups read
after it.
-/
namespace Sys2Proof.Machine

/-! ### `setTeam` -/

@[simp] theorem State.setTeam_agenda (s : State) (k : Nat) (x : Team) : (s.setTeam k x).agenda = s.agenda := rfl
@[simp] theorem State.setTeam_tick (s : State) (k : Nat) (x : Team) : (s.setTeam k x).tick = s.tick := rfl
@[simp] theorem State.setTeam_cur (s : State) (k : Nat) (x : Team) : (s.setTeam k x).cur = s.cur := rfl
@[simp] theorem State.setTeam_iw (s : State) (k : Nat) (x : Team) : (s.setTeam k x).iw = s.iw := rfl
@[simp] theorem State.setTeam_ev (s : State) (k : Nat) (x : Team) : (s.setTeam k x).ev = s.ev := rfl
@[simp] theorem State.setTeam_readData (s : State) (k : Nat) (x : Team) : (s.setTeam k x).readData = s.readData := rfl
@[simp] theorem State.setTeam_nextId (s : State) (k : Nat) (x : Team) : (s.setTeam k x).nextId = s.nextId := rfl
@[simp] theorem State.setTeam_now (s : State) (k : Nat) (x : Team) : (s.setTeam k x).now = s.now := rfl
@[simp] theorem State.setTeam_cycle (s : State) (k : Nat) (x : Team) : (s.setTeam k x).cycle = s.cycle := rfl
@[simp] theorem State.setTeam_mem (s : State) (k : Nat) (x : Team) : (s.setTeam k x).mem = s.mem := rfl
@[simp] theorem State.setTeam_l1 (s : State) (k : Nat) (x : Team) : (s.setTeam k x).l1 = s.l1 := rfl
@[simp] theorem State.setTeam_tlb (s : State) (k : Nat) (x : Team) : (s.setTeam k x).tlb = s.tlb := rfl
@[simp] theorem State.setTeam_walks (s : State) (k : Nat) (x : Team) : (s.setTeam k x).walks = s.walks := rfl
@[simp] theorem State.setTeam_bad (s : State) (k : Nat) (x : Team) : (s.setTeam k x).bad = s.bad := rfl
@[simp] theorem State.setTeam_quar (s : State) (k : Nat) (x : Team) : (s.setTeam k x).quar = s.quar := rfl
@[simp] theorem State.setTeam_badStore (s : State) (k : Nat) (x : Team) : (s.setTeam k x).badStore = s.badStore := rfl
@[simp] theorem State.setTeam_promo (s : State) (k : Nat) (x : Team) : (s.setTeam k x).promo = s.promo := rfl
@[simp] theorem State.setTeam_recalled (s : State) (k : Nat) (x : Team) : (s.setTeam k x).recalled = s.recalled := rfl
@[simp] theorem State.setTeam_revs (s : State) (k : Nat) (x : Team) : (s.setTeam k x).revs = s.revs := rfl
@[simp] theorem State.setTeam_preMcost (s : State) (k : Nat) (x : Team) : (s.setTeam k x).preMcost = s.preMcost := rfl
@[simp] theorem State.setTeam_preIter (s : State) (k : Nat) (x : Team) : (s.setTeam k x).preIter = s.preIter := rfl
@[simp] theorem State.setTeam_pkg (s : State) (k : Nat) (x : Team) : (s.setTeam k x).pkg = s.pkg := rfl
@[simp] theorem State.setTeam_hostMode (s : State) (k : Nat) (x : Team) : (s.setTeam k x).hostMode = s.hostMode := rfl
@[simp] theorem State.setTeam_links (s : State) (k : Nat) (x : Team) : (s.setTeam k x).links = s.links := rfl
@[simp] theorem State.setTeam_pcieUp (s : State) (k : Nat) (x : Team) : (s.setTeam k x).pcieUp = s.pcieUp := rfl
@[simp] theorem State.setTeam_hostMem (s : State) (k : Nat) (x : Team) : (s.setTeam k x).hostMem = s.hostMem := rfl
@[simp] theorem State.setTeam_hostAborts (s : State) (k : Nat) (x : Team) : (s.setTeam k x).hostAborts = s.hostAborts := rfl
@[simp] theorem State.setTeam_belv (s : State) (k : Nat) (x : Team) : (s.setTeam k x).belv = s.belv := rfl
@[simp] theorem State.setTeam_out (s : State) (k : Nat) (x : Team) : (s.setTeam k x).out = s.out := rfl
@[simp] theorem State.setTeam_accums (s : State) (k : Nat) (x : Team) : (s.setTeam k x).accums = s.accums := rfl
@[simp] theorem State.setTeam_jobs (s : State) (k : Nat) (x : Team) : (s.setTeam k x).jobs = s.jobs := rfl
@[simp] theorem State.setTeam_pages (s : State) (k : Nat) (x : Team) : (s.setTeam k x).pages = s.pages := rfl
@[simp] theorem State.setTeam_insts (s : State) (k : Nat) (x : Team) : (s.setTeam k x).insts = s.insts := rfl
@[simp] theorem State.setTeam_cores (s : State) (k : Nat) (x : Team) : (s.setTeam k x).cores = s.cores := rfl
@[simp] theorem State.setTeam_clusters (s : State) (k : Nat) (x : Team) : (s.setTeam k x).clusters = s.clusters := rfl
@[simp] theorem State.setTeam_parts (s : State) (k : Nat) (x : Team) : (s.setTeam k x).parts = s.parts := rfl
@[simp] theorem State.setTeam_pending (s : State) (k : Nat) (x : Team) : (s.setTeam k x).pending = s.pending := rfl
@[simp] theorem State.setTeam_fltTag (s : State) (k : Nat) (x : Team) : (s.setTeam k x).fltTag = s.fltTag := rfl
@[simp] theorem State.setTeam_samp (s : State) (k : Nat) (x : Team) : (s.setTeam k x).samp = s.samp := rfl
@[simp] theorem State.setTeam_lodge (s : State) (k : Nat) (x : Team) : (s.setTeam k x).lodge = s.lodge := rfl

/-! ### `modTeam` -/

@[simp] theorem State.modTeam_agenda (s : State) (k : Nat) (f : Team → Team) : (s.modTeam k f).agenda = s.agenda := rfl
@[simp] theorem State.modTeam_tick (s : State) (k : Nat) (f : Team → Team) : (s.modTeam k f).tick = s.tick := rfl
@[simp] theorem State.modTeam_cur (s : State) (k : Nat) (f : Team → Team) : (s.modTeam k f).cur = s.cur := rfl
@[simp] theorem State.modTeam_iw (s : State) (k : Nat) (f : Team → Team) : (s.modTeam k f).iw = s.iw := rfl
@[simp] theorem State.modTeam_ev (s : State) (k : Nat) (f : Team → Team) : (s.modTeam k f).ev = s.ev := rfl
@[simp] theorem State.modTeam_readData (s : State) (k : Nat) (f : Team → Team) : (s.modTeam k f).readData = s.readData := rfl
@[simp] theorem State.modTeam_nextId (s : State) (k : Nat) (f : Team → Team) : (s.modTeam k f).nextId = s.nextId := rfl
@[simp] theorem State.modTeam_now (s : State) (k : Nat) (f : Team → Team) : (s.modTeam k f).now = s.now := rfl
@[simp] theorem State.modTeam_cycle (s : State) (k : Nat) (f : Team → Team) : (s.modTeam k f).cycle = s.cycle := rfl
@[simp] theorem State.modTeam_mem (s : State) (k : Nat) (f : Team → Team) : (s.modTeam k f).mem = s.mem := rfl
@[simp] theorem State.modTeam_l1 (s : State) (k : Nat) (f : Team → Team) : (s.modTeam k f).l1 = s.l1 := rfl
@[simp] theorem State.modTeam_tlb (s : State) (k : Nat) (f : Team → Team) : (s.modTeam k f).tlb = s.tlb := rfl
@[simp] theorem State.modTeam_walks (s : State) (k : Nat) (f : Team → Team) : (s.modTeam k f).walks = s.walks := rfl
@[simp] theorem State.modTeam_bad (s : State) (k : Nat) (f : Team → Team) : (s.modTeam k f).bad = s.bad := rfl
@[simp] theorem State.modTeam_quar (s : State) (k : Nat) (f : Team → Team) : (s.modTeam k f).quar = s.quar := rfl
@[simp] theorem State.modTeam_badStore (s : State) (k : Nat) (f : Team → Team) : (s.modTeam k f).badStore = s.badStore := rfl
@[simp] theorem State.modTeam_promo (s : State) (k : Nat) (f : Team → Team) : (s.modTeam k f).promo = s.promo := rfl
@[simp] theorem State.modTeam_recalled (s : State) (k : Nat) (f : Team → Team) : (s.modTeam k f).recalled = s.recalled := rfl
@[simp] theorem State.modTeam_revs (s : State) (k : Nat) (f : Team → Team) : (s.modTeam k f).revs = s.revs := rfl
@[simp] theorem State.modTeam_preMcost (s : State) (k : Nat) (f : Team → Team) : (s.modTeam k f).preMcost = s.preMcost := rfl
@[simp] theorem State.modTeam_preIter (s : State) (k : Nat) (f : Team → Team) : (s.modTeam k f).preIter = s.preIter := rfl
@[simp] theorem State.modTeam_pkg (s : State) (k : Nat) (f : Team → Team) : (s.modTeam k f).pkg = s.pkg := rfl
@[simp] theorem State.modTeam_hostMode (s : State) (k : Nat) (f : Team → Team) : (s.modTeam k f).hostMode = s.hostMode := rfl
@[simp] theorem State.modTeam_links (s : State) (k : Nat) (f : Team → Team) : (s.modTeam k f).links = s.links := rfl
@[simp] theorem State.modTeam_pcieUp (s : State) (k : Nat) (f : Team → Team) : (s.modTeam k f).pcieUp = s.pcieUp := rfl
@[simp] theorem State.modTeam_hostMem (s : State) (k : Nat) (f : Team → Team) : (s.modTeam k f).hostMem = s.hostMem := rfl
@[simp] theorem State.modTeam_hostAborts (s : State) (k : Nat) (f : Team → Team) : (s.modTeam k f).hostAborts = s.hostAborts := rfl
@[simp] theorem State.modTeam_belv (s : State) (k : Nat) (f : Team → Team) : (s.modTeam k f).belv = s.belv := rfl
@[simp] theorem State.modTeam_out (s : State) (k : Nat) (f : Team → Team) : (s.modTeam k f).out = s.out := rfl
@[simp] theorem State.modTeam_accums (s : State) (k : Nat) (f : Team → Team) : (s.modTeam k f).accums = s.accums := rfl
@[simp] theorem State.modTeam_jobs (s : State) (k : Nat) (f : Team → Team) : (s.modTeam k f).jobs = s.jobs := rfl
@[simp] theorem State.modTeam_pages (s : State) (k : Nat) (f : Team → Team) : (s.modTeam k f).pages = s.pages := rfl
@[simp] theorem State.modTeam_insts (s : State) (k : Nat) (f : Team → Team) : (s.modTeam k f).insts = s.insts := rfl
@[simp] theorem State.modTeam_cores (s : State) (k : Nat) (f : Team → Team) : (s.modTeam k f).cores = s.cores := rfl
@[simp] theorem State.modTeam_clusters (s : State) (k : Nat) (f : Team → Team) : (s.modTeam k f).clusters = s.clusters := rfl
@[simp] theorem State.modTeam_parts (s : State) (k : Nat) (f : Team → Team) : (s.modTeam k f).parts = s.parts := rfl
@[simp] theorem State.modTeam_pending (s : State) (k : Nat) (f : Team → Team) : (s.modTeam k f).pending = s.pending := rfl
@[simp] theorem State.modTeam_fltTag (s : State) (k : Nat) (f : Team → Team) : (s.modTeam k f).fltTag = s.fltTag := rfl
@[simp] theorem State.modTeam_samp (s : State) (k : Nat) (f : Team → Team) : (s.modTeam k f).samp = s.samp := rfl
@[simp] theorem State.modTeam_lodge (s : State) (k : Nat) (f : Team → Team) : (s.modTeam k f).lodge = s.lodge := rfl

/-! ### `modGroup` -/

@[simp] theorem State.modGroup_agenda (s : State) (k g : Nat) (f : Group → Group) : (s.modGroup k g f).agenda = s.agenda := rfl
@[simp] theorem State.modGroup_tick (s : State) (k g : Nat) (f : Group → Group) : (s.modGroup k g f).tick = s.tick := rfl
@[simp] theorem State.modGroup_cur (s : State) (k g : Nat) (f : Group → Group) : (s.modGroup k g f).cur = s.cur := rfl
@[simp] theorem State.modGroup_iw (s : State) (k g : Nat) (f : Group → Group) : (s.modGroup k g f).iw = s.iw := rfl
@[simp] theorem State.modGroup_ev (s : State) (k g : Nat) (f : Group → Group) : (s.modGroup k g f).ev = s.ev := rfl
@[simp] theorem State.modGroup_readData (s : State) (k g : Nat) (f : Group → Group) : (s.modGroup k g f).readData = s.readData := rfl
@[simp] theorem State.modGroup_nextId (s : State) (k g : Nat) (f : Group → Group) : (s.modGroup k g f).nextId = s.nextId := rfl
@[simp] theorem State.modGroup_now (s : State) (k g : Nat) (f : Group → Group) : (s.modGroup k g f).now = s.now := rfl
@[simp] theorem State.modGroup_cycle (s : State) (k g : Nat) (f : Group → Group) : (s.modGroup k g f).cycle = s.cycle := rfl
@[simp] theorem State.modGroup_mem (s : State) (k g : Nat) (f : Group → Group) : (s.modGroup k g f).mem = s.mem := rfl
@[simp] theorem State.modGroup_l1 (s : State) (k g : Nat) (f : Group → Group) : (s.modGroup k g f).l1 = s.l1 := rfl
@[simp] theorem State.modGroup_tlb (s : State) (k g : Nat) (f : Group → Group) : (s.modGroup k g f).tlb = s.tlb := rfl
@[simp] theorem State.modGroup_walks (s : State) (k g : Nat) (f : Group → Group) : (s.modGroup k g f).walks = s.walks := rfl
@[simp] theorem State.modGroup_bad (s : State) (k g : Nat) (f : Group → Group) : (s.modGroup k g f).bad = s.bad := rfl
@[simp] theorem State.modGroup_quar (s : State) (k g : Nat) (f : Group → Group) : (s.modGroup k g f).quar = s.quar := rfl
@[simp] theorem State.modGroup_badStore (s : State) (k g : Nat) (f : Group → Group) : (s.modGroup k g f).badStore = s.badStore := rfl
@[simp] theorem State.modGroup_promo (s : State) (k g : Nat) (f : Group → Group) : (s.modGroup k g f).promo = s.promo := rfl
@[simp] theorem State.modGroup_recalled (s : State) (k g : Nat) (f : Group → Group) : (s.modGroup k g f).recalled = s.recalled := rfl
@[simp] theorem State.modGroup_revs (s : State) (k g : Nat) (f : Group → Group) : (s.modGroup k g f).revs = s.revs := rfl
@[simp] theorem State.modGroup_preMcost (s : State) (k g : Nat) (f : Group → Group) : (s.modGroup k g f).preMcost = s.preMcost := rfl
@[simp] theorem State.modGroup_preIter (s : State) (k g : Nat) (f : Group → Group) : (s.modGroup k g f).preIter = s.preIter := rfl
@[simp] theorem State.modGroup_pkg (s : State) (k g : Nat) (f : Group → Group) : (s.modGroup k g f).pkg = s.pkg := rfl
@[simp] theorem State.modGroup_hostMode (s : State) (k g : Nat) (f : Group → Group) : (s.modGroup k g f).hostMode = s.hostMode := rfl
@[simp] theorem State.modGroup_links (s : State) (k g : Nat) (f : Group → Group) : (s.modGroup k g f).links = s.links := rfl
@[simp] theorem State.modGroup_pcieUp (s : State) (k g : Nat) (f : Group → Group) : (s.modGroup k g f).pcieUp = s.pcieUp := rfl
@[simp] theorem State.modGroup_hostMem (s : State) (k g : Nat) (f : Group → Group) : (s.modGroup k g f).hostMem = s.hostMem := rfl
@[simp] theorem State.modGroup_hostAborts (s : State) (k g : Nat) (f : Group → Group) : (s.modGroup k g f).hostAborts = s.hostAborts := rfl
@[simp] theorem State.modGroup_belv (s : State) (k g : Nat) (f : Group → Group) : (s.modGroup k g f).belv = s.belv := rfl
@[simp] theorem State.modGroup_out (s : State) (k g : Nat) (f : Group → Group) : (s.modGroup k g f).out = s.out := rfl
@[simp] theorem State.modGroup_accums (s : State) (k g : Nat) (f : Group → Group) : (s.modGroup k g f).accums = s.accums := rfl
@[simp] theorem State.modGroup_jobs (s : State) (k g : Nat) (f : Group → Group) : (s.modGroup k g f).jobs = s.jobs := rfl
@[simp] theorem State.modGroup_pages (s : State) (k g : Nat) (f : Group → Group) : (s.modGroup k g f).pages = s.pages := rfl
@[simp] theorem State.modGroup_insts (s : State) (k g : Nat) (f : Group → Group) : (s.modGroup k g f).insts = s.insts := rfl
@[simp] theorem State.modGroup_cores (s : State) (k g : Nat) (f : Group → Group) : (s.modGroup k g f).cores = s.cores := rfl
@[simp] theorem State.modGroup_clusters (s : State) (k g : Nat) (f : Group → Group) : (s.modGroup k g f).clusters = s.clusters := rfl
@[simp] theorem State.modGroup_parts (s : State) (k g : Nat) (f : Group → Group) : (s.modGroup k g f).parts = s.parts := rfl
@[simp] theorem State.modGroup_pending (s : State) (k g : Nat) (f : Group → Group) : (s.modGroup k g f).pending = s.pending := rfl
@[simp] theorem State.modGroup_fltTag (s : State) (k g : Nat) (f : Group → Group) : (s.modGroup k g f).fltTag = s.fltTag := rfl
@[simp] theorem State.modGroup_samp (s : State) (k g : Nat) (f : Group → Group) : (s.modGroup k g f).samp = s.samp := rfl
@[simp] theorem State.modGroup_lodge (s : State) (k g : Nat) (f : Group → Group) : (s.modGroup k g f).lodge = s.lodge := rfl

/-! ### `modCtrl` -/

@[simp] theorem State.modCtrl_agenda (s : State) (k : Nat) (f : CtrlState → CtrlState) : (s.modCtrl k f).agenda = s.agenda := rfl
@[simp] theorem State.modCtrl_tick (s : State) (k : Nat) (f : CtrlState → CtrlState) : (s.modCtrl k f).tick = s.tick := rfl
@[simp] theorem State.modCtrl_cur (s : State) (k : Nat) (f : CtrlState → CtrlState) : (s.modCtrl k f).cur = s.cur := rfl
@[simp] theorem State.modCtrl_iw (s : State) (k : Nat) (f : CtrlState → CtrlState) : (s.modCtrl k f).iw = s.iw := rfl
@[simp] theorem State.modCtrl_ev (s : State) (k : Nat) (f : CtrlState → CtrlState) : (s.modCtrl k f).ev = s.ev := rfl
@[simp] theorem State.modCtrl_readData (s : State) (k : Nat) (f : CtrlState → CtrlState) : (s.modCtrl k f).readData = s.readData := rfl
@[simp] theorem State.modCtrl_nextId (s : State) (k : Nat) (f : CtrlState → CtrlState) : (s.modCtrl k f).nextId = s.nextId := rfl
@[simp] theorem State.modCtrl_now (s : State) (k : Nat) (f : CtrlState → CtrlState) : (s.modCtrl k f).now = s.now := rfl
@[simp] theorem State.modCtrl_cycle (s : State) (k : Nat) (f : CtrlState → CtrlState) : (s.modCtrl k f).cycle = s.cycle := rfl
@[simp] theorem State.modCtrl_mem (s : State) (k : Nat) (f : CtrlState → CtrlState) : (s.modCtrl k f).mem = s.mem := rfl
@[simp] theorem State.modCtrl_l1 (s : State) (k : Nat) (f : CtrlState → CtrlState) : (s.modCtrl k f).l1 = s.l1 := rfl
@[simp] theorem State.modCtrl_tlb (s : State) (k : Nat) (f : CtrlState → CtrlState) : (s.modCtrl k f).tlb = s.tlb := rfl
@[simp] theorem State.modCtrl_walks (s : State) (k : Nat) (f : CtrlState → CtrlState) : (s.modCtrl k f).walks = s.walks := rfl
@[simp] theorem State.modCtrl_bad (s : State) (k : Nat) (f : CtrlState → CtrlState) : (s.modCtrl k f).bad = s.bad := rfl
@[simp] theorem State.modCtrl_quar (s : State) (k : Nat) (f : CtrlState → CtrlState) : (s.modCtrl k f).quar = s.quar := rfl
@[simp] theorem State.modCtrl_badStore (s : State) (k : Nat) (f : CtrlState → CtrlState) : (s.modCtrl k f).badStore = s.badStore := rfl
@[simp] theorem State.modCtrl_promo (s : State) (k : Nat) (f : CtrlState → CtrlState) : (s.modCtrl k f).promo = s.promo := rfl
@[simp] theorem State.modCtrl_recalled (s : State) (k : Nat) (f : CtrlState → CtrlState) : (s.modCtrl k f).recalled = s.recalled := rfl
@[simp] theorem State.modCtrl_revs (s : State) (k : Nat) (f : CtrlState → CtrlState) : (s.modCtrl k f).revs = s.revs := rfl
@[simp] theorem State.modCtrl_preMcost (s : State) (k : Nat) (f : CtrlState → CtrlState) : (s.modCtrl k f).preMcost = s.preMcost := rfl
@[simp] theorem State.modCtrl_preIter (s : State) (k : Nat) (f : CtrlState → CtrlState) : (s.modCtrl k f).preIter = s.preIter := rfl
@[simp] theorem State.modCtrl_pkg (s : State) (k : Nat) (f : CtrlState → CtrlState) : (s.modCtrl k f).pkg = s.pkg := rfl
@[simp] theorem State.modCtrl_hostMode (s : State) (k : Nat) (f : CtrlState → CtrlState) : (s.modCtrl k f).hostMode = s.hostMode := rfl
@[simp] theorem State.modCtrl_links (s : State) (k : Nat) (f : CtrlState → CtrlState) : (s.modCtrl k f).links = s.links := rfl
@[simp] theorem State.modCtrl_pcieUp (s : State) (k : Nat) (f : CtrlState → CtrlState) : (s.modCtrl k f).pcieUp = s.pcieUp := rfl
@[simp] theorem State.modCtrl_hostMem (s : State) (k : Nat) (f : CtrlState → CtrlState) : (s.modCtrl k f).hostMem = s.hostMem := rfl
@[simp] theorem State.modCtrl_hostAborts (s : State) (k : Nat) (f : CtrlState → CtrlState) : (s.modCtrl k f).hostAborts = s.hostAborts := rfl
@[simp] theorem State.modCtrl_belv (s : State) (k : Nat) (f : CtrlState → CtrlState) : (s.modCtrl k f).belv = s.belv := rfl
@[simp] theorem State.modCtrl_out (s : State) (k : Nat) (f : CtrlState → CtrlState) : (s.modCtrl k f).out = s.out := rfl
@[simp] theorem State.modCtrl_accums (s : State) (k : Nat) (f : CtrlState → CtrlState) : (s.modCtrl k f).accums = s.accums := rfl
@[simp] theorem State.modCtrl_jobs (s : State) (k : Nat) (f : CtrlState → CtrlState) : (s.modCtrl k f).jobs = s.jobs := rfl
@[simp] theorem State.modCtrl_pages (s : State) (k : Nat) (f : CtrlState → CtrlState) : (s.modCtrl k f).pages = s.pages := rfl
@[simp] theorem State.modCtrl_insts (s : State) (k : Nat) (f : CtrlState → CtrlState) : (s.modCtrl k f).insts = s.insts := rfl
@[simp] theorem State.modCtrl_cores (s : State) (k : Nat) (f : CtrlState → CtrlState) : (s.modCtrl k f).cores = s.cores := rfl
@[simp] theorem State.modCtrl_clusters (s : State) (k : Nat) (f : CtrlState → CtrlState) : (s.modCtrl k f).clusters = s.clusters := rfl
@[simp] theorem State.modCtrl_parts (s : State) (k : Nat) (f : CtrlState → CtrlState) : (s.modCtrl k f).parts = s.parts := rfl
@[simp] theorem State.modCtrl_pending (s : State) (k : Nat) (f : CtrlState → CtrlState) : (s.modCtrl k f).pending = s.pending := rfl
@[simp] theorem State.modCtrl_fltTag (s : State) (k : Nat) (f : CtrlState → CtrlState) : (s.modCtrl k f).fltTag = s.fltTag := rfl
@[simp] theorem State.modCtrl_samp (s : State) (k : Nat) (f : CtrlState → CtrlState) : (s.modCtrl k f).samp = s.samp := rfl
@[simp] theorem State.modCtrl_lodge (s : State) (k : Nat) (f : CtrlState → CtrlState) : (s.modCtrl k f).lodge = s.lodge := rfl

/-! ### `modCtx` -/

@[simp] theorem State.modCtx_agenda (s : State) (c : Ctx) (f : CtxState → CtxState) : (s.modCtx c f).agenda = s.agenda := by cases c <;> rfl
@[simp] theorem State.modCtx_tick (s : State) (c : Ctx) (f : CtxState → CtxState) : (s.modCtx c f).tick = s.tick := by cases c <;> rfl
@[simp] theorem State.modCtx_cur (s : State) (c : Ctx) (f : CtxState → CtxState) : (s.modCtx c f).cur = s.cur := by cases c <;> rfl
@[simp] theorem State.modCtx_iw (s : State) (c : Ctx) (f : CtxState → CtxState) : (s.modCtx c f).iw = s.iw := by cases c <;> rfl
@[simp] theorem State.modCtx_ev (s : State) (c : Ctx) (f : CtxState → CtxState) : (s.modCtx c f).ev = s.ev := by cases c <;> rfl
@[simp] theorem State.modCtx_readData (s : State) (c : Ctx) (f : CtxState → CtxState) : (s.modCtx c f).readData = s.readData := by cases c <;> rfl
@[simp] theorem State.modCtx_nextId (s : State) (c : Ctx) (f : CtxState → CtxState) : (s.modCtx c f).nextId = s.nextId := by cases c <;> rfl
@[simp] theorem State.modCtx_now (s : State) (c : Ctx) (f : CtxState → CtxState) : (s.modCtx c f).now = s.now := by cases c <;> rfl
@[simp] theorem State.modCtx_cycle (s : State) (c : Ctx) (f : CtxState → CtxState) : (s.modCtx c f).cycle = s.cycle := by cases c <;> rfl
@[simp] theorem State.modCtx_mem (s : State) (c : Ctx) (f : CtxState → CtxState) : (s.modCtx c f).mem = s.mem := by cases c <;> rfl
@[simp] theorem State.modCtx_l1 (s : State) (c : Ctx) (f : CtxState → CtxState) : (s.modCtx c f).l1 = s.l1 := by cases c <;> rfl
@[simp] theorem State.modCtx_tlb (s : State) (c : Ctx) (f : CtxState → CtxState) : (s.modCtx c f).tlb = s.tlb := by cases c <;> rfl
@[simp] theorem State.modCtx_walks (s : State) (c : Ctx) (f : CtxState → CtxState) : (s.modCtx c f).walks = s.walks := by cases c <;> rfl
@[simp] theorem State.modCtx_bad (s : State) (c : Ctx) (f : CtxState → CtxState) : (s.modCtx c f).bad = s.bad := by cases c <;> rfl
@[simp] theorem State.modCtx_quar (s : State) (c : Ctx) (f : CtxState → CtxState) : (s.modCtx c f).quar = s.quar := by cases c <;> rfl
@[simp] theorem State.modCtx_badStore (s : State) (c : Ctx) (f : CtxState → CtxState) : (s.modCtx c f).badStore = s.badStore := by cases c <;> rfl
@[simp] theorem State.modCtx_promo (s : State) (c : Ctx) (f : CtxState → CtxState) : (s.modCtx c f).promo = s.promo := by cases c <;> rfl
@[simp] theorem State.modCtx_recalled (s : State) (c : Ctx) (f : CtxState → CtxState) : (s.modCtx c f).recalled = s.recalled := by cases c <;> rfl
@[simp] theorem State.modCtx_revs (s : State) (c : Ctx) (f : CtxState → CtxState) : (s.modCtx c f).revs = s.revs := by cases c <;> rfl
@[simp] theorem State.modCtx_preMcost (s : State) (c : Ctx) (f : CtxState → CtxState) : (s.modCtx c f).preMcost = s.preMcost := by cases c <;> rfl
@[simp] theorem State.modCtx_preIter (s : State) (c : Ctx) (f : CtxState → CtxState) : (s.modCtx c f).preIter = s.preIter := by cases c <;> rfl
@[simp] theorem State.modCtx_pkg (s : State) (c : Ctx) (f : CtxState → CtxState) : (s.modCtx c f).pkg = s.pkg := by cases c <;> rfl
@[simp] theorem State.modCtx_hostMode (s : State) (c : Ctx) (f : CtxState → CtxState) : (s.modCtx c f).hostMode = s.hostMode := by cases c <;> rfl
@[simp] theorem State.modCtx_links (s : State) (c : Ctx) (f : CtxState → CtxState) : (s.modCtx c f).links = s.links := by cases c <;> rfl
@[simp] theorem State.modCtx_pcieUp (s : State) (c : Ctx) (f : CtxState → CtxState) : (s.modCtx c f).pcieUp = s.pcieUp := by cases c <;> rfl
@[simp] theorem State.modCtx_hostMem (s : State) (c : Ctx) (f : CtxState → CtxState) : (s.modCtx c f).hostMem = s.hostMem := by cases c <;> rfl
@[simp] theorem State.modCtx_hostAborts (s : State) (c : Ctx) (f : CtxState → CtxState) : (s.modCtx c f).hostAborts = s.hostAborts := by cases c <;> rfl
@[simp] theorem State.modCtx_belv (s : State) (c : Ctx) (f : CtxState → CtxState) : (s.modCtx c f).belv = s.belv := by cases c <;> rfl
@[simp] theorem State.modCtx_out (s : State) (c : Ctx) (f : CtxState → CtxState) : (s.modCtx c f).out = s.out := by cases c <;> rfl
@[simp] theorem State.modCtx_accums (s : State) (c : Ctx) (f : CtxState → CtxState) : (s.modCtx c f).accums = s.accums := by cases c <;> rfl
@[simp] theorem State.modCtx_jobs (s : State) (c : Ctx) (f : CtxState → CtxState) : (s.modCtx c f).jobs = s.jobs := by cases c <;> rfl
@[simp] theorem State.modCtx_pages (s : State) (c : Ctx) (f : CtxState → CtxState) : (s.modCtx c f).pages = s.pages := by cases c <;> rfl
@[simp] theorem State.modCtx_insts (s : State) (c : Ctx) (f : CtxState → CtxState) : (s.modCtx c f).insts = s.insts := by cases c <;> rfl
@[simp] theorem State.modCtx_cores (s : State) (c : Ctx) (f : CtxState → CtxState) : (s.modCtx c f).cores = s.cores := by cases c <;> rfl
@[simp] theorem State.modCtx_clusters (s : State) (c : Ctx) (f : CtxState → CtxState) : (s.modCtx c f).clusters = s.clusters := by cases c <;> rfl
@[simp] theorem State.modCtx_parts (s : State) (c : Ctx) (f : CtxState → CtxState) : (s.modCtx c f).parts = s.parts := by cases c <;> rfl
@[simp] theorem State.modCtx_pending (s : State) (c : Ctx) (f : CtxState → CtxState) : (s.modCtx c f).pending = s.pending := by cases c <;> rfl
@[simp] theorem State.modCtx_fltTag (s : State) (c : Ctx) (f : CtxState → CtxState) : (s.modCtx c f).fltTag = s.fltTag := by cases c <;> rfl
@[simp] theorem State.modCtx_samp (s : State) (c : Ctx) (f : CtxState → CtxState) : (s.modCtx c f).samp = s.samp := by cases c <;> rfl
@[simp] theorem State.modCtx_lodge (s : State) (c : Ctx) (f : CtxState → CtxState) : (s.modCtx c f).lodge = s.lodge := by cases c <;> rfl

/-! ### `modRun` -/

@[simp] theorem State.modRun_agenda (s : State) (c : Ctx) (f : RecRun → RecRun) : (s.modRun c f).agenda = s.agenda := by cases c <;> rfl
@[simp] theorem State.modRun_tick (s : State) (c : Ctx) (f : RecRun → RecRun) : (s.modRun c f).tick = s.tick := by cases c <;> rfl
@[simp] theorem State.modRun_cur (s : State) (c : Ctx) (f : RecRun → RecRun) : (s.modRun c f).cur = s.cur := by cases c <;> rfl
@[simp] theorem State.modRun_iw (s : State) (c : Ctx) (f : RecRun → RecRun) : (s.modRun c f).iw = s.iw := by cases c <;> rfl
@[simp] theorem State.modRun_ev (s : State) (c : Ctx) (f : RecRun → RecRun) : (s.modRun c f).ev = s.ev := by cases c <;> rfl
@[simp] theorem State.modRun_readData (s : State) (c : Ctx) (f : RecRun → RecRun) : (s.modRun c f).readData = s.readData := by cases c <;> rfl
@[simp] theorem State.modRun_nextId (s : State) (c : Ctx) (f : RecRun → RecRun) : (s.modRun c f).nextId = s.nextId := by cases c <;> rfl
@[simp] theorem State.modRun_now (s : State) (c : Ctx) (f : RecRun → RecRun) : (s.modRun c f).now = s.now := by cases c <;> rfl
@[simp] theorem State.modRun_cycle (s : State) (c : Ctx) (f : RecRun → RecRun) : (s.modRun c f).cycle = s.cycle := by cases c <;> rfl
@[simp] theorem State.modRun_mem (s : State) (c : Ctx) (f : RecRun → RecRun) : (s.modRun c f).mem = s.mem := by cases c <;> rfl
@[simp] theorem State.modRun_l1 (s : State) (c : Ctx) (f : RecRun → RecRun) : (s.modRun c f).l1 = s.l1 := by cases c <;> rfl
@[simp] theorem State.modRun_tlb (s : State) (c : Ctx) (f : RecRun → RecRun) : (s.modRun c f).tlb = s.tlb := by cases c <;> rfl
@[simp] theorem State.modRun_walks (s : State) (c : Ctx) (f : RecRun → RecRun) : (s.modRun c f).walks = s.walks := by cases c <;> rfl
@[simp] theorem State.modRun_bad (s : State) (c : Ctx) (f : RecRun → RecRun) : (s.modRun c f).bad = s.bad := by cases c <;> rfl
@[simp] theorem State.modRun_quar (s : State) (c : Ctx) (f : RecRun → RecRun) : (s.modRun c f).quar = s.quar := by cases c <;> rfl
@[simp] theorem State.modRun_badStore (s : State) (c : Ctx) (f : RecRun → RecRun) : (s.modRun c f).badStore = s.badStore := by cases c <;> rfl
@[simp] theorem State.modRun_promo (s : State) (c : Ctx) (f : RecRun → RecRun) : (s.modRun c f).promo = s.promo := by cases c <;> rfl
@[simp] theorem State.modRun_recalled (s : State) (c : Ctx) (f : RecRun → RecRun) : (s.modRun c f).recalled = s.recalled := by cases c <;> rfl
@[simp] theorem State.modRun_revs (s : State) (c : Ctx) (f : RecRun → RecRun) : (s.modRun c f).revs = s.revs := by cases c <;> rfl
@[simp] theorem State.modRun_preMcost (s : State) (c : Ctx) (f : RecRun → RecRun) : (s.modRun c f).preMcost = s.preMcost := by cases c <;> rfl
@[simp] theorem State.modRun_preIter (s : State) (c : Ctx) (f : RecRun → RecRun) : (s.modRun c f).preIter = s.preIter := by cases c <;> rfl
@[simp] theorem State.modRun_pkg (s : State) (c : Ctx) (f : RecRun → RecRun) : (s.modRun c f).pkg = s.pkg := by cases c <;> rfl
@[simp] theorem State.modRun_hostMode (s : State) (c : Ctx) (f : RecRun → RecRun) : (s.modRun c f).hostMode = s.hostMode := by cases c <;> rfl
@[simp] theorem State.modRun_links (s : State) (c : Ctx) (f : RecRun → RecRun) : (s.modRun c f).links = s.links := by cases c <;> rfl
@[simp] theorem State.modRun_pcieUp (s : State) (c : Ctx) (f : RecRun → RecRun) : (s.modRun c f).pcieUp = s.pcieUp := by cases c <;> rfl
@[simp] theorem State.modRun_hostMem (s : State) (c : Ctx) (f : RecRun → RecRun) : (s.modRun c f).hostMem = s.hostMem := by cases c <;> rfl
@[simp] theorem State.modRun_hostAborts (s : State) (c : Ctx) (f : RecRun → RecRun) : (s.modRun c f).hostAborts = s.hostAborts := by cases c <;> rfl
@[simp] theorem State.modRun_belv (s : State) (c : Ctx) (f : RecRun → RecRun) : (s.modRun c f).belv = s.belv := by cases c <;> rfl
@[simp] theorem State.modRun_out (s : State) (c : Ctx) (f : RecRun → RecRun) : (s.modRun c f).out = s.out := by cases c <;> rfl
@[simp] theorem State.modRun_accums (s : State) (c : Ctx) (f : RecRun → RecRun) : (s.modRun c f).accums = s.accums := by cases c <;> rfl
@[simp] theorem State.modRun_jobs (s : State) (c : Ctx) (f : RecRun → RecRun) : (s.modRun c f).jobs = s.jobs := by cases c <;> rfl
@[simp] theorem State.modRun_pages (s : State) (c : Ctx) (f : RecRun → RecRun) : (s.modRun c f).pages = s.pages := by cases c <;> rfl
@[simp] theorem State.modRun_insts (s : State) (c : Ctx) (f : RecRun → RecRun) : (s.modRun c f).insts = s.insts := by cases c <;> rfl
@[simp] theorem State.modRun_cores (s : State) (c : Ctx) (f : RecRun → RecRun) : (s.modRun c f).cores = s.cores := by cases c <;> rfl
@[simp] theorem State.modRun_clusters (s : State) (c : Ctx) (f : RecRun → RecRun) : (s.modRun c f).clusters = s.clusters := by cases c <;> rfl
@[simp] theorem State.modRun_parts (s : State) (c : Ctx) (f : RecRun → RecRun) : (s.modRun c f).parts = s.parts := by cases c <;> rfl
@[simp] theorem State.modRun_pending (s : State) (c : Ctx) (f : RecRun → RecRun) : (s.modRun c f).pending = s.pending := by cases c <;> rfl
@[simp] theorem State.modRun_fltTag (s : State) (c : Ctx) (f : RecRun → RecRun) : (s.modRun c f).fltTag = s.fltTag := by cases c <;> rfl
@[simp] theorem State.modRun_samp (s : State) (c : Ctx) (f : RecRun → RecRun) : (s.modRun c f).samp = s.samp := by cases c <;> rfl
@[simp] theorem State.modRun_lodge (s : State) (c : Ctx) (f : RecRun → RecRun) : (s.modRun c f).lodge = s.lodge := by cases c <;> rfl

/-! ### `setGen` -/

@[simp] theorem State.setGen_agenda (s : State) (c : Ctx) (v : W32) : (s.setGen c v).agenda = s.agenda := by cases c <;> rfl
@[simp] theorem State.setGen_tick (s : State) (c : Ctx) (v : W32) : (s.setGen c v).tick = s.tick := by cases c <;> rfl
@[simp] theorem State.setGen_cur (s : State) (c : Ctx) (v : W32) : (s.setGen c v).cur = s.cur := by cases c <;> rfl
@[simp] theorem State.setGen_iw (s : State) (c : Ctx) (v : W32) : (s.setGen c v).iw = s.iw := by cases c <;> rfl
@[simp] theorem State.setGen_ev (s : State) (c : Ctx) (v : W32) : (s.setGen c v).ev = s.ev := by cases c <;> rfl
@[simp] theorem State.setGen_readData (s : State) (c : Ctx) (v : W32) : (s.setGen c v).readData = s.readData := by cases c <;> rfl
@[simp] theorem State.setGen_nextId (s : State) (c : Ctx) (v : W32) : (s.setGen c v).nextId = s.nextId := by cases c <;> rfl
@[simp] theorem State.setGen_now (s : State) (c : Ctx) (v : W32) : (s.setGen c v).now = s.now := by cases c <;> rfl
@[simp] theorem State.setGen_cycle (s : State) (c : Ctx) (v : W32) : (s.setGen c v).cycle = s.cycle := by cases c <;> rfl
@[simp] theorem State.setGen_mem (s : State) (c : Ctx) (v : W32) : (s.setGen c v).mem = s.mem := by cases c <;> rfl
@[simp] theorem State.setGen_l1 (s : State) (c : Ctx) (v : W32) : (s.setGen c v).l1 = s.l1 := by cases c <;> rfl
@[simp] theorem State.setGen_tlb (s : State) (c : Ctx) (v : W32) : (s.setGen c v).tlb = s.tlb := by cases c <;> rfl
@[simp] theorem State.setGen_walks (s : State) (c : Ctx) (v : W32) : (s.setGen c v).walks = s.walks := by cases c <;> rfl
@[simp] theorem State.setGen_bad (s : State) (c : Ctx) (v : W32) : (s.setGen c v).bad = s.bad := by cases c <;> rfl
@[simp] theorem State.setGen_quar (s : State) (c : Ctx) (v : W32) : (s.setGen c v).quar = s.quar := by cases c <;> rfl
@[simp] theorem State.setGen_badStore (s : State) (c : Ctx) (v : W32) : (s.setGen c v).badStore = s.badStore := by cases c <;> rfl
@[simp] theorem State.setGen_promo (s : State) (c : Ctx) (v : W32) : (s.setGen c v).promo = s.promo := by cases c <;> rfl
@[simp] theorem State.setGen_recalled (s : State) (c : Ctx) (v : W32) : (s.setGen c v).recalled = s.recalled := by cases c <;> rfl
@[simp] theorem State.setGen_revs (s : State) (c : Ctx) (v : W32) : (s.setGen c v).revs = s.revs := by cases c <;> rfl
@[simp] theorem State.setGen_preMcost (s : State) (c : Ctx) (v : W32) : (s.setGen c v).preMcost = s.preMcost := by cases c <;> rfl
@[simp] theorem State.setGen_preIter (s : State) (c : Ctx) (v : W32) : (s.setGen c v).preIter = s.preIter := by cases c <;> rfl
@[simp] theorem State.setGen_pkg (s : State) (c : Ctx) (v : W32) : (s.setGen c v).pkg = s.pkg := by cases c <;> rfl
@[simp] theorem State.setGen_hostMode (s : State) (c : Ctx) (v : W32) : (s.setGen c v).hostMode = s.hostMode := by cases c <;> rfl
@[simp] theorem State.setGen_links (s : State) (c : Ctx) (v : W32) : (s.setGen c v).links = s.links := by cases c <;> rfl
@[simp] theorem State.setGen_pcieUp (s : State) (c : Ctx) (v : W32) : (s.setGen c v).pcieUp = s.pcieUp := by cases c <;> rfl
@[simp] theorem State.setGen_hostMem (s : State) (c : Ctx) (v : W32) : (s.setGen c v).hostMem = s.hostMem := by cases c <;> rfl
@[simp] theorem State.setGen_hostAborts (s : State) (c : Ctx) (v : W32) : (s.setGen c v).hostAborts = s.hostAborts := by cases c <;> rfl
@[simp] theorem State.setGen_belv (s : State) (c : Ctx) (v : W32) : (s.setGen c v).belv = s.belv := by cases c <;> rfl
@[simp] theorem State.setGen_out (s : State) (c : Ctx) (v : W32) : (s.setGen c v).out = s.out := by cases c <;> rfl
@[simp] theorem State.setGen_accums (s : State) (c : Ctx) (v : W32) : (s.setGen c v).accums = s.accums := by cases c <;> rfl
@[simp] theorem State.setGen_jobs (s : State) (c : Ctx) (v : W32) : (s.setGen c v).jobs = s.jobs := by cases c <;> rfl
@[simp] theorem State.setGen_pages (s : State) (c : Ctx) (v : W32) : (s.setGen c v).pages = s.pages := by cases c <;> rfl
@[simp] theorem State.setGen_insts (s : State) (c : Ctx) (v : W32) : (s.setGen c v).insts = s.insts := by cases c <;> rfl
@[simp] theorem State.setGen_cores (s : State) (c : Ctx) (v : W32) : (s.setGen c v).cores = s.cores := by cases c <;> rfl
@[simp] theorem State.setGen_clusters (s : State) (c : Ctx) (v : W32) : (s.setGen c v).clusters = s.clusters := by cases c <;> rfl
@[simp] theorem State.setGen_parts (s : State) (c : Ctx) (v : W32) : (s.setGen c v).parts = s.parts := by cases c <;> rfl
@[simp] theorem State.setGen_pending (s : State) (c : Ctx) (v : W32) : (s.setGen c v).pending = s.pending := by cases c <;> rfl
@[simp] theorem State.setGen_fltTag (s : State) (c : Ctx) (v : W32) : (s.setGen c v).fltTag = s.fltTag := by cases c <;> rfl
@[simp] theorem State.setGen_samp (s : State) (c : Ctx) (v : W32) : (s.setGen c v).samp = s.samp := by cases c <;> rfl
@[simp] theorem State.setGen_lodge (s : State) (c : Ctx) (v : W32) : (s.setGen c v).lodge = s.lodge := by cases c <;> rfl

/-! ### `modCore` -/

@[simp] theorem State.modCore_agenda (s : State) (k : Nat) (f : Core → Core) : (s.modCore k f).agenda = s.agenda := rfl
@[simp] theorem State.modCore_tick (s : State) (k : Nat) (f : Core → Core) : (s.modCore k f).tick = s.tick := rfl
@[simp] theorem State.modCore_cur (s : State) (k : Nat) (f : Core → Core) : (s.modCore k f).cur = s.cur := rfl
@[simp] theorem State.modCore_iw (s : State) (k : Nat) (f : Core → Core) : (s.modCore k f).iw = s.iw := rfl
@[simp] theorem State.modCore_ev (s : State) (k : Nat) (f : Core → Core) : (s.modCore k f).ev = s.ev := rfl
@[simp] theorem State.modCore_readData (s : State) (k : Nat) (f : Core → Core) : (s.modCore k f).readData = s.readData := rfl
@[simp] theorem State.modCore_nextId (s : State) (k : Nat) (f : Core → Core) : (s.modCore k f).nextId = s.nextId := rfl
@[simp] theorem State.modCore_now (s : State) (k : Nat) (f : Core → Core) : (s.modCore k f).now = s.now := rfl
@[simp] theorem State.modCore_cycle (s : State) (k : Nat) (f : Core → Core) : (s.modCore k f).cycle = s.cycle := rfl
@[simp] theorem State.modCore_mem (s : State) (k : Nat) (f : Core → Core) : (s.modCore k f).mem = s.mem := rfl
@[simp] theorem State.modCore_l1 (s : State) (k : Nat) (f : Core → Core) : (s.modCore k f).l1 = s.l1 := rfl
@[simp] theorem State.modCore_tlb (s : State) (k : Nat) (f : Core → Core) : (s.modCore k f).tlb = s.tlb := rfl
@[simp] theorem State.modCore_walks (s : State) (k : Nat) (f : Core → Core) : (s.modCore k f).walks = s.walks := rfl
@[simp] theorem State.modCore_bad (s : State) (k : Nat) (f : Core → Core) : (s.modCore k f).bad = s.bad := rfl
@[simp] theorem State.modCore_quar (s : State) (k : Nat) (f : Core → Core) : (s.modCore k f).quar = s.quar := rfl
@[simp] theorem State.modCore_badStore (s : State) (k : Nat) (f : Core → Core) : (s.modCore k f).badStore = s.badStore := rfl
@[simp] theorem State.modCore_promo (s : State) (k : Nat) (f : Core → Core) : (s.modCore k f).promo = s.promo := rfl
@[simp] theorem State.modCore_recalled (s : State) (k : Nat) (f : Core → Core) : (s.modCore k f).recalled = s.recalled := rfl
@[simp] theorem State.modCore_revs (s : State) (k : Nat) (f : Core → Core) : (s.modCore k f).revs = s.revs := rfl
@[simp] theorem State.modCore_preMcost (s : State) (k : Nat) (f : Core → Core) : (s.modCore k f).preMcost = s.preMcost := rfl
@[simp] theorem State.modCore_preIter (s : State) (k : Nat) (f : Core → Core) : (s.modCore k f).preIter = s.preIter := rfl
@[simp] theorem State.modCore_pkg (s : State) (k : Nat) (f : Core → Core) : (s.modCore k f).pkg = s.pkg := rfl
@[simp] theorem State.modCore_hostMode (s : State) (k : Nat) (f : Core → Core) : (s.modCore k f).hostMode = s.hostMode := rfl
@[simp] theorem State.modCore_links (s : State) (k : Nat) (f : Core → Core) : (s.modCore k f).links = s.links := rfl
@[simp] theorem State.modCore_pcieUp (s : State) (k : Nat) (f : Core → Core) : (s.modCore k f).pcieUp = s.pcieUp := rfl
@[simp] theorem State.modCore_hostMem (s : State) (k : Nat) (f : Core → Core) : (s.modCore k f).hostMem = s.hostMem := rfl
@[simp] theorem State.modCore_hostAborts (s : State) (k : Nat) (f : Core → Core) : (s.modCore k f).hostAborts = s.hostAborts := rfl
@[simp] theorem State.modCore_belv (s : State) (k : Nat) (f : Core → Core) : (s.modCore k f).belv = s.belv := rfl
@[simp] theorem State.modCore_out (s : State) (k : Nat) (f : Core → Core) : (s.modCore k f).out = s.out := rfl
@[simp] theorem State.modCore_accums (s : State) (k : Nat) (f : Core → Core) : (s.modCore k f).accums = s.accums := rfl
@[simp] theorem State.modCore_jobs (s : State) (k : Nat) (f : Core → Core) : (s.modCore k f).jobs = s.jobs := rfl
@[simp] theorem State.modCore_pages (s : State) (k : Nat) (f : Core → Core) : (s.modCore k f).pages = s.pages := rfl
@[simp] theorem State.modCore_insts (s : State) (k : Nat) (f : Core → Core) : (s.modCore k f).insts = s.insts := rfl
@[simp] theorem State.modCore_teams (s : State) (k : Nat) (f : Core → Core) : (s.modCore k f).teams = s.teams := rfl
@[simp] theorem State.modCore_clusters (s : State) (k : Nat) (f : Core → Core) : (s.modCore k f).clusters = s.clusters := rfl
@[simp] theorem State.modCore_parts (s : State) (k : Nat) (f : Core → Core) : (s.modCore k f).parts = s.parts := rfl
@[simp] theorem State.modCore_pending (s : State) (k : Nat) (f : Core → Core) : (s.modCore k f).pending = s.pending := rfl
@[simp] theorem State.modCore_fltTag (s : State) (k : Nat) (f : Core → Core) : (s.modCore k f).fltTag = s.fltTag := rfl
@[simp] theorem State.modCore_samp (s : State) (k : Nat) (f : Core → Core) : (s.modCore k f).samp = s.samp := rfl
@[simp] theorem State.modCore_lodge (s : State) (k : Nat) (f : Core → Core) : (s.modCore k f).lodge = s.lodge := rfl

/-! ### `modCluster` -/

@[simp] theorem State.modCluster_agenda (s : State) (k : Nat) (f : Cluster → Cluster) : (s.modCluster k f).agenda = s.agenda := rfl
@[simp] theorem State.modCluster_tick (s : State) (k : Nat) (f : Cluster → Cluster) : (s.modCluster k f).tick = s.tick := rfl
@[simp] theorem State.modCluster_cur (s : State) (k : Nat) (f : Cluster → Cluster) : (s.modCluster k f).cur = s.cur := rfl
@[simp] theorem State.modCluster_iw (s : State) (k : Nat) (f : Cluster → Cluster) : (s.modCluster k f).iw = s.iw := rfl
@[simp] theorem State.modCluster_ev (s : State) (k : Nat) (f : Cluster → Cluster) : (s.modCluster k f).ev = s.ev := rfl
@[simp] theorem State.modCluster_readData (s : State) (k : Nat) (f : Cluster → Cluster) : (s.modCluster k f).readData = s.readData := rfl
@[simp] theorem State.modCluster_nextId (s : State) (k : Nat) (f : Cluster → Cluster) : (s.modCluster k f).nextId = s.nextId := rfl
@[simp] theorem State.modCluster_now (s : State) (k : Nat) (f : Cluster → Cluster) : (s.modCluster k f).now = s.now := rfl
@[simp] theorem State.modCluster_cycle (s : State) (k : Nat) (f : Cluster → Cluster) : (s.modCluster k f).cycle = s.cycle := rfl
@[simp] theorem State.modCluster_mem (s : State) (k : Nat) (f : Cluster → Cluster) : (s.modCluster k f).mem = s.mem := rfl
@[simp] theorem State.modCluster_l1 (s : State) (k : Nat) (f : Cluster → Cluster) : (s.modCluster k f).l1 = s.l1 := rfl
@[simp] theorem State.modCluster_tlb (s : State) (k : Nat) (f : Cluster → Cluster) : (s.modCluster k f).tlb = s.tlb := rfl
@[simp] theorem State.modCluster_walks (s : State) (k : Nat) (f : Cluster → Cluster) : (s.modCluster k f).walks = s.walks := rfl
@[simp] theorem State.modCluster_bad (s : State) (k : Nat) (f : Cluster → Cluster) : (s.modCluster k f).bad = s.bad := rfl
@[simp] theorem State.modCluster_quar (s : State) (k : Nat) (f : Cluster → Cluster) : (s.modCluster k f).quar = s.quar := rfl
@[simp] theorem State.modCluster_badStore (s : State) (k : Nat) (f : Cluster → Cluster) : (s.modCluster k f).badStore = s.badStore := rfl
@[simp] theorem State.modCluster_promo (s : State) (k : Nat) (f : Cluster → Cluster) : (s.modCluster k f).promo = s.promo := rfl
@[simp] theorem State.modCluster_recalled (s : State) (k : Nat) (f : Cluster → Cluster) : (s.modCluster k f).recalled = s.recalled := rfl
@[simp] theorem State.modCluster_revs (s : State) (k : Nat) (f : Cluster → Cluster) : (s.modCluster k f).revs = s.revs := rfl
@[simp] theorem State.modCluster_preMcost (s : State) (k : Nat) (f : Cluster → Cluster) : (s.modCluster k f).preMcost = s.preMcost := rfl
@[simp] theorem State.modCluster_preIter (s : State) (k : Nat) (f : Cluster → Cluster) : (s.modCluster k f).preIter = s.preIter := rfl
@[simp] theorem State.modCluster_pkg (s : State) (k : Nat) (f : Cluster → Cluster) : (s.modCluster k f).pkg = s.pkg := rfl
@[simp] theorem State.modCluster_hostMode (s : State) (k : Nat) (f : Cluster → Cluster) : (s.modCluster k f).hostMode = s.hostMode := rfl
@[simp] theorem State.modCluster_links (s : State) (k : Nat) (f : Cluster → Cluster) : (s.modCluster k f).links = s.links := rfl
@[simp] theorem State.modCluster_pcieUp (s : State) (k : Nat) (f : Cluster → Cluster) : (s.modCluster k f).pcieUp = s.pcieUp := rfl
@[simp] theorem State.modCluster_hostMem (s : State) (k : Nat) (f : Cluster → Cluster) : (s.modCluster k f).hostMem = s.hostMem := rfl
@[simp] theorem State.modCluster_hostAborts (s : State) (k : Nat) (f : Cluster → Cluster) : (s.modCluster k f).hostAborts = s.hostAborts := rfl
@[simp] theorem State.modCluster_belv (s : State) (k : Nat) (f : Cluster → Cluster) : (s.modCluster k f).belv = s.belv := rfl
@[simp] theorem State.modCluster_out (s : State) (k : Nat) (f : Cluster → Cluster) : (s.modCluster k f).out = s.out := rfl
@[simp] theorem State.modCluster_accums (s : State) (k : Nat) (f : Cluster → Cluster) : (s.modCluster k f).accums = s.accums := rfl
@[simp] theorem State.modCluster_jobs (s : State) (k : Nat) (f : Cluster → Cluster) : (s.modCluster k f).jobs = s.jobs := rfl
@[simp] theorem State.modCluster_pages (s : State) (k : Nat) (f : Cluster → Cluster) : (s.modCluster k f).pages = s.pages := rfl
@[simp] theorem State.modCluster_insts (s : State) (k : Nat) (f : Cluster → Cluster) : (s.modCluster k f).insts = s.insts := rfl
@[simp] theorem State.modCluster_teams (s : State) (k : Nat) (f : Cluster → Cluster) : (s.modCluster k f).teams = s.teams := rfl
@[simp] theorem State.modCluster_cores (s : State) (k : Nat) (f : Cluster → Cluster) : (s.modCluster k f).cores = s.cores := rfl
@[simp] theorem State.modCluster_parts (s : State) (k : Nat) (f : Cluster → Cluster) : (s.modCluster k f).parts = s.parts := rfl
@[simp] theorem State.modCluster_pending (s : State) (k : Nat) (f : Cluster → Cluster) : (s.modCluster k f).pending = s.pending := rfl
@[simp] theorem State.modCluster_fltTag (s : State) (k : Nat) (f : Cluster → Cluster) : (s.modCluster k f).fltTag = s.fltTag := rfl
@[simp] theorem State.modCluster_samp (s : State) (k : Nat) (f : Cluster → Cluster) : (s.modCluster k f).samp = s.samp := rfl
@[simp] theorem State.modCluster_lodge (s : State) (k : Nat) (f : Cluster → Cluster) : (s.modCluster k f).lodge = s.lodge := rfl

/-! ### `modPart` -/

@[simp] theorem State.modPart_agenda (s : State) (k : Nat) (f : Part → Part) : (s.modPart k f).agenda = s.agenda := rfl
@[simp] theorem State.modPart_tick (s : State) (k : Nat) (f : Part → Part) : (s.modPart k f).tick = s.tick := rfl
@[simp] theorem State.modPart_cur (s : State) (k : Nat) (f : Part → Part) : (s.modPart k f).cur = s.cur := rfl
@[simp] theorem State.modPart_iw (s : State) (k : Nat) (f : Part → Part) : (s.modPart k f).iw = s.iw := rfl
@[simp] theorem State.modPart_ev (s : State) (k : Nat) (f : Part → Part) : (s.modPart k f).ev = s.ev := rfl
@[simp] theorem State.modPart_readData (s : State) (k : Nat) (f : Part → Part) : (s.modPart k f).readData = s.readData := rfl
@[simp] theorem State.modPart_nextId (s : State) (k : Nat) (f : Part → Part) : (s.modPart k f).nextId = s.nextId := rfl
@[simp] theorem State.modPart_now (s : State) (k : Nat) (f : Part → Part) : (s.modPart k f).now = s.now := rfl
@[simp] theorem State.modPart_cycle (s : State) (k : Nat) (f : Part → Part) : (s.modPart k f).cycle = s.cycle := rfl
@[simp] theorem State.modPart_mem (s : State) (k : Nat) (f : Part → Part) : (s.modPart k f).mem = s.mem := rfl
@[simp] theorem State.modPart_l1 (s : State) (k : Nat) (f : Part → Part) : (s.modPart k f).l1 = s.l1 := rfl
@[simp] theorem State.modPart_tlb (s : State) (k : Nat) (f : Part → Part) : (s.modPart k f).tlb = s.tlb := rfl
@[simp] theorem State.modPart_walks (s : State) (k : Nat) (f : Part → Part) : (s.modPart k f).walks = s.walks := rfl
@[simp] theorem State.modPart_bad (s : State) (k : Nat) (f : Part → Part) : (s.modPart k f).bad = s.bad := rfl
@[simp] theorem State.modPart_quar (s : State) (k : Nat) (f : Part → Part) : (s.modPart k f).quar = s.quar := rfl
@[simp] theorem State.modPart_badStore (s : State) (k : Nat) (f : Part → Part) : (s.modPart k f).badStore = s.badStore := rfl
@[simp] theorem State.modPart_promo (s : State) (k : Nat) (f : Part → Part) : (s.modPart k f).promo = s.promo := rfl
@[simp] theorem State.modPart_recalled (s : State) (k : Nat) (f : Part → Part) : (s.modPart k f).recalled = s.recalled := rfl
@[simp] theorem State.modPart_revs (s : State) (k : Nat) (f : Part → Part) : (s.modPart k f).revs = s.revs := rfl
@[simp] theorem State.modPart_preMcost (s : State) (k : Nat) (f : Part → Part) : (s.modPart k f).preMcost = s.preMcost := rfl
@[simp] theorem State.modPart_preIter (s : State) (k : Nat) (f : Part → Part) : (s.modPart k f).preIter = s.preIter := rfl
@[simp] theorem State.modPart_pkg (s : State) (k : Nat) (f : Part → Part) : (s.modPart k f).pkg = s.pkg := rfl
@[simp] theorem State.modPart_hostMode (s : State) (k : Nat) (f : Part → Part) : (s.modPart k f).hostMode = s.hostMode := rfl
@[simp] theorem State.modPart_links (s : State) (k : Nat) (f : Part → Part) : (s.modPart k f).links = s.links := rfl
@[simp] theorem State.modPart_pcieUp (s : State) (k : Nat) (f : Part → Part) : (s.modPart k f).pcieUp = s.pcieUp := rfl
@[simp] theorem State.modPart_hostMem (s : State) (k : Nat) (f : Part → Part) : (s.modPart k f).hostMem = s.hostMem := rfl
@[simp] theorem State.modPart_hostAborts (s : State) (k : Nat) (f : Part → Part) : (s.modPart k f).hostAborts = s.hostAborts := rfl
@[simp] theorem State.modPart_belv (s : State) (k : Nat) (f : Part → Part) : (s.modPart k f).belv = s.belv := rfl
@[simp] theorem State.modPart_out (s : State) (k : Nat) (f : Part → Part) : (s.modPart k f).out = s.out := rfl
@[simp] theorem State.modPart_accums (s : State) (k : Nat) (f : Part → Part) : (s.modPart k f).accums = s.accums := rfl
@[simp] theorem State.modPart_jobs (s : State) (k : Nat) (f : Part → Part) : (s.modPart k f).jobs = s.jobs := rfl
@[simp] theorem State.modPart_pages (s : State) (k : Nat) (f : Part → Part) : (s.modPart k f).pages = s.pages := rfl
@[simp] theorem State.modPart_insts (s : State) (k : Nat) (f : Part → Part) : (s.modPart k f).insts = s.insts := rfl
@[simp] theorem State.modPart_teams (s : State) (k : Nat) (f : Part → Part) : (s.modPart k f).teams = s.teams := rfl
@[simp] theorem State.modPart_cores (s : State) (k : Nat) (f : Part → Part) : (s.modPart k f).cores = s.cores := rfl
@[simp] theorem State.modPart_clusters (s : State) (k : Nat) (f : Part → Part) : (s.modPart k f).clusters = s.clusters := rfl
@[simp] theorem State.modPart_pending (s : State) (k : Nat) (f : Part → Part) : (s.modPart k f).pending = s.pending := rfl
@[simp] theorem State.modPart_fltTag (s : State) (k : Nat) (f : Part → Part) : (s.modPart k f).fltTag = s.fltTag := rfl
@[simp] theorem State.modPart_samp (s : State) (k : Nat) (f : Part → Part) : (s.modPart k f).samp = s.samp := rfl
@[simp] theorem State.modPart_lodge (s : State) (k : Nat) (f : Part → Part) : (s.modPart k f).lodge = s.lodge := rfl

/-! ### `modInst` -/

@[simp] theorem State.modInst_agenda (s : State) (k : Nat) (f : Inst → Inst) : (s.modInst k f).agenda = s.agenda := rfl
@[simp] theorem State.modInst_tick (s : State) (k : Nat) (f : Inst → Inst) : (s.modInst k f).tick = s.tick := rfl
@[simp] theorem State.modInst_cur (s : State) (k : Nat) (f : Inst → Inst) : (s.modInst k f).cur = s.cur := rfl
@[simp] theorem State.modInst_iw (s : State) (k : Nat) (f : Inst → Inst) : (s.modInst k f).iw = s.iw := rfl
@[simp] theorem State.modInst_ev (s : State) (k : Nat) (f : Inst → Inst) : (s.modInst k f).ev = s.ev := rfl
@[simp] theorem State.modInst_readData (s : State) (k : Nat) (f : Inst → Inst) : (s.modInst k f).readData = s.readData := rfl
@[simp] theorem State.modInst_nextId (s : State) (k : Nat) (f : Inst → Inst) : (s.modInst k f).nextId = s.nextId := rfl
@[simp] theorem State.modInst_now (s : State) (k : Nat) (f : Inst → Inst) : (s.modInst k f).now = s.now := rfl
@[simp] theorem State.modInst_cycle (s : State) (k : Nat) (f : Inst → Inst) : (s.modInst k f).cycle = s.cycle := rfl
@[simp] theorem State.modInst_mem (s : State) (k : Nat) (f : Inst → Inst) : (s.modInst k f).mem = s.mem := rfl
@[simp] theorem State.modInst_l1 (s : State) (k : Nat) (f : Inst → Inst) : (s.modInst k f).l1 = s.l1 := rfl
@[simp] theorem State.modInst_tlb (s : State) (k : Nat) (f : Inst → Inst) : (s.modInst k f).tlb = s.tlb := rfl
@[simp] theorem State.modInst_walks (s : State) (k : Nat) (f : Inst → Inst) : (s.modInst k f).walks = s.walks := rfl
@[simp] theorem State.modInst_bad (s : State) (k : Nat) (f : Inst → Inst) : (s.modInst k f).bad = s.bad := rfl
@[simp] theorem State.modInst_quar (s : State) (k : Nat) (f : Inst → Inst) : (s.modInst k f).quar = s.quar := rfl
@[simp] theorem State.modInst_badStore (s : State) (k : Nat) (f : Inst → Inst) : (s.modInst k f).badStore = s.badStore := rfl
@[simp] theorem State.modInst_promo (s : State) (k : Nat) (f : Inst → Inst) : (s.modInst k f).promo = s.promo := rfl
@[simp] theorem State.modInst_recalled (s : State) (k : Nat) (f : Inst → Inst) : (s.modInst k f).recalled = s.recalled := rfl
@[simp] theorem State.modInst_revs (s : State) (k : Nat) (f : Inst → Inst) : (s.modInst k f).revs = s.revs := rfl
@[simp] theorem State.modInst_preMcost (s : State) (k : Nat) (f : Inst → Inst) : (s.modInst k f).preMcost = s.preMcost := rfl
@[simp] theorem State.modInst_preIter (s : State) (k : Nat) (f : Inst → Inst) : (s.modInst k f).preIter = s.preIter := rfl
@[simp] theorem State.modInst_pkg (s : State) (k : Nat) (f : Inst → Inst) : (s.modInst k f).pkg = s.pkg := rfl
@[simp] theorem State.modInst_hostMode (s : State) (k : Nat) (f : Inst → Inst) : (s.modInst k f).hostMode = s.hostMode := rfl
@[simp] theorem State.modInst_links (s : State) (k : Nat) (f : Inst → Inst) : (s.modInst k f).links = s.links := rfl
@[simp] theorem State.modInst_pcieUp (s : State) (k : Nat) (f : Inst → Inst) : (s.modInst k f).pcieUp = s.pcieUp := rfl
@[simp] theorem State.modInst_hostMem (s : State) (k : Nat) (f : Inst → Inst) : (s.modInst k f).hostMem = s.hostMem := rfl
@[simp] theorem State.modInst_hostAborts (s : State) (k : Nat) (f : Inst → Inst) : (s.modInst k f).hostAborts = s.hostAborts := rfl
@[simp] theorem State.modInst_belv (s : State) (k : Nat) (f : Inst → Inst) : (s.modInst k f).belv = s.belv := rfl
@[simp] theorem State.modInst_out (s : State) (k : Nat) (f : Inst → Inst) : (s.modInst k f).out = s.out := rfl
@[simp] theorem State.modInst_accums (s : State) (k : Nat) (f : Inst → Inst) : (s.modInst k f).accums = s.accums := rfl
@[simp] theorem State.modInst_jobs (s : State) (k : Nat) (f : Inst → Inst) : (s.modInst k f).jobs = s.jobs := rfl
@[simp] theorem State.modInst_pages (s : State) (k : Nat) (f : Inst → Inst) : (s.modInst k f).pages = s.pages := rfl
@[simp] theorem State.modInst_teams (s : State) (k : Nat) (f : Inst → Inst) : (s.modInst k f).teams = s.teams := rfl
@[simp] theorem State.modInst_cores (s : State) (k : Nat) (f : Inst → Inst) : (s.modInst k f).cores = s.cores := rfl
@[simp] theorem State.modInst_clusters (s : State) (k : Nat) (f : Inst → Inst) : (s.modInst k f).clusters = s.clusters := rfl
@[simp] theorem State.modInst_parts (s : State) (k : Nat) (f : Inst → Inst) : (s.modInst k f).parts = s.parts := rfl
@[simp] theorem State.modInst_pending (s : State) (k : Nat) (f : Inst → Inst) : (s.modInst k f).pending = s.pending := rfl
@[simp] theorem State.modInst_fltTag (s : State) (k : Nat) (f : Inst → Inst) : (s.modInst k f).fltTag = s.fltTag := rfl
@[simp] theorem State.modInst_samp (s : State) (k : Nat) (f : Inst → Inst) : (s.modInst k f).samp = s.samp := rfl
@[simp] theorem State.modInst_lodge (s : State) (k : Nat) (f : Inst → Inst) : (s.modInst k f).lodge = s.lodge := rfl

/-! ### `modJob` -/

@[simp] theorem State.modJob_agenda (s : State) (k : Nat) (f : JobSlot → JobSlot) : (s.modJob k f).agenda = s.agenda := rfl
@[simp] theorem State.modJob_tick (s : State) (k : Nat) (f : JobSlot → JobSlot) : (s.modJob k f).tick = s.tick := rfl
@[simp] theorem State.modJob_cur (s : State) (k : Nat) (f : JobSlot → JobSlot) : (s.modJob k f).cur = s.cur := rfl
@[simp] theorem State.modJob_iw (s : State) (k : Nat) (f : JobSlot → JobSlot) : (s.modJob k f).iw = s.iw := rfl
@[simp] theorem State.modJob_ev (s : State) (k : Nat) (f : JobSlot → JobSlot) : (s.modJob k f).ev = s.ev := rfl
@[simp] theorem State.modJob_readData (s : State) (k : Nat) (f : JobSlot → JobSlot) : (s.modJob k f).readData = s.readData := rfl
@[simp] theorem State.modJob_nextId (s : State) (k : Nat) (f : JobSlot → JobSlot) : (s.modJob k f).nextId = s.nextId := rfl
@[simp] theorem State.modJob_now (s : State) (k : Nat) (f : JobSlot → JobSlot) : (s.modJob k f).now = s.now := rfl
@[simp] theorem State.modJob_cycle (s : State) (k : Nat) (f : JobSlot → JobSlot) : (s.modJob k f).cycle = s.cycle := rfl
@[simp] theorem State.modJob_mem (s : State) (k : Nat) (f : JobSlot → JobSlot) : (s.modJob k f).mem = s.mem := rfl
@[simp] theorem State.modJob_l1 (s : State) (k : Nat) (f : JobSlot → JobSlot) : (s.modJob k f).l1 = s.l1 := rfl
@[simp] theorem State.modJob_tlb (s : State) (k : Nat) (f : JobSlot → JobSlot) : (s.modJob k f).tlb = s.tlb := rfl
@[simp] theorem State.modJob_walks (s : State) (k : Nat) (f : JobSlot → JobSlot) : (s.modJob k f).walks = s.walks := rfl
@[simp] theorem State.modJob_bad (s : State) (k : Nat) (f : JobSlot → JobSlot) : (s.modJob k f).bad = s.bad := rfl
@[simp] theorem State.modJob_quar (s : State) (k : Nat) (f : JobSlot → JobSlot) : (s.modJob k f).quar = s.quar := rfl
@[simp] theorem State.modJob_badStore (s : State) (k : Nat) (f : JobSlot → JobSlot) : (s.modJob k f).badStore = s.badStore := rfl
@[simp] theorem State.modJob_promo (s : State) (k : Nat) (f : JobSlot → JobSlot) : (s.modJob k f).promo = s.promo := rfl
@[simp] theorem State.modJob_recalled (s : State) (k : Nat) (f : JobSlot → JobSlot) : (s.modJob k f).recalled = s.recalled := rfl
@[simp] theorem State.modJob_revs (s : State) (k : Nat) (f : JobSlot → JobSlot) : (s.modJob k f).revs = s.revs := rfl
@[simp] theorem State.modJob_preMcost (s : State) (k : Nat) (f : JobSlot → JobSlot) : (s.modJob k f).preMcost = s.preMcost := rfl
@[simp] theorem State.modJob_preIter (s : State) (k : Nat) (f : JobSlot → JobSlot) : (s.modJob k f).preIter = s.preIter := rfl
@[simp] theorem State.modJob_pkg (s : State) (k : Nat) (f : JobSlot → JobSlot) : (s.modJob k f).pkg = s.pkg := rfl
@[simp] theorem State.modJob_hostMode (s : State) (k : Nat) (f : JobSlot → JobSlot) : (s.modJob k f).hostMode = s.hostMode := rfl
@[simp] theorem State.modJob_links (s : State) (k : Nat) (f : JobSlot → JobSlot) : (s.modJob k f).links = s.links := rfl
@[simp] theorem State.modJob_pcieUp (s : State) (k : Nat) (f : JobSlot → JobSlot) : (s.modJob k f).pcieUp = s.pcieUp := rfl
@[simp] theorem State.modJob_hostMem (s : State) (k : Nat) (f : JobSlot → JobSlot) : (s.modJob k f).hostMem = s.hostMem := rfl
@[simp] theorem State.modJob_hostAborts (s : State) (k : Nat) (f : JobSlot → JobSlot) : (s.modJob k f).hostAborts = s.hostAborts := rfl
@[simp] theorem State.modJob_belv (s : State) (k : Nat) (f : JobSlot → JobSlot) : (s.modJob k f).belv = s.belv := rfl
@[simp] theorem State.modJob_out (s : State) (k : Nat) (f : JobSlot → JobSlot) : (s.modJob k f).out = s.out := rfl
@[simp] theorem State.modJob_accums (s : State) (k : Nat) (f : JobSlot → JobSlot) : (s.modJob k f).accums = s.accums := rfl
@[simp] theorem State.modJob_pages (s : State) (k : Nat) (f : JobSlot → JobSlot) : (s.modJob k f).pages = s.pages := rfl
@[simp] theorem State.modJob_insts (s : State) (k : Nat) (f : JobSlot → JobSlot) : (s.modJob k f).insts = s.insts := rfl
@[simp] theorem State.modJob_teams (s : State) (k : Nat) (f : JobSlot → JobSlot) : (s.modJob k f).teams = s.teams := rfl
@[simp] theorem State.modJob_cores (s : State) (k : Nat) (f : JobSlot → JobSlot) : (s.modJob k f).cores = s.cores := rfl
@[simp] theorem State.modJob_clusters (s : State) (k : Nat) (f : JobSlot → JobSlot) : (s.modJob k f).clusters = s.clusters := rfl
@[simp] theorem State.modJob_parts (s : State) (k : Nat) (f : JobSlot → JobSlot) : (s.modJob k f).parts = s.parts := rfl
@[simp] theorem State.modJob_pending (s : State) (k : Nat) (f : JobSlot → JobSlot) : (s.modJob k f).pending = s.pending := rfl
@[simp] theorem State.modJob_fltTag (s : State) (k : Nat) (f : JobSlot → JobSlot) : (s.modJob k f).fltTag = s.fltTag := rfl
@[simp] theorem State.modJob_samp (s : State) (k : Nat) (f : JobSlot → JobSlot) : (s.modJob k f).samp = s.samp := rfl
@[simp] theorem State.modJob_lodge (s : State) (k : Nat) (f : JobSlot → JobSlot) : (s.modJob k f).lodge = s.lodge := rfl

/-! ### Lookups after updates -/

@[simp] theorem State.team_setTeam (s : State) (k n : Nat) (x : Team) :
    (s.setTeam k x).team n = if n = k then x else s.team n := by simp [State.team, State.setTeam, getD_setAt]

@[simp] theorem State.team_modTeam (s : State) (k n : Nat) (f : Team → Team) :
    (s.modTeam k f).team n = if n = k then f (s.team k) else s.team n := by simp [State.modTeam]

@[simp] theorem State.modTeam_modTeam (s : State) (k : Nat) (f h : Team → Team) :
    (s.modTeam k f).modTeam k h = s.modTeam k fun x => h (f x) := by
  simp [State.modTeam, State.setTeam, State.team]

@[simp] theorem Team.group_setGroup (t : Team) (g n : Nat) (x : Group) :
    (t.setGroup g x).group n = if n = g then x else t.group n := by simp [Team.group, Team.setGroup, getD_setAt]

@[simp] theorem Team.group_modGroup (t : Team) (g n : Nat) (f : Group → Group) :
    (t.modGroup g f).group n = if n = g then f (t.group g) else t.group n := by simp [Team.modGroup]

@[simp] theorem State.group_modGroup (s : State) (k g m n : Nat) (f : Group → Group) :
    (s.modGroup k g f).group m n = if m = k ∧ n = g then f (s.group k g) else s.group m n := by
  by_cases h : m = k
  · subst h; simp [State.modGroup, State.group]
  · simp [State.modGroup, State.group, h]

theorem State.team_modGroup (s : State) (k g n : Nat) (f : Group → Group) :
    (s.modGroup k g f).team n = if n = k then (s.team k).modGroup g f else s.team n := by simp [State.modGroup]

@[simp] theorem Team.modGroup_modGroup (t : Team) (g : Nat) (f h : Group → Group) :
    (t.modGroup g f).modGroup g h = t.modGroup g fun x => h (f x) := by
  simp [Team.modGroup, Team.setGroup, Team.group]

@[simp] theorem State.modGroup_modGroup (s : State) (k g : Nat) (f h : Group → Group) :
    (s.modGroup k g f).modGroup k g h = s.modGroup k g fun x => h (f x) := by
  simp [State.modGroup]

@[simp] theorem State.team_modCtrl (s : State) (k n : Nat) (f : CtrlState → CtrlState) :
    (s.modCtrl k f).team n = if n = k then { s.team k with ctrl := f (s.team k).ctrl } else s.team n := by
  simp [State.modCtrl]

@[simp] theorem State.core_modCore (s : State) (k n : Nat) (f : Core → Core) :
    (s.modCore k f).core n = if n = k then f (s.core k) else s.core n := by simp [State.core, State.modCore, getD_setAt]

@[simp] theorem State.cluster_modCluster (s : State) (k n : Nat) (f : Cluster → Cluster) :
    (s.modCluster k f).cluster n = if n = k then f (s.cluster k) else s.cluster n := by
  simp [State.cluster, State.modCluster, getD_setAt]

@[simp] theorem State.part_modPart (s : State) (k n : Nat) (f : Part → Part) :
    (s.modPart k f).part n = if n = k then f (s.part k) else s.part n := by simp [State.part, State.modPart, getD_setAt]

@[simp] theorem State.inst_modInst (s : State) (k n : Nat) (f : Inst → Inst) :
    (s.modInst k f).inst n = if n = k then f (s.inst k) else s.inst n := by simp [State.inst, State.modInst, getD_setAt]

@[simp] theorem State.job_modJob (s : State) (k n : Nat) (f : JobSlot → JobSlot) :
    (s.modJob k f).job n = if n = k then f (s.job k) else s.job n := by simp [State.job, State.modJob, getD_setAt]

@[simp] theorem State.core_modTeam (s : State) (k n : Nat) (f : Team → Team) : (s.modTeam k f).core n = s.core n := rfl
@[simp] theorem State.inst_modTeam (s : State) (k n : Nat) (f : Team → Team) : (s.modTeam k f).inst n = s.inst n := rfl
@[simp] theorem State.part_modTeam (s : State) (k n : Nat) (f : Team → Team) : (s.modTeam k f).part n = s.part n := rfl
@[simp] theorem State.cluster_modTeam (s : State) (k n : Nat) (f : Team → Team) : (s.modTeam k f).cluster n = s.cluster n := rfl
@[simp] theorem State.team_modCore (s : State) (k n : Nat) (f : Core → Core) : (s.modCore k f).team n = s.team n := rfl
@[simp] theorem State.team_modInst (s : State) (k n : Nat) (f : Inst → Inst) : (s.modInst k f).team n = s.team n := rfl
@[simp] theorem State.team_modCluster (s : State) (k n : Nat) (f : Cluster → Cluster) : (s.modCluster k f).team n = s.team n := rfl

end Sys2Proof.Machine
end

