-- ==== Sys2Proof/Laws/Words.lean ====
section
/-!
SUPPORT. Laws of an instruction word: when its meaning runs its effect, and what completing it does to the state (07 R160, R162,
09 R193).
-/
namespace Sys2Proof.Machine

/-! ## Storage repair -/

theorem State.repair_eq (s : State) : s.repair = { s with badStore := s.repair.badStore } := by
  unfold State.repair; split <;> rfl

@[simp] theorem State.repair_cur (s : State) : s.repair.cur = s.cur := by rw [State.repair_eq]
@[simp] theorem State.repair_iw (s : State) : s.repair.iw = s.iw := by rw [State.repair_eq]
@[simp] theorem State.repair_teams (s : State) : s.repair.teams = s.teams := by rw [State.repair_eq]
@[simp] theorem State.repair_team (s : State) (n : Nat) : s.repair.team n = s.team n := by simp [State.team]
@[simp] theorem State.repair_group (s : State) (n g : Nat) : s.repair.group n g = s.group n g := by simp [State.group]
@[simp] theorem State.repair_inst (s : State) (n : Nat) : s.repair.inst n = s.inst n := by
  unfold State.inst; rw [State.repair_eq]
@[simp] theorem State.repair_ctxState (s : State) (c : Ctx) : s.repair.ctxState c = s.ctxState c := by
  cases c <;> simp [State.ctxState]

/-- Repair looks at the storage, the context and the word alone, and so commutes with an update of teams. -/
theorem State.repair_modTeam (s : State) (k : Nat) (f : Team → Team) : (s.modTeam k f).repair = s.repair.modTeam k f := by
  by_cases h : s.badStore.isEmpty = true
  · simp [State.repair, h]
  · simp [State.repair, h]; rfl

theorem State.repair_modGroup (s : State) (k g : Nat) (f : Group → Group) : (s.modGroup k g f).repair = s.repair.modGroup k g f :=
  State.repair_modTeam s k _

theorem State.repair_repair (s : State) : s.repair.repair = s.repair := by
  by_cases h : s.badStore.isEmpty = true
  · simp [State.repair, h]
  · have e : s.repair = { s with badStore := s.badStore.filter fun b =>
        !(b.1 == s.cur.team && b.2.1 == b.2.2.group s.cur.group && s.iw.writes.contains b.2.2) } := by simp [State.repair, h]
    rw [e]
    unfold State.repair
    dsimp only
    split
    · rfl
    · simp [List.filter_filter]

/-! ## Running a word -/

/-- A word that may take effect and whose own conditions hold runs its effect. -/
theorem State.word_offers_if {s : State} {legal : List Stream} (h : s.offers legal = true) (f : State → Eff)
    {decode fields : State → Option Raise} (hd : decode s = none) (hf : fields s = none) :
    s.word legal f decode fields = .next ((f s).commit s.cur s.iw) := by
  simp only [State.offers, Bool.and_eq_true, Bool.not_eq_true', Option.isNone_iff_eq_none] at h
  obtain ⟨⟨⟨h1, h2⟩, h3⟩, h4⟩ := h
  simp only [State.word, State.issuing, State.wordCause, h1, h2, h3, h4, hd, hf, Bool.not_true, Bool.false_eq_true, if_false, Option.map_none]

theorem State.word_offers {s : State} {legal : List Stream} (h : s.offers legal = true) (f : State → Eff) :
    s.word legal f = .next ((f s).commit s.cur s.iw) := State.word_offers_if h f rfl rfl

/-! ## Completing a word -/

/-- Counting a C word. -/
theorem State.countWords_c {s : State} {k : Nat} (hc : s.cur = .c k) (hr : s.iw.resumed = false) :
    s.countWords = s.modCtrl k fun x =>
      { x with seg := x.seg.map fun g => { g with count := g.count + s.iw.words.length, sig := sigWords false g.sig s.iw.words } } := by
  unfold State.countWords; rw [hc, hr]; rfl

/-- A C word completes: its team's control context is past it, and nothing else changes. -/
theorem Eff.commit_done_c {u : State} {k : Nat} {iw : IssueInfo} (hc : u.cur = .c k) (hi : u.iw = iw) (hr : iw.resumed = false) :
    (Eff.done u).commit (.c k) iw = u.repair.modTeam k fun x => { x with ctrl := x.ctrl.passed iw.words iw.next } := by
  have hc : u.repair.cur = .c k := by simp [hc]
  have hi : u.repair.iw = iw := by simp [hi]
  simp only [Eff.commit, State.countWords_c hc (hi ▸ hr), hi]
  simp [State.modCtrl, State.modCtx, CtrlState.passed]

/-- A C word transfers control. -/
theorem Eff.commit_goto_c {u : State} {k pc : Nat} {iw : IssueInfo} (hc : u.cur = .c k) (hi : u.iw = iw) (hr : iw.resumed = false) :
    (Eff.goto u pc).commit (.c k) iw = u.repair.modTeam k fun x => { x with ctrl := x.ctrl.passed iw.words pc } := by
  have hc : u.repair.cur = .c k := by simp [hc]
  have hi : u.repair.iw = iw := by simp [hi]
  simp only [Eff.commit, State.countWords_c hc (hi ▸ hr), hi]
  simp [State.modCtrl, CtrlState.passed]

/-- The run of a context with a word of its body after the word issued. -/
theorem RecRun.step_passed {r : RecRun} {n : Nat} (hl : r.loopLeft = 0) : r.step n = { r with pos := r.pos + n } := by
  simp [RecRun.step, hl]

/-- An update of a group's X context is an update of the group, and so for A. -/
theorem State.modCtx_x (s : State) (k g : Nat) (f : CtxState → CtxState) :
    s.modCtx (.x k g) f = s.modGroup k g fun x => { x with xctx := f x.xctx } := rfl
theorem State.modCtx_a (s : State) (k g : Nat) (f : CtxState → CtxState) :
    s.modCtx (.a k g) f = s.modGroup k g fun x => { x with actx := f x.actx } := rfl
theorem State.modCtx_m (s : State) (k : Nat) (f : CtxState → CtxState) :
    s.modCtx (.m k) f = s.modTeam k fun x => { x with mctx := f x.mctx } := rfl

@[simp] theorem State.modCtx_modCtx (s : State) (c : Ctx) (f h : CtxState → CtxState) :
    (s.modCtx c f).modCtx c h = s.modCtx c fun x => h (f x) := by
  cases c <;> simp [State.modCtx]

@[simp] theorem State.ctxState_modCtx (s : State) (c : Ctx) (f : CtxState → CtxState) (hc : c.stream ≠ .c) :
    (s.modCtx c f).ctxState c = f (s.ctxState c) := by
  cases c <;> simp_all [State.modCtx, State.ctxState, Ctx.stream]

/-- Two updates of a context that agree on it are one. -/
theorem State.modCtx_congr {s : State} {c : Ctx} {f h : CtxState → CtxState} (e : f (s.ctxState c) = h (s.ctxState c)) :
    s.modCtx c f = s.modCtx c h := by
  cases c <;> simp_all [State.modCtx, State.ctxState, State.modGroup, State.modTeam, Team.modGroup, State.group]

/-- Counting a word of a record. -/
theorem State.countWords_run {s : State} {c : Ctx} (hs : c.stream ≠ .c) (hc : s.cur = c) (hr : s.iw.resumed = false) :
    s.countWords = s.modRun c fun r =>
      { r with count := r.count + s.iw.words.length, sig := sigWords (c.stream == .m) r.sig s.iw.words, lastPc := s.iw.pc } := by
  subst hc
  unfold State.countWords
  rw [hr, if_neg (by decide)]
  split
  · rename_i h; simp [h, Ctx.stream] at hs
  · rfl

/-- A record with a word of its body after the word issued moves to it. -/
theorem State.advanceRun_mid {s : State} {c : Ctx} {r : RecRun} {n : Nat} (hrun : (s.ctxState c).run = some r)
    (hst : r.st.issues = true) (hp : (r.step n).pos < r.body.length) : s.advanceRun c n = s.modRun c fun x => x.step n := by
  unfold State.advanceRun
  rw [hrun]
  cases h : r.st <;> simp_all [RunState.issues, RecRun.body]

/-- `midBody` looks at the context and the word alone. -/
theorem State.midBody_congr {s u : State} (hc : u.cur = s.cur) (hi : u.iw = s.iw)
    (hx : (u.ctxState s.cur).run = (s.ctxState s.cur).run) : u.midBody = s.midBody := by
  unfold State.midBody
  rw [hc, hi]
  cases h : s.cur <;> simp_all

/-- A word of a record with a word of its body after it completes: its context is past it, and nothing else changes. -/
theorem Eff.commit_done_run {u : State} {c : Ctx} {iw : IssueInfo} (hs : c.stream ≠ .c) (hc : u.cur = c) (hi : u.iw = iw)
    (hm : u.midBody = true) :
    (Eff.done u).commit c iw = u.repair.modCtx c fun x => x.passed (c.stream == .m) iw := by
  have hb : (Eff.done u).commit c iw = (Eff.done u.repair).commit c iw := by
    simp only [Eff.commit, State.repair_repair]
  have hm : u.repair.midBody = true := by
    rw [← hm]; exact State.midBody_congr (by simp) (by simp) (by simp)
  have hc : u.repair.cur = c := by simp [hc]
  have hi : u.repair.iw = iw := by simp [hi]
  have hrr := u.repair_repair
  rw [hb]
  generalize u.repair = u at *
  subst hi
  unfold State.midBody at hm
  simp only [Bool.and_eq_true, Bool.not_eq_true'] at hm
  obtain ⟨hr, hm⟩ := hm
  have hm : ∃ r, (u.ctxState c).run = some r ∧ r.loopLeft = 0 ∧ r.st.issues = true ∧ r.pos + u.iw.words.length < r.body.length := by
    rw [hc] at hm
    split at hm
    · simp [Ctx.stream] at hs
    · split at hm
      · rename_i r hrun
        simp only [Bool.and_eq_true, beq_iff_eq, decide_eq_true_eq] at hm
        exact ⟨r, hrun, hm.1.1, hm.1.2, hm.2⟩
      · cases hm
  obtain ⟨r, hrun, hl, hst, hp⟩ := hm
  have hcase : (Eff.done u).commit c u.iw =
      ((u.countWords.modCtx c fun x => { x with waiting := false }).advanceRun c u.iw.words.length) := by
    cases c with
    | c k => simp [Ctx.stream] at hs
    | _ => simp [Eff.commit, hr, hrr]
  rw [hcase, State.countWords_run hs hc hr, State.modRun, State.modCtx_modCtx]
  rw [State.advanceRun_mid (r := { r with count := r.count + u.iw.words.length, sig := sigWords (c.stream == .m) r.sig u.iw.words, lastPc := u.iw.pc })
    (by rw [State.ctxState_modCtx _ _ _ hs, hrun]; rfl) hst (by simpa [RecRun.step, hl, RecRun.body] using hp)]
  rw [State.modRun, State.modCtx_modCtx]
  apply State.modCtx_congr
  simp [hrun, CtxState.passed, RecRun.passed, RecRun.step, hl]

end Sys2Proof.Machine
end

