-- ==== Sys2Proof/Laws/Exceptions.lean ====
section
/-!
SUPPORT. Laws of taking an exception (01 R24 to R26, 13 R330, 20 R454 to R456, R462) and of the turn that a step takes.
-/
namespace Sys2Proof.Machine

/-- The turn a step takes: the head of the agenda, or the schedule's. -/
theorem State.nextTurn_cons {s : State} {t : Turn} {ts : List Turn} (h : s.agenda = t :: ts) :
    s.nextTurn = (t, { s with agenda := ts, tick := s.tick + 1 }) := by simp [State.nextTurn, h]

theorem State.nextTurn_nil {s : State} (h : s.agenda = []) : s.nextTurn = (Config.turn s.tick, { s with tick := s.tick + 1 }) := by
  simp [State.nextTurn, h]

/-- Reporting uncorrectable data, and quarantining its line, change no team and no instance. -/
@[simp] theorem State.quarantine_teams (s : State) (pa : Nat) : (s.quarantine pa).teams = s.teams := by
  unfold State.quarantine; dsimp only
  split
  · rfl
  · split <;> rfl

@[simp] theorem State.quarantine_insts (s : State) (pa : Nat) : (s.quarantine pa).insts = s.insts := by
  unfold State.quarantine; dsimp only
  split
  · rfl
  · split <;> rfl

@[simp] theorem State.reportData_teams (s : State) (t : Nat) (r : Raise) : (s.reportData t r).teams = s.teams := by
  unfold State.reportData
  split
  · rfl
  · split
    · dsimp only; split <;> simp
    · rfl

@[simp] theorem State.reportData_insts (s : State) (t : Nat) (r : Raise) : (s.reportData t r).insts = s.insts := by
  unfold State.reportData
  split
  · rfl
  · split
    · dsimp only; split <;> simp
    · rfl

@[simp] theorem State.reportData_team (s : State) (t : Nat) (r : Raise) (n : Nat) : (s.reportData t r).team n = s.team n := by
  simp [State.team]

@[simp] theorem State.reportData_inst (s : State) (t : Nat) (r : Raise) (n : Nat) : (s.reportData t r).inst n = s.inst n := by
  simp [State.inst]

/-- A serviceable fault of a partition with a fault service parks its context. -/
theorem State.raise_serviced {s : State} {t : Nat} {r : Raise} {c : Ctx} (hc : r.ctx = some c) (hs : r.serviceable = true)
    (hf : (s.part (s.inst (s.team t).inst).card.pid).fltEnable = true) (w n : Nat) : s.raise t r w n = s.parkFault t c r := by
  simp [State.raise, hc, hs, hf]

/-- Every other cause: a replay, a cause raised while a handler runs, STOP, or the disposition of its class. -/
theorem State.raise_eq {s : State} {t : Nat} {r : Raise}
    (hs : ¬(r.serviceable = true ∧ (s.part (s.inst (s.team t).inst).card.pid).fltEnable = true)) (w n : Nat) :
    s.raise t r w n =
      let u := s.reportData t r
      let code := (s.inst (s.team t).inst).card.nibble r.cause
      if u.canReplay t r then u.replay t r
      else match (s.team t).handler with
      | some h =>
        if r.ctx == some (.c t) then u.dispose t 0 r w n
        else if u.sameCycle t h r then (if code = 1 then u.unenter t h else u).dispose t code r w n
        else (match r.ctx with
          | some c => u.stopCtx c
          | none => u).modTeam t fun x => { x with held := x.held ++ [{ r with reported := true }] }
      | none => if (s.team t).fallback then u.dispose t 0 r w n else u.dispose t code r w n := by
  have hb : (r.serviceable && (s.part (s.inst (s.team t).inst).card.pid).fltEnable) = false := by simpa using hs
  unfold State.raise
  dsimp only
  rw [hb]
  rcases r.ctx with _ | c <;> rfl

/-- A word that waits leaves an A, X or M context where it is, waiting. -/
theorem Eff.commit_wait_run {u : State} {c : Ctx} {iw : IssueInfo} (hs : c.stream ≠ .c) :
    (Eff.wait u).commit c iw = u.modCtx c fun x => { x with waiting := true } := by
  cases c <;> first | rfl | exact absurd rfl hs

/-- A word that traps is what the raise is. -/
theorem Eff.commit_trap {u : State} {r : Raise} {c : Ctx} {iw : IssueInfo} :
    (Eff.trap u r).commit c iw = u.raise c.team r iw.words.length iw.next := rfl

end Sys2Proof.Machine
end

