-- ==== Sys2Proof/Laws/Memory.lean ====
section
/-!
SUPPORT. Laws of memory (00 R9, R11): a read after a write, the canonical form, and the writes made at a home.
-/
namespace Sys2Proof.Machine

/-! ## Cells -/

/-- Every address of a list of cells lies above `a`. -/
def cellsAbove (a : Nat) (cs : List Host.Cell) : Prop := ∀ c ∈ cs, a < c.1

theorem cellsWf_cons {c : Host.Cell} {cs : List Host.Cell} :
    cellsWf (c :: cs) = true ↔ c.2 ≠ Memory.unlisted ∧ cellsAbove c.1 cs ∧ cellsWf cs = true := by
  induction cs generalizing c with
  | nil => simp [cellsWf, cellsAbove]
  | cons d ds ih =>
    rw [cellsWf, Bool.and_eq_true, Bool.and_eq_true, ih]
    simp only [bne_iff_ne, decide_eq_true_eq, cellsAbove, List.mem_cons, forall_eq_or_imp]
    constructor
    · rintro ⟨⟨h1, h2⟩, h3, h4, h5⟩
      exact ⟨h1, ⟨h2, fun x hx => Nat.lt_trans h2 (h4 x hx)⟩, h3, h4, h5⟩
    · rintro ⟨h1, ⟨h2, -⟩, h3, h4, h5⟩
      exact ⟨⟨h1, h2⟩, h3, h4, h5⟩

theorem cellsAbove_write {a b : Nat} {v : Byte} {cs : List Host.Cell} (h : cellsAbove b cs) (hb : b < a) :
    cellsAbove b (cellsWrite cs a v) := by
  induction cs with
  | nil => unfold cellsWrite; split <;> simp [cellsAbove, hb]
  | cons c cs ih =>
    have hc : b < c.1 := h c (List.mem_cons_self ..)
    have ht : cellsAbove b cs := fun x hx => h x (List.mem_cons_of_mem _ hx)
    unfold cellsWrite
    split
    · split
      · exact h
      · intro x hx; rcases List.mem_cons.1 hx with rfl | hx
        · exact hb
        · exact h x hx
    · split
      · split
        · exact ht
        · intro x hx; rcases List.mem_cons.1 hx with rfl | hx
          · exact hb
          · exact ht x hx
      · intro x hx; rcases List.mem_cons.1 hx with rfl | hx
        · exact hc
        · exact ih ht x hx

/-- A write keeps the canonical form. -/
theorem cellsWf_write {cs : List Host.Cell} (h : cellsWf cs = true) (a : Nat) (v : Byte) : cellsWf (cellsWrite cs a v) = true := by
  induction cs with
  | nil => unfold cellsWrite; split <;> simp_all [cellsWf]
  | cons c cs ih =>
    obtain ⟨h1, h2, h3⟩ := cellsWf_cons.1 h
    unfold cellsWrite
    split
    · rename_i hlt
      split
      · exact h
      · rename_i hv
        refine cellsWf_cons.2 ⟨hv, ?_, h⟩
        intro x hx; rcases List.mem_cons.1 hx with rfl | hx
        · exact hlt
        · exact Nat.lt_trans hlt (h2 x hx)
    · split
      · rename_i hv; subst hv
        split
        · exact h3
        · rename_i hv; exact cellsWf_cons.2 ⟨hv, h2, h3⟩
      · exact cellsWf_cons.2 ⟨h1, cellsAbove_write h2 (by omega), ih h3⟩

theorem cellsRead_above {a b : Nat} {cs : List Host.Cell} (h : cellsAbove b cs) (hb : a ≤ b) : cellsRead cs a = Memory.unlisted := by
  induction cs with
  | nil => rfl
  | cons c cs ih =>
    have hc : b < c.1 := h c (List.mem_cons_self ..)
    unfold cellsRead
    rw [if_neg (by omega)]
    exact ih fun x hx => h x (List.mem_cons_of_mem _ hx)

/-- The byte written reads back, every other address reads as before. -/
theorem cellsRead_write {cs : List Host.Cell} (h : cellsWf cs = true) (a b : Nat) (v : Byte) :
    cellsRead (cellsWrite cs a v) b = if b = a then v else cellsRead cs b := by
  induction cs with
  | nil =>
    unfold cellsWrite
    by_cases hb : b = a
    · subst hb; rw [if_pos rfl]; split
      · rename_i hv; exact hv.symm
      · simp [cellsRead]
    · rw [if_neg hb]; split
      · rfl
      · simp [cellsRead, Ne.symm hb]
  | cons c cs ih =>
    obtain ⟨h1, h2, h3⟩ := cellsWf_cons.1 h
    unfold cellsWrite
    by_cases hlt : a < c.1
    · rw [if_pos hlt]
      by_cases hb : b = a
      · subst hb
        split
        · rename_i hv
          simp only [if_true, hv, cellsRead, if_neg (show ¬c.1 = b by omega)]
          exact cellsRead_above h2 (by omega)
        · simp [cellsRead]
      · rw [if_neg hb]; split
        · rfl
        · simp [cellsRead, Ne.symm hb]
    · rw [if_neg hlt]
      by_cases hc : c.1 = a
      · rw [if_pos hc]
        by_cases hb : b = a
        · subst hb
          split
          · rename_i hv; rw [if_pos rfl, hv]; exact cellsRead_above h2 (by omega)
          · simp [cellsRead]
        · rw [if_neg hb]; split
          · simp [cellsRead, hc, Ne.symm hb]
          · simp [cellsRead, hc, Ne.symm hb]
      · rw [if_neg hc]
        by_cases hb : c.1 = b
        · simp [cellsRead, hb, show ¬b = a by omega]
        · simp only [cellsRead, if_neg hb, ih h3]

/-! ## Memories -/

theorem Memory.wf_write {m : Memory} (h : m.wf = true) (a : Nat) (v : Byte) : (m.write a v).wf = true := cellsWf_write h a v

theorem Memory.read_write {m : Memory} (h : m.wf = true) (a b : Nat) (v : Byte) :
    (m.write a v).read b = if b = a then v else m.read b := cellsRead_write h a b v

theorem Memory.wf_writeBytes {m : Memory} (h : m.wf = true) (a : Nat) (bs : List Byte) : (m.writeBytes a bs).wf = true := by
  induction bs generalizing m a with
  | nil => exact h
  | cons b bs ih => exact ih (Memory.wf_write h a b) _

theorem Memory.wf_writeN {m : Memory} (h : m.wf = true) (a n x : Nat) : (m.writeN a n x).wf = true := Memory.wf_writeBytes h a _

/-- A run of bytes written reads back; every other address reads as before. -/
theorem Memory.read_writeBytes {m : Memory} (h : m.wf = true) (a b : Nat) (bs : List Byte) :
    (m.writeBytes a bs).read b = if a ≤ b ∧ b < a + bs.length then bs.getD (b - a) 0 else m.read b := by
  induction bs generalizing m a with
  | nil =>
    have h0 : ¬(a ≤ b ∧ b < a + ([] : List Byte).length) := by simp only [List.length_nil]; omega
    exact (if_neg h0).symm
  | cons x xs ih =>
    rw [Memory.writeBytes, ih (Memory.wf_write h a x), Memory.read_write h]
    by_cases hb : b = a
    · subst hb
      rw [if_neg (by omega), if_pos rfl, if_pos (by simp only [List.length_cons]; omega), Nat.sub_self]; rfl
    · rw [if_neg hb]
      by_cases hr : a + 1 ≤ b ∧ b < a + 1 + xs.length
      · rw [if_pos hr, if_pos (by simp only [List.length_cons]; omega), show b - a = (b - (a + 1)) + 1 by omega]
        rfl
      · rw [if_neg hr, if_neg (by simp only [List.length_cons]; omega)]

/-! ## Writes at a home -/

theorem State.memWf_baseWrite {s : State} (h : s.memWf) (pa : Nat) (v : Byte) : (s.baseWrite pa v).memWf := by
  unfold State.baseWrite
  split
  · split
    · exact h
    · exact ⟨Memory.wf_write h.1 pa v, h.2⟩
  · split
    · exact ⟨h.1, Memory.wf_write h.2 _ v⟩
    · exact h
  · exact h

/-- Two states with the same memories keep the form together. -/
theorem State.memWf_congr {s t : State} (h : s.memWf) (e : t.mem = s.mem) (f : t.hostMem = s.hostMem) : t.memWf := by
  unfold State.memWf at *; rwa [e, f]

theorem State.exhaust_mem (s : State) (rv : Revision) : (s.exhaust rv).mem = s.mem ∧ (s.exhaust rv).hostMem = s.hostMem := by
  unfold State.exhaust; split <;> exact ⟨rfl, rfl⟩

theorem State.keepLine_mem (s : State) (rv : Revision) (f : Revision → Revision) :
    (s.keepLine rv f).mem = s.mem ∧ (s.keepLine rv f).hostMem = s.hostMem := by
  unfold State.keepLine; dsimp only; split <;> exact ⟨rfl, rfl⟩

/-- A fold of steps that change no memory changes none. -/
theorem foldl_mem {α : Type} (f : State → α → State) (hf : ∀ s x, (f s x).mem = s.mem ∧ (f s x).hostMem = s.hostMem)
    (l : List α) (s : State) : (l.foldl f s).mem = s.mem ∧ (l.foldl f s).hostMem = s.hostMem := by
  induction l generalizing s with
  | nil => exact ⟨rfl, rfl⟩
  | cons x xs ih => exact ⟨(ih _).1.trans (hf s x).1, (ih _).2.trans (hf s x).2⟩

theorem State.retain_mem (s : State) (pid rev va pa : Nat) :
    (s.retain pid rev va pa).mem = s.mem ∧ (s.retain pid rev va pa).hostMem = s.hostMem := by
  apply foldl_mem
  intro u rv; split
  · exact State.keepLine_mem ..
  · exact State.exhaust_mem ..

theorem State.memWf_revWrite {s : State} (h : s.memWf) (pid n r va pa : Nat) (v : Byte) : (s.revWrite pid n r va pa v).memWf := by
  induction n generalizing s r with
  | zero => exact State.memWf_baseWrite h pa v
  | succ n ih =>
    have hr : (s.retain pid r va pa).memWf := State.memWf_congr h (State.retain_mem ..).1 (State.retain_mem ..).2
    unfold State.revWrite
    dsimp only
    split
    · exact State.memWf_baseWrite hr pa v
    · split
      · split
        · exact hr
        · split
          · exact State.memWf_congr hr (State.keepLine_mem ..).1 (State.keepLine_mem ..).2
          · exact State.memWf_congr hr (State.exhaust_mem ..).1 (State.exhaust_mem ..).2
      · exact ih hr _

theorem State.touchAcc_mem (s : State) (rev va pa n : Nat) :
    (s.touchAcc rev va pa n).mem = s.mem ∧ (s.touchAcc rev va pa n).hostMem = s.hostMem := by
  unfold State.touchAcc; split <;> exact ⟨rfl, rfl⟩

theorem State.memWf_touchAcc {s : State} (h : s.memWf) (rev va pa n : Nat) : (s.touchAcc rev va pa n).memWf :=
  State.memWf_congr h (State.touchAcc_mem ..).1 (State.touchAcc_mem ..).2

theorem State.memWf_homeWrite {s : State} (h : s.memWf) (pid rev va pa : Nat) (v : Byte) : (s.homeWrite pid rev va pa v).memWf :=
  State.memWf_revWrite (State.memWf_touchAcc h ..) ..

/-- A write of bytes at a home keeps the canonical form of both memories. -/
theorem State.memWf_homeWriteBytes {s : State} (h : s.memWf) (pid rev va pa : Nat) (bs : List Byte) :
    (s.homeWriteBytes pid rev va pa bs).memWf := by
  induction bs generalizing s va pa with
  | nil => exact h
  | cons b bs ih => exact ih (State.memWf_homeWrite h pid rev va pa b) _ _

/-- A write by a physical agent keeps it. -/
theorem State.retainPhys_mem (s : State) (pa : Nat) : (s.retainPhys pa).mem = s.mem ∧ (s.retainPhys pa).hostMem = s.hostMem := by
  apply foldl_mem
  intro u rv; split
  · exact ⟨rfl, rfl⟩
  · split
    · exact ⟨rfl, rfl⟩
    · split
      · exact State.keepLine_mem ..
      · exact State.exhaust_mem ..

theorem State.memWf_physWrite {s : State} (h : s.memWf) (pa : Nat) (bs : List Byte) : (s.physWrite pa bs).memWf := by
  induction bs generalizing s pa with
  | nil => exact h
  | cons b bs ih =>
    have ht := State.memWf_touchAcc h 0 pa pa 1
    exact ih (State.memWf_baseWrite (State.memWf_congr ht (State.retainPhys_mem ..).1 (State.retainPhys_mem ..).2) pa b) _

/-! ## Write-back from the L1 caches -/

theorem State.quarantine_mem (s : State) (pa : Nat) : (s.quarantine pa).mem = s.mem ∧ (s.quarantine pa).hostMem = s.hostMem := by
  unfold State.quarantine; dsimp only
  split
  · exact ⟨rfl, rfl⟩
  · split <;> exact ⟨rfl, rfl⟩

theorem State.memWf_writeBackAll {s : State} (h : s.memWf) (bs : List L1Byte) : (s.writeBackAll bs).memWf := by
  induction bs generalizing s with
  | nil => exact h
  | cons b bs ih =>
    unfold State.writeBackAll
    split
    · exact ih (State.memWf_congr h (State.quarantine_mem ..).1 (State.quarantine_mem ..).2)
    · exact ih (State.memWf_homeWrite h ..)

end Sys2Proof.Machine
end

