-- ==== Sys2Proof/Laws/PerInstr.lean ====
section
/-!
SUPPORT. The per-instruction family `Direct`: a word the encoder writes for an instruction lies in the direct space, below 2³¹
(05 R111, R116: bit 31 of a direct word is zero).
-/
namespace Sys2Proof.Laws

theorem mkDR_lt {op : Nat} (h : op < 128) (d a b fn : BitVec 6) : mkDR op d a b fn < 2 ^ 31 := by
  unfold mkDR; omega
theorem mkDI_lt {op : Nat} (h : op < 128) (d a : BitVec 6) (imm : BitVec 12) : mkDI op d a imm < 2 ^ 31 := by
  unfold mkDI; omega
theorem mkDW_lt {op : Nat} (h : op < 128) (d : BitVec 6) {imm : Nat} (hi : imm < 2 ^ 18) : mkDW op d imm < 2 ^ 31 := by
  unfold mkDW; omega
theorem mkDJ_lt {op : Nat} (h : op < 128) (off : BitVec 24) : mkDJ op off < 2 ^ 31 := by
  unfold mkDJ; omega

namespace Direct

/-- The word the encoder writes for the instruction, if it writes a direct word, has bit 31 clear. -/
def Statement (i : Instr) : Prop := ∀ w, encodeDirect i = some w → w < 2 ^ 31

theorem ofNone {i : Instr} (h : encodeDirect i = none) : Statement i := fun w hw => by rw [h] at hw; cases hw
theorem ofSome {i : Instr} {w : Nat} (h : encodeDirect i = some w) (hw : w < 2 ^ 31) : Statement i := fun v hv => by
  rw [h] at hv; injection hv with hv; rwa [← hv]

theorem submit : Statement .submit := ofNone rfl
theorem withdraw : Statement .withdraw := ofNone rfl
theorem cardAcceptance : Statement .cardAcceptance := ofNone rfl
theorem resultRead : Statement .resultRead := ofNone rfl
theorem release : Statement .release := ofNone rfl
theorem instanceReady : Statement .instanceReady := ofNone rfl
theorem signalArrival : Statement .signalArrival := ofNone rfl
theorem drainComplete : Statement .drainComplete := ofNone rfl
theorem bankTransferComplete : Statement .bankTransferComplete := ofNone rfl
theorem spillComplete : Statement .spillComplete := ofNone rfl
theorem teamResume : Statement .teamResume := ofNone rfl
theorem budgetReport : Statement .budgetReport := ofNone rfl
theorem deadlineCheck : Statement .deadlineCheck := ofNone rfl
theorem escalationResolution : Statement .escalationResolution := ofNone rfl
theorem ptpTimingMessage : Statement .ptpTimingMessage := ofNone rfl
theorem ptpStatusRead : Statement .ptpStatusRead := ofNone rfl
theorem redundantCompare : Statement .redundantCompare := ofNone rfl
theorem reconstructionStart : Statement .reconstructionStart := ofNone rfl
theorem reconstructionComplete : Statement .reconstructionComplete := ofNone rfl
theorem msixSignal : Statement .msixSignal := ofNone rfl
theorem recordBodyFetch : Statement .recordBodyFetch := ofNone rfl
theorem iterBoundExpiry : Statement .iterBoundExpiry := ofNone rfl
theorem loadDataLand : Statement .loadDataLand := ofNone rfl
theorem mOpRetire : Statement .mOpRetire := ofNone rfl
theorem bodyPull : Statement .bodyPull := ofNone rfl
theorem faultBankSwitch : Statement .faultBankSwitch := ofNone rfl
theorem bankSwitchComplete : Statement .bankSwitchComplete := ofNone rfl
theorem pageWalk : Statement .pageWalk := ofNone rfl
theorem faultRecordPost : Statement .faultRecordPost := ofNone rfl
theorem fltAnswerResolved : Statement .fltAnswerResolved := ofNone rfl
theorem fltAnswerUnresolved : Statement .fltAnswerUnresolved := ofNone rfl
theorem tlbInvPage : Statement .tlbInvPage := ofNone rfl
theorem tlbInvPartition : Statement .tlbInvPartition := ofNone rfl
theorem tlbInvTablePage : Statement .tlbInvTablePage := ofNone rfl
theorem tlbInvComplete : Statement .tlbInvComplete := ofNone rfl
theorem streamerCopyComplete : Statement .streamerCopyComplete := ofNone rfl
theorem forwardingEntryExpiry : Statement .forwardingEntryExpiry := ofNone rfl
theorem migFwdExtRead : Statement .migFwdExtRead := ofNone rfl
theorem copyCommandFetch : Statement .copyCommandFetch := ofNone rfl
theorem copy : Statement .copy := ofNone rfl
theorem wait : Statement .wait := ofNone rfl
theorem copyPost : Statement .copyPost := ofNone rfl
theorem link : Statement .link := ofNone rfl
theorem stop : Statement .stop := ofNone rfl
theorem arm : Statement .arm := ofNone rfl
theorem copyCommandCompletion : Statement .copyCommandCompletion := ofNone rfl
theorem ingressFrame : Statement .ingressFrame := ofNone rfl
theorem memoryRequest : Statement .memoryRequest := ofNone rfl
theorem regulatorWindowStart : Statement .regulatorWindowStart := ofNone rfl
theorem rfmCommand : Statement .rfmCommand := ofNone rfl
theorem refreshWindowEnd : Statement .refreshWindowEnd := ofNone rfl
theorem rasterCommandStart : Statement .rasterCommandStart := ofNone rfl
theorem rasterBatchDelivery : Statement .rasterBatchDelivery := ofNone rfl
theorem rasterCommandComplete : Statement .rasterCommandComplete := ofNone rfl
theorem samplerDelivery : Statement .samplerDelivery := ofNone rfl
theorem traversalRound : Statement .traversalRound := ofNone rfl
theorem traversalResult : Statement .traversalResult := ofNone rfl
theorem builderCommandStart : Statement .builderCommandStart := ofNone rfl
theorem builderCommandComplete : Statement .builderCommandComplete := ofNone rfl
theorem pinDrop : Statement .pinDrop := ofNone rfl
theorem merge : Statement .merge := ofNone rfl
theorem swapOut : Statement .swapOut := ofNone rfl
theorem swapIn : Statement .swapIn := ofNone rfl
theorem swapOutComplete : Statement .swapOutComplete := ofNone rfl
theorem swapInComplete : Statement .swapInComplete := ofNone rfl
theorem deviceReset : Statement .deviceReset := ofNone rfl
theorem heartbeat : Statement .heartbeat := ofNone rfl
theorem heartbeatMiss : Statement .heartbeatMiss := ofNone rfl
theorem unitRestart : Statement .unitRestart := ofNone rfl
theorem uncorrectableReport : Statement .uncorrectableReport := ofNone rfl
theorem marginSample : Statement .marginSample := ofNone rfl
theorem powerCapControl : Statement .powerCapControl := ofNone rfl
theorem thermalLimit : Statement .thermalLimit := ofNone rfl
theorem pageMoveRequest : Statement .pageMoveRequest := ofNone rfl
theorem pageMoveComplete : Statement .pageMoveComplete := ofNone rfl
theorem migrationWindowStart : Statement .migrationWindowStart := ofNone rfl
theorem linkRequest : Statement .linkRequest := ofNone rfl
theorem fuicaLinkDown : Statement .fuicaLinkDown := ofNone rfl
theorem fuicaLinkUp : Statement .fuicaLinkUp := ofNone rfl
theorem pcieLinkDown : Statement .pcieLinkDown := ofNone rfl
theorem hostW2Request : Statement .hostW2Request := ofNone rfl
theorem pcieOutboundCompletion : Statement .pcieOutboundCompletion := ofNone rfl
theorem partitionValidSet : Statement .partitionValidSet := ofNone rfl
theorem partitionValidClear : Statement .partitionValidClear := ofNone rfl
theorem partitionLock : Statement .partitionLock := ofNone rfl
theorem jobtabLock : Statement .jobtabLock := ofNone rfl
theorem registerWrite : Statement .registerWrite := ofNone rfl
theorem nop : Statement .nop := ofSome rfl (mkDR_lt (by decide) ..)
theorem add : ∀ x0 x1 x2, Statement (.add x0 x1 x2) := fun _ _ _ => ofSome rfl (mkDR_lt (by decide) ..)
theorem sub : ∀ x0 x1 x2, Statement (.sub x0 x1 x2) := fun _ _ _ => ofSome rfl (mkDR_lt (by decide) ..)
theorem mul : ∀ x0 x1 x2, Statement (.mul x0 x1 x2) := fun _ _ _ => ofSome rfl (mkDR_lt (by decide) ..)
theorem mulh : ∀ x0 x1 x2, Statement (.mulh x0 x1 x2) := fun _ _ _ => ofSome rfl (mkDR_lt (by decide) ..)
theorem mulhu : ∀ x0 x1 x2, Statement (.mulhu x0 x1 x2) := fun _ _ _ => ofSome rfl (mkDR_lt (by decide) ..)
theorem div : ∀ x0 x1 x2, Statement (.div x0 x1 x2) := fun _ _ _ => ofSome rfl (mkDR_lt (by decide) ..)
theorem divu : ∀ x0 x1 x2, Statement (.divu x0 x1 x2) := fun _ _ _ => ofSome rfl (mkDR_lt (by decide) ..)
theorem rem : ∀ x0 x1 x2, Statement (.rem x0 x1 x2) := fun _ _ _ => ofSome rfl (mkDR_lt (by decide) ..)
theorem remu : ∀ x0 x1 x2, Statement (.remu x0 x1 x2) := fun _ _ _ => ofSome rfl (mkDR_lt (by decide) ..)
theorem and : ∀ x0 x1 x2, Statement (.and x0 x1 x2) := fun _ _ _ => ofSome rfl (mkDR_lt (by decide) ..)
theorem or : ∀ x0 x1 x2, Statement (.or x0 x1 x2) := fun _ _ _ => ofSome rfl (mkDR_lt (by decide) ..)
theorem xor : ∀ x0 x1 x2, Statement (.xor x0 x1 x2) := fun _ _ _ => ofSome rfl (mkDR_lt (by decide) ..)
theorem shl : ∀ x0 x1 x2, Statement (.shl x0 x1 x2) := fun _ _ _ => ofSome rfl (mkDR_lt (by decide) ..)
theorem shr : ∀ x0 x1 x2, Statement (.shr x0 x1 x2) := fun _ _ _ => ofSome rfl (mkDR_lt (by decide) ..)
theorem sar : ∀ x0 x1 x2, Statement (.sar x0 x1 x2) := fun _ _ _ => ofSome rfl (mkDR_lt (by decide) ..)
theorem min : ∀ x0 x1 x2, Statement (.min x0 x1 x2) := fun _ _ _ => ofSome rfl (mkDR_lt (by decide) ..)
theorem max : ∀ x0 x1 x2, Statement (.max x0 x1 x2) := fun _ _ _ => ofSome rfl (mkDR_lt (by decide) ..)
theorem minu : ∀ x0 x1 x2, Statement (.minu x0 x1 x2) := fun _ _ _ => ofSome rfl (mkDR_lt (by decide) ..)
theorem maxu : ∀ x0 x1 x2, Statement (.maxu x0 x1 x2) := fun _ _ _ => ofSome rfl (mkDR_lt (by decide) ..)
theorem slt : ∀ x0 x1 x2, Statement (.slt x0 x1 x2) := fun _ _ _ => ofSome rfl (mkDR_lt (by decide) ..)
theorem sltu : ∀ x0 x1 x2, Statement (.sltu x0 x1 x2) := fun _ _ _ => ofSome rfl (mkDR_lt (by decide) ..)
theorem seq : ∀ x0 x1 x2, Statement (.seq x0 x1 x2) := fun _ _ _ => ofSome rfl (mkDR_lt (by decide) ..)
theorem sne : ∀ x0 x1 x2, Statement (.sne x0 x1 x2) := fun _ _ _ => ofSome rfl (mkDR_lt (by decide) ..)
theorem addi : ∀ x0 x1 x2, Statement (.addi x0 x1 x2) := fun _ _ _ => ofSome rfl (mkDI_lt (by decide) ..)
theorem andi : ∀ x0 x1 x2, Statement (.andi x0 x1 x2) := fun _ _ _ => ofSome rfl (mkDI_lt (by decide) ..)
theorem ori : ∀ x0 x1 x2, Statement (.ori x0 x1 x2) := fun _ _ _ => ofSome rfl (mkDI_lt (by decide) ..)
theorem xori : ∀ x0 x1 x2, Statement (.xori x0 x1 x2) := fun _ _ _ => ofSome rfl (mkDI_lt (by decide) ..)
theorem shli : ∀ x0 x1 x2, Statement (.shli x0 x1 x2) := fun _ _ _ => ofSome rfl (mkDR_lt (by decide) ..)
theorem shri : ∀ x0 x1 x2, Statement (.shri x0 x1 x2) := fun _ _ _ => ofSome rfl (mkDR_lt (by decide) ..)
theorem sari : ∀ x0 x1 x2, Statement (.sari x0 x1 x2) := fun _ _ _ => ofSome rfl (mkDR_lt (by decide) ..)
theorem slti : ∀ x0 x1 x2, Statement (.slti x0 x1 x2) := fun _ _ _ => ofSome rfl (mkDI_lt (by decide) ..)
theorem limm : ∀ x0 x1, Statement (.limm x0 x1) := fun _ _ => ofSome rfl (mkDW_lt (by decide) _ (by omega))
theorem limmh : ∀ x0 x1, Statement (.limmh x0 x1) := fun _ _ => ofSome rfl (mkDW_lt (by decide) _ (by omega))
theorem limmx : ∀ x0 x1, Statement (.limmx x0 x1) := fun _ _ => ofSome rfl (mkDW_lt (by decide) _ (by omega))
theorem limmt : ∀ x0 x1, Statement (.limmt x0 x1) := fun _ _ => ofSome rfl (mkDW_lt (by decide) _ (by omega))
theorem fadd : ∀ x0 x1 x2 x3 x4, Statement (.fadd x0 x1 x2 x3 x4) := fun _ _ _ _ _ => ofSome rfl (mkDR_lt (by decide) ..)
theorem fsub : ∀ x0 x1 x2 x3 x4, Statement (.fsub x0 x1 x2 x3 x4) := fun _ _ _ _ _ => ofSome rfl (mkDR_lt (by decide) ..)
theorem fmul : ∀ x0 x1 x2 x3 x4, Statement (.fmul x0 x1 x2 x3 x4) := fun _ _ _ _ _ => ofSome rfl (mkDR_lt (by decide) ..)
theorem ffma : ∀ x0 x1 x2 x3 x4, Statement (.ffma x0 x1 x2 x3 x4) := fun _ _ _ _ _ => ofSome rfl (mkDR_lt (by decide) ..)
theorem fmin : ∀ x0 x1 x2, Statement (.fmin x0 x1 x2) := fun _ _ _ => ofSome rfl (mkDR_lt (by decide) ..)
theorem fmax : ∀ x0 x1 x2, Statement (.fmax x0 x1 x2) := fun _ _ _ => ofSome rfl (mkDR_lt (by decide) ..)
theorem fcmp : ∀ x0 x1 x2 x3, Statement (.fcmp x0 x1 x2 x3) := fun _ _ _ _ => ofSome rfl (mkDR_lt (by decide) ..)
theorem fcvt : ∀ x0 x1 x2 x3 x4 x5, Statement (.fcvt x0 x1 x2 x3 x4 x5) := fun _ _ _ _ _ _ => ofSome rfl (mkDR_lt (by decide) ..)
theorem gxlat : ∀ x0 x1 x2, Statement (.gxlat x0 x1 x2) := fun _ _ _ => ofSome rfl (mkDR_lt (by decide) ..)
theorem glim : ∀ x0 x1 x2, Statement (.glim x0 x1 x2) := fun _ _ _ => ofSome rfl (mkDI_lt (by decide) ..)
theorem qcfg : ∀ x0 x1 x2, Statement (.qcfg x0 x1 x2) := fun _ _ _ => ofSome rfl (mkDI_lt (by decide) ..)
theorem qadv : ∀ x0 x1, Statement (.qadv x0 x1) := fun _ _ => ofSome rfl (mkDI_lt (by decide) ..)
theorem qadvTail : ∀ x0 x1, Statement (.qadvTail x0 x1) := fun _ _ => ofSome rfl (mkDI_lt (by decide) ..)
theorem b : ∀ x0, Statement (.b x0) := fun _ => ofSome rfl (mkDJ_lt (by decide) _)
theorem beq : ∀ x0 x1 x2, Statement (.beq x0 x1 x2) := fun _ _ _ => ofSome rfl (mkDI_lt (by decide) ..)
theorem bne : ∀ x0 x1 x2, Statement (.bne x0 x1 x2) := fun _ _ _ => ofSome rfl (mkDI_lt (by decide) ..)
theorem blt : ∀ x0 x1 x2, Statement (.blt x0 x1 x2) := fun _ _ _ => ofSome rfl (mkDI_lt (by decide) ..)
theorem bge : ∀ x0 x1 x2, Statement (.bge x0 x1 x2) := fun _ _ _ => ofSome rfl (mkDI_lt (by decide) ..)
theorem bltu : ∀ x0 x1 x2, Statement (.bltu x0 x1 x2) := fun _ _ _ => ofSome rfl (mkDI_lt (by decide) ..)
theorem bgeu : ∀ x0 x1 x2, Statement (.bgeu x0 x1 x2) := fun _ _ _ => ofSome rfl (mkDI_lt (by decide) ..)
theorem call : ∀ x0, Statement (.call x0) := fun _ => ofSome rfl (mkDJ_lt (by decide) _)
theorem callr : ∀ x0, Statement (.callr x0) := fun _ => ofSome rfl (mkDR_lt (by decide) ..)
theorem ret : Statement .ret := ofSome rfl (mkDR_lt (by decide) ..)
theorem jr : ∀ x0, Statement (.jr x0) := fun _ => ofSome rfl (mkDR_lt (by decide) ..)
theorem brx : ∀ x0 x1, Statement (.brx x0 x1) := fun _ _ => ofSome rfl (mkDR_lt (by decide) ..)
theorem loop : ∀ x0 x1, Statement (.loop x0 x1) := fun _ _ => ofSome rfl (mkDI_lt (by decide) ..)
theorem lset : ∀ x0 x1 x2, Statement (.lset x0 x1 x2) := fun _ _ _ => ofSome rfl (mkDI_lt (by decide) ..)
theorem runa : ∀ x0 x1, Statement (.runa x0 x1) := fun _ _ => ofSome rfl (mkDR_lt (by decide) ..)
theorem runx : ∀ x0 x1, Statement (.runx x0 x1) := fun _ _ => ofSome rfl (mkDR_lt (by decide) ..)
theorem runm : ∀ x0, Statement (.runm x0) := fun _ => ofSome rfl (mkDR_lt (by decide) ..)
theorem tpload : ∀ x0 x1, Statement (.tpload x0 x1) := fun _ _ => ofSome rfl (mkDI_lt (by decide) ..)
theorem fmtset : ∀ x0 x1 x2, Statement (.fmtset x0 x1 x2) := fun _ _ _ => ofSome rfl (mkDI_lt (by decide) ..)
theorem mbset : ∀ x0 x1, Statement (.mbset x0 x1) := fun _ _ => ofSome rfl (mkDI_lt (by decide) ..)
theorem cpy : ∀ x0 x1, Statement (.cpy x0 x1) := fun _ _ => ofSome rfl (mkDR_lt (by decide) ..)
theorem chkick : ∀ x0, Statement (.chkick x0) := fun _ => ofSome rfl (mkDR_lt (by decide) ..)
theorem rast : ∀ x0, Statement (.rast x0) := fun _ => ofSome rfl (mkDR_lt (by decide) ..)
theorem bvhBuild : ∀ x0, Statement (.bvhBuild x0) := fun _ => ofSome rfl (mkDR_lt (by decide) ..)
theorem bvhRefit : ∀ x0, Statement (.bvhRefit x0) := fun _ => ofSome rfl (mkDR_lt (by decide) ..)
theorem bvhRebalance : ∀ x0, Statement (.bvhRebalance x0) := fun _ => ofSome rfl (mkDR_lt (by decide) ..)
theorem bvhPublish : ∀ x0 x1, Statement (.bvhPublish x0 x1) := fun _ _ => ofSome rfl (mkDR_lt (by decide) ..)
theorem bvhQuality : ∀ x0 x1, Statement (.bvhQuality x0 x1) := fun _ _ => ofSome rfl (mkDR_lt (by decide) ..)
theorem gpin : ∀ x0 x1, Statement (.gpin x0 x1) := fun _ _ => ofSome rfl (mkDR_lt (by decide) ..)
theorem gunpin : ∀ x0, Statement (.gunpin x0) := fun _ => ofSome rfl (mkDR_lt (by decide) ..)
theorem defdrain : ∀ x0 x1 x2, Statement (.defdrain x0 x1 x2) := fun _ _ _ => ofSome rfl (mkDR_lt (by decide) ..)
theorem itemq : ∀ x0 x1, Statement (.itemq x0 x1) := fun _ _ => ofSome rfl (mkDR_lt (by decide) ..)
theorem covrd : ∀ x0 x1, Statement (.covrd x0 x1) := fun _ _ => ofSome rfl (mkDR_lt (by decide) ..)
theorem cld : ∀ x0 x1 x2, Statement (.cld x0 x1 x2) := fun _ _ _ => ofSome rfl (mkDI_lt (by decide) ..)
theorem cst : ∀ x0 x1 x2, Statement (.cst x0 x1 x2) := fun _ _ _ => ofSome rfl (mkDI_lt (by decide) ..)
theorem camoTeam : ∀ x0 x1 x2 x3 x4 x5, Statement (.camoTeam x0 x1 x2 x3 x4 x5) := fun _ _ _ _ _ _ => ofSome rfl (mkDR_lt (by decide) ..)
theorem camoClu : ∀ x0 x1 x2 x3 x4, Statement (.camoClu x0 x1 x2 x3 x4) := fun _ _ _ _ _ => ofSome rfl (mkDR_lt (by decide) ..)
theorem camoDev : ∀ x0 x1 x2 x3 x4, Statement (.camoDev x0 x1 x2 x3 x4) := fun _ _ _ _ _ => ofSome rfl (mkDR_lt (by decide) ..)
theorem camoSys : ∀ x0 x1 x2 x3 x4, Statement (.camoSys x0 x1 x2 x3 x4) := fun _ _ _ _ _ => ofSome rfl (mkDR_lt (by decide) ..)
theorem fence : ∀ x0 x1 x2 x3, Statement (.fence x0 x1 x2 x3) := fun _ _ _ _ => ofSome rfl (mkDR_lt (by decide) ..)
theorem barInit : ∀ x0 x1, Statement (.barInit x0 x1) := fun _ _ => ofSome rfl (mkDR_lt (by decide) ..)
theorem barArrive : ∀ x0, Statement (.barArrive x0) := fun _ => ofSome rfl (mkDI_lt (by decide) ..)
theorem barWait : ∀ x0, Statement (.barWait x0) := fun _ => ofSome rfl (mkDI_lt (by decide) ..)
theorem barInval : ∀ x0, Statement (.barInval x0) := fun _ => ofSome rfl (mkDI_lt (by decide) ..)
theorem ctrwait : ∀ x0 x1 x2, Statement (.ctrwait x0 x1 x2) := fun _ _ _ => ofSome rfl (mkDR_lt (by decide) ..)
theorem ctrpost : ∀ x0 x1 x2, Statement (.ctrpost x0 x1 x2) := fun _ _ _ => ofSome rfl (mkDR_lt (by decide) ..)
theorem fork : ∀ x0 x1 x2, Statement (.fork x0 x1 x2) := fun _ _ _ => ofSome rfl (mkDR_lt (by decide) ..)
theorem join : ∀ x0 x1, Statement (.join x0 x1) := fun _ _ => ofSome rfl (mkDR_lt (by decide) ..)
theorem post : ∀ x0 x1, Statement (.post x0 x1) := fun _ _ => ofSome rfl (mkDR_lt (by decide) ..)
theorem take : ∀ x0 x1 x2, Statement (.take x0 x1 x2) := fun _ _ _ => ofSome rfl (mkDR_lt (by decide) ..)
theorem trap : ∀ x0, Statement (.trap x0) := fun _ => ofSome rfl (mkDR_lt (by decide) ..)
theorem eret : Statement .eret := ofSome rfl (mkDR_lt (by decide) ..)
theorem sysr : ∀ x0 x1, Statement (.sysr x0 x1) := fun _ _ => ofSome rfl (mkDI_lt (by decide) ..)
theorem sysw : ∀ x0 x1, Statement (.sysw x0 x1) := fun _ _ => ofSome rfl (mkDI_lt (by decide) ..)
theorem ckpt : Statement .ckpt := ofSome rfl (mkDR_lt (by decide) ..)
theorem region : ∀ x0, Statement (.region x0) := fun _ => ofSome rfl (mkDI_lt (by decide) ..)
theorem seg : Statement .seg := ofSome rfl (mkDR_lt (by decide) ..)
theorem kexit : Statement .kexit := ofSome rfl (mkDR_lt (by decide) ..)
theorem yield : Statement .yield := ofSome rfl (mkDR_lt (by decide) ..)
theorem time : ∀ x0, Statement (.time x0) := fun _ => ofSome rfl (mkDR_lt (by decide) ..)
theorem revst : ∀ x0 x1 x2, Statement (.revst x0 x1 x2) := fun _ _ _ => ofSome rfl (mkDR_lt (by decide) ..)
theorem vadd : ∀ x0 x1, Statement (.vadd x0 x1) := fun _ _ => ofNone rfl
theorem vsub : ∀ x0 x1, Statement (.vsub x0 x1) := fun _ _ => ofNone rfl
theorem vmul : ∀ x0 x1, Statement (.vmul x0 x1) := fun _ _ => ofNone rfl
theorem vmulh : ∀ x0 x1, Statement (.vmulh x0 x1) := fun _ _ => ofNone rfl
theorem vmad : ∀ x0 x1, Statement (.vmad x0 x1) := fun _ _ => ofNone rfl
theorem vand : ∀ x0 x1, Statement (.vand x0 x1) := fun _ _ => ofNone rfl
theorem vor : ∀ x0 x1, Statement (.vor x0 x1) := fun _ _ => ofNone rfl
theorem vxor : ∀ x0 x1, Statement (.vxor x0 x1) := fun _ _ => ofNone rfl
theorem vshl : ∀ x0 x1, Statement (.vshl x0 x1) := fun _ _ => ofNone rfl
theorem vshr : ∀ x0 x1, Statement (.vshr x0 x1) := fun _ _ => ofNone rfl
theorem vsar : ∀ x0 x1, Statement (.vsar x0 x1) := fun _ _ => ofNone rfl
theorem vmin : ∀ x0 x1, Statement (.vmin x0 x1) := fun _ _ => ofNone rfl
theorem vmax : ∀ x0 x1, Statement (.vmax x0 x1) := fun _ _ => ofNone rfl
theorem vabs : ∀ x0 x1, Statement (.vabs x0 x1) := fun _ _ => ofNone rfl
theorem vneg : ∀ x0 x1, Statement (.vneg x0 x1) := fun _ _ => ofNone rfl
theorem vcmp : ∀ x0 x1, Statement (.vcmp x0 x1) := fun _ _ => ofNone rfl
theorem vsel : ∀ x0 x1, Statement (.vsel x0 x1) := fun _ _ => ofNone rfl
theorem vclz : ∀ x0 x1, Statement (.vclz x0 x1) := fun _ _ => ofNone rfl
theorem vpopc : ∀ x0 x1, Statement (.vpopc x0 x1) := fun _ _ => ofNone rfl
theorem vdot4 : ∀ x0 x1, Statement (.vdot4 x0 x1) := fun _ _ => ofNone rfl
theorem vdot8 : ∀ x0 x1, Statement (.vdot8 x0 x1) := fun _ _ => ofNone rfl
theorem vavg : ∀ x0 x1, Statement (.vavg x0 x1) := fun _ _ => ofNone rfl
theorem vmov : ∀ x0 x1, Statement (.vmov x0 x1) := fun _ _ => ofNone rfl
theorem viota : ∀ x0 x1, Statement (.viota x0 x1) := fun _ _ => ofNone rfl
theorem vbfx : ∀ x0 x1, Statement (.vbfx x0 x1) := fun _ _ => ofNone rfl
theorem vbfi : ∀ x0 x1, Statement (.vbfi x0 x1) := fun _ _ => ofNone rfl
theorem vfadd : ∀ x0 x1, Statement (.vfadd x0 x1) := fun _ _ => ofNone rfl
theorem vfsub : ∀ x0 x1, Statement (.vfsub x0 x1) := fun _ _ => ofNone rfl
theorem vfmul : ∀ x0 x1, Statement (.vfmul x0 x1) := fun _ _ => ofNone rfl
theorem vfma : ∀ x0 x1, Statement (.vfma x0 x1) := fun _ _ => ofNone rfl
theorem vfmin : ∀ x0 x1, Statement (.vfmin x0 x1) := fun _ _ => ofNone rfl
theorem vfmax : ∀ x0 x1, Statement (.vfmax x0 x1) := fun _ _ => ofNone rfl
theorem vfcmp : ∀ x0 x1, Statement (.vfcmp x0 x1) := fun _ _ => ofNone rfl
theorem vrcp : ∀ x0 x1, Statement (.vrcp x0 x1) := fun _ _ => ofNone rfl
theorem vrsq : ∀ x0 x1, Statement (.vrsq x0 x1) := fun _ _ => ofNone rfl
theorem vsqrt : ∀ x0 x1, Statement (.vsqrt x0 x1) := fun _ _ => ofNone rfl
theorem vdiv : ∀ x0 x1, Statement (.vdiv x0 x1) := fun _ _ => ofNone rfl
theorem vexp2 : ∀ x0 x1, Statement (.vexp2 x0 x1) := fun _ _ => ofNone rfl
theorem vlog2 : ∀ x0 x1, Statement (.vlog2 x0 x1) := fun _ _ => ofNone rfl
theorem vsin : ∀ x0 x1, Statement (.vsin x0 x1) := fun _ _ => ofNone rfl
theorem vcos : ∀ x0 x1, Statement (.vcos x0 x1) := fun _ _ => ofNone rfl
theorem vrnd : ∀ x0 x1, Statement (.vrnd x0 x1) := fun _ _ => ofNone rfl
theorem vdot2 : ∀ x0 x1, Statement (.vdot2 x0 x1) := fun _ _ => ofNone rfl
theorem vcvt : ∀ x0 x1, Statement (.vcvt x0 x1) := fun _ _ => ofNone rfl
theorem vpack : ∀ x0 x1, Statement (.vpack x0 x1) := fun _ _ => ofNone rfl
theorem vunpack : ∀ x0 x1, Statement (.vunpack x0 x1) := fun _ _ => ofNone rfl
theorem vfclass : ∀ x0 x1, Statement (.vfclass x0 x1) := fun _ _ => ofNone rfl
theorem vlerp : ∀ x0 x1, Statement (.vlerp x0 x1) := fun _ _ => ofNone rfl
theorem vshuf : ∀ x0 x1, Statement (.vshuf x0 x1) := fun _ _ => ofNone rfl
theorem vbcast : ∀ x0 x1, Statement (.vbcast x0 x1) := fun _ _ => ofNone rfl
theorem vred : ∀ x0 x1, Statement (.vred x0 x1) := fun _ _ => ofNone rfl
theorem vscan : ∀ x0 x1, Statement (.vscan x0 x1) := fun _ _ => ofNone rfl
theorem vballot : ∀ x0 x1, Statement (.vballot x0 x1) := fun _ _ => ofNone rfl
theorem pop : ∀ x0 x1, Statement (.pop x0 x1) := fun _ _ => ofNone rfl
theorem qpush : ∀ x0 x1, Statement (.qpush x0 x1) := fun _ _ => ofNone rfl
theorem defer : ∀ x0 x1, Statement (.defer x0 x1) := fun _ _ => ofNone rfl
theorem mread : ∀ x0 x1, Statement (.mread x0 x1) := fun _ _ => ofNone rfl
theorem mwrite : ∀ x0 x1, Statement (.mwrite x0 x1) := fun _ _ => ofNone rfl
theorem itemnext : ∀ x0 x1, Statement (.itemnext x0 x1) := fun _ _ => ofNone rfl
theorem vdisc : ∀ x0 x1, Statement (.vdisc x0 x1) := fun _ _ => ofNone rfl
theorem vzout : ∀ x0 x1, Statement (.vzout x0 x1) := fun _ _ => ofNone rfl
theorem cacc : ∀ x0 x1, Statement (.cacc x0 x1) := fun _ _ => ofNone rfl
theorem crej : ∀ x0 x1, Statement (.crej x0 x1) := fun _ _ => ofNone rfl
theorem vtos : ∀ x0 x1, Statement (.vtos x0 x1) := fun _ _ => ofNone rfl
theorem ld : ∀ x0 x1, Statement (.ld x0 x1) := fun _ _ => ofNone rfl
theorem ldl : ∀ x0 x1, Statement (.ldl x0 x1) := fun _ _ => ofNone rfl
theorem ldf : ∀ x0 x1, Statement (.ldf x0 x1) := fun _ _ => ofNone rfl
theorem ldc : ∀ x0 x1, Statement (.ldc x0 x1) := fun _ _ => ofNone rfl
theorem st : ∀ x0 x1, Statement (.st x0 x1) := fun _ _ => ofNone rfl
theorem stl : ∀ x0 x1, Statement (.stl x0 x1) := fun _ _ => ofNone rfl
theorem stf : ∀ x0 x1, Statement (.stf x0 x1) := fun _ _ => ofNone rfl
theorem pf : ∀ x0 x1, Statement (.pf x0 x1) := fun _ _ => ofNone rfl
theorem smp : ∀ x0 x1, Statement (.smp x0 x1) := fun _ _ => ofNone rfl
theorem aadd : ∀ x0 x1, Statement (.aadd x0 x1) := fun _ _ => ofNone rfl
theorem amin : ∀ x0 x1, Statement (.amin x0 x1) := fun _ _ => ofNone rfl
theorem amax : ∀ x0 x1, Statement (.amax x0 x1) := fun _ _ => ofNone rfl
theorem aand : ∀ x0 x1, Statement (.aand x0 x1) := fun _ _ => ofNone rfl
theorem aor : ∀ x0 x1, Statement (.aor x0 x1) := fun _ _ => ofNone rfl
theorem axor : ∀ x0 x1, Statement (.axor x0 x1) := fun _ _ => ofNone rfl
theorem axch : ∀ x0 x1, Statement (.axch x0 x1) := fun _ _ => ofNone rfl
theorem acas : ∀ x0 x1, Statement (.acas x0 x1) := fun _ _ => ofNone rfl
theorem afadd : ∀ x0 x1, Statement (.afadd x0 x1) := fun _ _ => ofNone rfl
theorem trace : ∀ x0 x1, Statement (.trace x0 x1) := fun _ _ => ofNone rfl
theorem mbput : ∀ x0 x1, Statement (.mbput x0 x1) := fun _ _ => ofNone rfl
theorem attr : ∀ x0 x1, Statement (.attr x0 x1) := fun _ _ => ofNone rfl
theorem ldp : ∀ x0 x1, Statement (.ldp x0 x1) := fun _ _ => ofNone rfl
theorem stp : ∀ x0 x1, Statement (.stp x0 x1) := fun _ _ => ofNone rfl
theorem iadd : ∀ x0 x1, Statement (.iadd x0 x1) := fun _ _ => ofNone rfl
theorem ishl : ∀ x0 x1, Statement (.ishl x0 x1) := fun _ _ => ofNone rfl
theorem imov : ∀ x0 x1, Statement (.imov x0 x1) := fun _ _ => ofNone rfl
theorem iand : ∀ x0 x1, Statement (.iand x0 x1) := fun _ _ => ofNone rfl
theorem mzero : ∀ x0, Statement (.mzero x0) := fun _ => ofNone rfl
theorem mma : ∀ x0, Statement (.mma x0) := fun _ => ofNone rfl
theorem mmas : ∀ x0, Statement (.mmas x0) := fun _ => ofNone rfl
theorem mreq : ∀ x0, Statement (.mreq x0) := fun _ => ofNone rfl
theorem mst : ∀ x0, Statement (.mst x0) := fun _ => ofNone rfl
theorem mld : ∀ x0, Statement (.mld x0) := fun _ => ofNone rfl
theorem mbar : ∀ x0, Statement (.mbar x0) := fun _ => ofNone rfl
theorem mfmt : ∀ x0, Statement (.mfmt x0) := fun _ => ofNone rfl
theorem mloop : ∀ x0, Statement (.mloop x0) := fun _ => ofNone rfl
theorem mend : ∀ x0, Statement (.mend x0) := fun _ => ofNone rfl
theorem mrel : ∀ x0, Statement (.mrel x0) := fun _ => ofNone rfl
theorem reservedEncoding : ∀ x0 x1, Statement (.reservedEncoding x0 x1) := fun _ _ => ofNone rfl
theorem ptpHoldover : Statement .ptpHoldover := ofNone rfl
theorem ptpLock : Statement .ptpLock := ofNone rfl
theorem pcieLinkUp : Statement .pcieLinkUp := ofNone rfl
theorem builtInSelfTestComplete : Statement .builtInSelfTestComplete := ofNone rfl

end Direct
end Sys2Proof.Laws
end

