-- ==== Sys2Proof/Laws/Scalar.lean ====
section
/-!
SUPPORT. Laws of the scalar register files (05 R119, R120) and of a direct word that writes one register.
-/
namespace Sys2Proof.Machine

/-! ## Frames of an update of one team -/

theorem onlyTeams_modTeam {s : State} (k : Nat) (f : Team → Team) : onlyTeams s (s.repair.modTeam k f) := by
  unfold onlyTeams; rw [State.repair_eq]; rfl

theorem onlyTeam_modTeam {s : State} (k : Nat) (f : Team → Team) : onlyTeam s (s.repair.modTeam k f) k := by
  refine ⟨onlyTeams_modTeam k f, fun n hn => by simp [hn], fun a => ?_⟩
  rw [State.repair_eq]; exact ⟨rfl, rfl⟩

/-! ## Register files -/

/-- c0 reads zero and ignores writes; every other register reads what was written (05 R119). -/
@[simp] theorem Team.cReg_setC (t : Team) (n d : BitVec 6) (v : W64) :
    (t.setC d v).cReg n = if n = d ∧ d ≠ 0 then v else t.cReg n := by
  unfold Team.setC Team.cReg
  by_cases hd : d = 0
  · simp only [hd, if_pos, ne_eq, not_true_eq_false, and_false, if_false]
  · rw [if_neg hd]
    by_cases hn : n = 0
    · rw [if_pos hn, if_pos hn, if_neg (by rintro ⟨rfl, -⟩; exact hd hn)]
    · simp only [if_neg hn, List.getD_eq_getElem?_getD, getD_setAt, BitVec.toNat_inj, ne_eq, hd, not_false_eq_true, and_true]

theorem Group.gReg_setG (x : Group) (n d : Nat) (v : W64) :
    (x.setG d v).gReg n = if n = d ∧ d ≠ 0 then v else x.gReg n := by
  unfold Group.setG Group.gReg
  by_cases hd : d = 0
  · simp only [hd, if_pos, ne_eq, not_true_eq_false, and_false, if_false]
  · rw [if_neg hd]
    by_cases hn : n = 0
    · rw [if_pos hn, if_pos hn, if_neg (by rintro ⟨rfl, -⟩; exact hd hn)]
    · simp only [if_neg hn, List.getD_eq_getElem?_getD, getD_setAt, ne_eq, hd, not_false_eq_true, and_true]

theorem Group.sReg_setS (x : Group) (n d : Nat) (v : W64) :
    (x.setS d v).sReg n = if n = d ∧ d ≠ 0 then v else x.sReg n := by
  unfold Group.setS Group.sReg
  by_cases hd : d = 0
  · simp only [hd, if_pos, ne_eq, not_true_eq_false, and_false, if_false]
  · rw [if_neg hd]
    by_cases hn : n = 0
    · rw [if_pos hn, if_pos hn, if_neg (by rintro ⟨rfl, -⟩; exact hd hn)]
    · simp only [if_neg hn, List.getD_eq_getElem?_getD, getD_setAt, ne_eq, hd, not_false_eq_true, and_true]

theorem Team.setC_eq (t : Team) (d : BitVec 6) (v : W64) : t.setC d v = { t with c := (t.setC d v).c } := by
  unfold Team.setC; split <;> rfl
theorem Group.setG_eq (x : Group) (d : Nat) (v : W64) : x.setG d v = { x with g := (x.setG d v).g } := by
  unfold Group.setG; split <;> rfl
theorem Group.setS_eq (x : Group) (d : Nat) (v : W64) : x.setS d v = { x with s := (x.setS d v).s } := by
  unfold Group.setS; split <;> rfl
theorem Group.setSTaint_eq (x : Group) (d : Nat) (b : Bool) : x.setSTaint d b = { x with sTaint := (x.setSTaint d b).sTaint } := by
  unfold Group.setSTaint; split <;> rfl

/-! ## A direct word that writes one register -/

theorem scalarDone_c {s : State} {k : Nat} (hc : s.cur = .c k) (hm : s.midBody = true) (d : BitVec 6) (srcs : List (BitVec 6))
    (v : W64) : ScalarDone s ((Eff.done (s.writeFrom d srcs v)).commit s.cur s.iw) d v := by
  have hr : s.iw.resumed = false := by
    unfold State.midBody at hm; simp only [Bool.and_eq_true, Bool.not_eq_true'] at hm; exact hm.1
  have hw : s.writeFrom d srcs v = s.modTeam k (·.setC d v) := by
    simp [State.writeFrom, State.writeReg, hc]
  rw [hw, hc, Eff.commit_done_c (by simp [hc]) (by simp) hr, State.repair_modTeam, State.modTeam_modTeam]
  refine ⟨?_, fun n => ?_, ?_⟩
  · rw [hc]; exact onlyTeam_modTeam _ _
  · simp only [State.readReg, State.modTeam_cur, State.repair_cur, hc, Ctx.stream, true_or, and_true]
    rw [State.team_modTeam, if_pos rfl, State.repair_team]
    exact Team.cReg_setC _ _ _ _
  · simp only [hc]
    rw [State.team_modTeam, if_pos rfl, State.repair_team]
    unfold Team.setC; split <;> rfl

/-- A group update keeps every other team and group, and every field of its team but the groups. -/
theorem onlyTeam_modGroup {s : State} (k g : Nat) (f : Group → Group) : onlyTeam s (s.repair.modGroup k g f) k :=
  onlyTeam_modTeam k _

/-- A group update that keeps the role keeps every special value of the group's team (05 R121). -/
theorem State.special_modGroup (s : State) (k g n : Nat) (f : Group → Group) (hrole : ∀ x, (f x).role = x.role) :
    (s.modGroup k g f).special k (some g) n = s.special k (some g) n := by
  have ht : (s.modGroup k g f).team k = { s.team k with groups := ((s.team k).modGroup g f).groups } := by
    simp [State.modGroup]; rfl
  have hg : (((s.modGroup k g f).team k).group g).role = ((s.team k).group g).role := by
    rw [State.team_modGroup, if_pos rfl, Team.group_modGroup, if_pos rfl, hrole]
  have hr : (s.modGroup k g f).rungOf k = s.rungOf k := by unfold State.rungOf; rw [ht]; rfl
  unfold State.special
  simp only [hg, hr]
  rw [ht]
  rfl

theorem State.fieldA_modGroup (s : State) (k g n : Nat) (f : Group → Group) (hrole : ∀ x, (f x).role = x.role) :
    (s.modGroup k g f).fieldA k g n = if n < 32 then (f (s.group k g)).gReg n else s.fieldA k g n := by
  unfold State.fieldA
  by_cases h : n < 32
  · simp [h]
  · by_cases h' : n < 40
    · simp [h, h', State.team_modGroup, Team.lcReg, Team.modGroup, Team.setGroup]
    · simp only [h, h', if_false]
      exact State.special_modGroup s k g n f hrole

theorem State.fieldX_modGroup (s : State) (k g n : Nat) (f : Group → Group) (hrole : ∀ x, (f x).role = x.role) :
    (s.modGroup k g f).fieldX k g n = if n < 32 then (f (s.group k g)).sReg n else s.fieldX k g n := by
  unfold State.fieldX
  by_cases h : n < 32
  · simp [h]
  · by_cases h' : n < 40
    · simp [h, h', State.team_modGroup, Team.lcReg, Team.modGroup, Team.setGroup]
    · simp only [h, h', if_false]
      exact State.special_modGroup s k g n f hrole

@[simp] theorem Group.setG_role (x : Group) (d : Nat) (v : W64) : (x.setG d v).role = x.role := by rw [Group.setG_eq]
@[simp] theorem Group.setS_role (x : Group) (d : Nat) (v : W64) : (x.setS d v).role = x.role := by rw [Group.setS_eq]
@[simp] theorem Group.setSTaint_role (x : Group) (d : Nat) (b : Bool) : (x.setSTaint d b).role = x.role := by
  rw [Group.setSTaint_eq]

theorem State.team_modGroup_eq (s : State) (k g : Nat) (f : Group → Group) :
    (s.modGroup k g f).team k = { s.team k with groups := ((s.modGroup k g f).team k).groups } := by
  rw [State.team_modGroup, if_pos rfl]; rfl

theorem scalarDone_a_aux {s : State} {k g : Nat} (hc : s.cur = .a k g) (d : BitVec 6) (v : W64) (h : Group → List W64)
    (hv : ∀ n : Nat, n < 32 → ({ s.group k g with g := h (s.group k g) } : Group).gReg n =
      if n = d.toNat ∧ d ≠ 0 then v else (s.group k g).gReg n) :
    ScalarDone s (s.repair.modGroup k g fun x => { x with g := h x, actx := x.actx.passed false s.iw }) d v := by
  refine ⟨?_, fun n => ?_, ?_⟩
  · rw [hc]; exact onlyTeam_modGroup _ _ _
  · simp only [State.readReg, State.modGroup_cur, State.repair_cur, hc, Ctx.stream, reduceCtorEq, false_or]
    rw [State.fieldA_modGroup]
    case hrole => intro x; rfl
    have hf : s.repair.fieldA k g n.toNat = s.fieldA k g n.toNat := by rw [State.repair_eq]; rfl
    rw [hf, State.repair_group]
    by_cases hn : n.toNat < 32
    · have := hv n.toNat hn
      rw [if_pos hn]
      simp only [State.fieldA, hn, if_true]
      refine Eq.trans this ?_
      by_cases hnd : n = d
      · subst hnd; simp [hn]
      · rw [if_neg fun e => hnd (BitVec.toNat_inj.mp e.1), if_neg fun e => hnd e.1]
    · rw [if_neg hn, if_neg]
      rintro ⟨rfl, -, h'⟩; exact hn h'
  · simp only [hc]
    refine ⟨?_, fun m hm => ?_, ?_⟩
    · rw [State.team_modGroup_eq, State.repair_team]
    · rw [State.group_modGroup, if_neg fun e => hm e.2, State.repair_group]
    · rw [State.group_modGroup, if_pos ⟨rfl, rfl⟩, State.repair_group]

theorem scalarDone_a {s : State} {k g : Nat} (hc : s.cur = .a k g) (hm : s.midBody = true) (d : BitVec 6)
    (srcs : List (BitVec 6)) (v : W64) :
    ScalarDone s ((Eff.done (s.writeFrom d srcs v)).commit s.cur s.iw) d v := by
  have hs : s.cur.stream ≠ .c := by rw [hc]; exact Stream.noConfusion
  by_cases hd : d.toNat < 32
  · have hw : s.writeFrom d srcs v = s.modGroup k g (·.setG d.toNat v) := by
      simp [State.writeFrom, State.writeReg, hc, hd]
    have hmid : (s.modGroup k g (·.setG d.toNat v)).midBody = true := by
      rw [← hm]
      refine State.midBody_congr (by simp) (by simp) ?_
      rw [hc]; simp only [State.ctxState]
      rw [State.group_modGroup, if_pos ⟨rfl, rfl⟩, Group.setG_eq]
    rw [hw, Eff.commit_done_run hs (by simp) (by simp) hmid, hc, State.repair_modGroup, State.modCtx_a, State.modGroup_modGroup]
    have he : (fun x : Group => ({ x.setG d.toNat v with actx := (x.setG d.toNat v).actx.passed false s.iw } : Group)) =
        fun x => { x with g := (x.setG d.toNat v).g, actx := x.actx.passed false s.iw } := by
      funext x; rw [Group.setG_eq]
    have := scalarDone_a_aux hc d v (fun x => (x.setG d.toNat v).g) fun n _ => by
      rw [← Group.setG_eq, Group.gReg_setG]
      simp [← BitVec.toNat_inj]
    rw [← he] at this
    exact this
  · have hw : s.writeFrom d srcs v = s := by
      simp [State.writeFrom, State.writeReg, hc, hd]
    rw [hw, Eff.commit_done_run hs rfl rfl hm, hc, State.modCtx_a]
    exact scalarDone_a_aux hc d v (·.g) fun n hn => by
      rw [if_neg (by rintro ⟨rfl, -⟩; exact hd hn)]

theorem scalarDone_x_aux {s : State} {k g : Nat} (hc : s.cur = .x k g) (d : BitVec 6) (v : W64) (h : Group → List W64)
    (w : Group → W32)
    (hv : ∀ n : Nat, n < 32 → ({ s.group k g with s := h (s.group k g) } : Group).sReg n =
      if n = d.toNat ∧ d ≠ 0 then v else (s.group k g).sReg n) :
    ScalarDone s (s.repair.modGroup k g fun x =>
      { x with s := h x, sTaint := w x, xctx := x.xctx.passed false s.iw }) d v := by
  refine ⟨?_, fun n => ?_, ?_⟩
  · rw [hc]; exact onlyTeam_modGroup _ _ _
  · simp only [State.readReg, State.modGroup_cur, State.repair_cur, hc, Ctx.stream, reduceCtorEq, false_or]
    rw [State.fieldX_modGroup]
    case hrole => intro x; rfl
    have hf : s.repair.fieldX k g n.toNat = s.fieldX k g n.toNat := by rw [State.repair_eq]; rfl
    rw [hf, State.repair_group]
    by_cases hn : n.toNat < 32
    · have := hv n.toNat hn
      rw [if_pos hn]
      simp only [State.fieldX, hn, if_true]
      refine Eq.trans this ?_
      by_cases hnd : n = d
      · subst hnd; simp [hn]
      · rw [if_neg fun e => hnd (BitVec.toNat_inj.mp e.1), if_neg fun e => hnd e.1]
    · rw [if_neg hn, if_neg]
      rintro ⟨rfl, -, h'⟩; exact hn h'
  · simp only [hc]
    refine ⟨?_, fun m hm => ?_, ?_⟩
    · rw [State.team_modGroup_eq, State.repair_team]
    · rw [State.group_modGroup, if_neg fun e => hm e.2, State.repair_group]
    · rw [State.group_modGroup, if_pos ⟨rfl, rfl⟩, State.repair_group]

/-- The s register, its taint and the context that a direct X word writes. -/
theorem Group.setX_eq (x : Group) (d : Nat) (v : W64) (b : Bool) :
    (x.setS d v).setSTaint d b = { x with s := (x.setS d v).s, sTaint := (x.setSTaint d b).sTaint } := by
  unfold Group.setS Group.setSTaint
  split <;> split <;> rfl

theorem scalarDone_x {s : State} {k g : Nat} (hc : s.cur = .x k g) (hm : s.midBody = true) (d : BitVec 6)
    (srcs : List (BitVec 6)) (v : W64) :
    ScalarDone s ((Eff.done (s.writeFrom d srcs v)).commit s.cur s.iw) d v := by
  have hs : s.cur.stream ≠ .c := by rw [hc]; exact Stream.noConfusion
  have hw : ∃ h : Group → List W64, (∃ w : Group → W32,
      s.writeFrom d srcs v = s.modGroup k g fun x => { x with s := h x, sTaint := w x }) ∧
      ∀ n : Nat, n < 32 → ({ s.group k g with s := h (s.group k g) } : Group).sReg n =
        if n = d.toNat ∧ d ≠ 0 then v else (s.group k g).sReg n := by
    by_cases hd : d.toNat < 32
    · refine ⟨fun x => (x.setS d.toNat v).s, ⟨fun x => (x.setSTaint d.toNat (srcs.any s.regTaint)).sTaint, ?_⟩, ?_⟩
      · simp only [State.writeFrom, State.writeReg, hc, hd, if_true, State.modGroup_modGroup, Group.setX_eq]
      · intro n _
        rw [← Group.setS_eq, Group.sReg_setS]
        simp [← BitVec.toNat_inj]
    · refine ⟨fun x => x.s, ⟨fun x => x.sTaint, ?_⟩, ?_⟩
      · have ht : ∀ (x : Group) (b : Bool), x.setSTaint d.toNat b = x := fun x b => by
          unfold Group.setSTaint; rw [if_pos (Or.inr (Nat.not_lt.mp hd))]
        simp only [State.writeFrom, State.writeReg, hc, hd, if_false, ht]
      · intro n hn
        rw [if_neg (by rintro ⟨rfl, -⟩; exact hd hn)]
  obtain ⟨h, ⟨w, hw⟩, hv⟩ := hw
  have hmid : (s.modGroup k g fun x => { x with s := h x, sTaint := w x }).midBody = true := by
    rw [← hm]
    refine State.midBody_congr (by simp) (by simp) ?_
    rw [hc]; simp only [State.ctxState]
    rw [State.group_modGroup, if_pos ⟨rfl, rfl⟩]
  rw [hw, Eff.commit_done_run hs (by simp) (by simp) hmid, hc, State.repair_modGroup, State.modCtx_x, State.modGroup_modGroup]
  exact scalarDone_x_aux hc d v h w hv

/-- A direct word that writes one register completes as `ScalarDone` says, in every stream of the integer families. -/
theorem State.scalarDone {s : State} (ho : s.offers intStreams = true) (hm : s.midBody = true) (d : BitVec 6)
    (srcs : List (BitVec 6)) (v : W64) :
    ScalarDone s ((Eff.done (s.writeFrom d srcs v)).commit s.cur s.iw) d v := by
  cases hc : s.cur with
  | c k => rw [← hc]; exact scalarDone_c hc hm d srcs v
  | a k g => rw [← hc]; exact scalarDone_a hc hm d srcs v
  | x k g => rw [← hc]; exact scalarDone_x hc hm d srcs v
  | m k => simp [State.offers, hc, Ctx.stream, intStreams] at ho

end Sys2Proof.Machine
end

