-- ==== Sys2Proof/Tests/Slice0.lean ====
section
/-!
SUPPORT. Tests: words decoded, ill-formed words refused, results of single steps, and witnesses of the claims' hypotheses.
-/
open Sys2Proof Sys2Proof.Machine
namespace Sys2Proof.Tests
set_option Elab.async false

/-! ## Small states -/

/-- Cells of the non-zero bytes of a block: offset and value. -/
def cells (a : Nat) (l : List (Nat × Nat)) : List Host.Cell := l.map fun e => (a + e.1, BitVec.ofNat 8 e.2)

/-- The page table of partition 0: addresses below 128 MiB. -/
def tableCells : List Host.Cell := cells 0 [(0x8000, 1), (0x8002, 1), (0x10000, 15)]

/-- The loop records of the image below: an A, an X and an M record of one kernel word and one trip, and a control record. -/
def recordCells : List Host.Cell :=
  cells 0x28000 [(0, 0x40), (4, 100), (0x16, 1), (0x1C, 1), (0x40, 0x41), (0x44, 100), (0x56, 1), (0x5C, 1), (0x80, 0x42), (0x84, 100),
    (0x96, 1), (0x9C, 1), (0xC0, 3), (0xC4, 100)]

def mem0 : Memory := { cells := tableCells ++ recordCells }

/-- An image at 0x20000 with its sections; the code of stream `k` starts at 0x21000 + 0x1000 * k. -/
def image0 : Image :=
  { base := 0x20000, bytes := 0x10000, scratchBytes := 256, accTiles := 2, privateWords := 16,
    sections := [(0x1000, 0x1000), (0x2000, 0x1000), (0x3000, 0x1000), (0x4000, 0x1000), (0x5000, 1040), (0x7000, 64),
                 (0x7100, 16), (0x8000, 256), (0x7200, 16)] }

/-- One running instance of one team of one group, its C stream at 0x21000 about to issue the word 0. -/
def base : State :=
  let s := State.reset.withFetchWord 32 0
  { s with
    agenda := [], mem := mem0, iw := { pc := 0x21000, next := 0x21004, words := [0] },
    insts := [{ st := .running, image := image0, card := { imageAddr := 0x20000 } }],
    teams := [{ status := .running, ctrl := { pc := 0x21000, bound := 1000 }, groups := [{ vregs := 32 }] }],
    cores := [{}] }

/-- The C stream of team 0, changed. -/
def atC (f : Team → Team := id) : State := base.modTeam 0 f

/-- A run whose kernel body is two words. -/
def run2 : RecRun :=
  { idx := 0, lr := { flags := 0x40, kerLen := 2, bound := 1000, trips := [2] }, st := .kernel, trips := [2], ker := [0, 0] }

/-- The X stream of group 0, its group changed. -/
def atX (f : Group → Group := id) : State :=
  { base.modTeam 0 fun t => { t with groups := [f { vregs := 32, xctx := { run := some run2 } }] } with
    cur := .x 0 0, iw := { pc := 0x23000, next := 0x23004, words := [0] } }

/-- The A stream of group 0, its group changed. -/
def atA (f : Group → Group := id) : State :=
  { base.modTeam 0 fun t => { t with groups := [f { vregs := 32, actx := { run := some run2 } }] } with
    cur := .a 0 0, iw := { pc := 0x22000, next := 0x22004, words := [0] } }

/-- The M stream of team 0, its team changed. -/
def atM (f : Team → Team := id) : State :=
  { base.modTeam 0 fun t => f { t with mctx := { run := some run2 } } with
    cur := .m 0, iw := { pc := 0x24000, next := 0x24008, words := [0] } }

/-- c registers: c1, c2, … take the values of the list. -/
def Cs (l : List W64) (t : Team) : Team := { t with c := 0 :: l }

/-- A right value that satisfies a predicate. -/
def rightIs {α β : Type} (x : Sum α β) (p : β → Bool) : Bool :=
  match x with
  | .inr y => p y
  | .inl _ => false

/-- A memory access that succeeds with a value that satisfies a predicate. -/
def memIs {α : Type} (x : MRes α) (p : α → State → Bool) : Bool :=
  match x with
  | .ok a s => p a s
  | _ => false

/-! ## Decoding: words written out from the encoding tables -/

/-- 05 R116, 06 R142: the integer and long-immediate words, each written out from the table. -/
theorem test_decode_integer : ∀ w ∈ ([
    (0x00000000#32, .nop),
    (0x01143240#32, .add 5 3 9),
    (0x02143240#32, .sub 5 3 9),
    (0x03143240#32, .mul 5 3 9),
    (0x04143240#32, .mulh 5 3 9),
    (0x05143240#32, .mulhu 5 3 9),
    (0x06143240#32, .div 5 3 9),
    (0x07143240#32, .divu 5 3 9),
    (0x08143240#32, .rem 5 3 9),
    (0x09143240#32, .remu 5 3 9),
    (0x0A143240#32, .and 5 3 9),
    (0x0B143240#32, .or 5 3 9),
    (0x0C143240#32, .xor 5 3 9),
    (0x0D143240#32, .shl 5 3 9),
    (0x0E143240#32, .shr 5 3 9),
    (0x0F143240#32, .sar 5 3 9),
    (0x10143240#32, .min 5 3 9),
    (0x11143240#32, .max 5 3 9),
    (0x12143240#32, .minu 5 3 9),
    (0x13143240#32, .maxu 5 3 9),
    (0x14143240#32, .slt 5 3 9),
    (0x15143240#32, .sltu 5 3 9),
    (0x16143240#32, .seq 5 3 9),
    (0x17143240#32, .sne 5 3 9),
    (0x181432A5#32, .addi 5 3 677),
    (0x191432A5#32, .andi 5 3 677),
    (0x1A1432A5#32, .ori 5 3 677),
    (0x1B1432A5#32, .xori 5 3 677),
    (0x1C143021#32, .shli 5 3 33),
    (0x1D143021#32, .shri 5 3 33),
    (0x1E143021#32, .sari 5 3 33),
    (0x1F1432A5#32, .slti 5 3 677)] : List (W32 × Instr)),
  decodeWords (if 0x2C ≤ w.1.toNat / 2 ^ 24 ∧ w.1.toNat / 2 ^ 24 ≤ 0x2F then .a else .c) 0 (fun _ => none) [w.1] = (w.2, 1) := by decide +kernel

/-- 06 R142, R143: scalar floats, translation registers, queue words, each written out from the table. -/
theorem test_decode_float_and_queue : ∀ w ∈ ([
    (0x201402A5#32, .limm 5 677),
    (0x211402A5#32, .limmh 5 677),
    (0x221402A5#32, .limmx 5 677),
    (0x231402A5#32, .limmt 5 677),
    (0x2414324B#32, .fadd 5 3 9 true 3),
    (0x2514324B#32, .fsub 5 3 9 true 3),
    (0x2614324B#32, .fmul 5 3 9 true 3),
    (0x2714324B#32, .ffma 5 3 9 true 3),
    (0x28143240#32, .fmin 5 3 9),
    (0x29143240#32, .fmax 5 3 9),
    (0x2A143241#32, .fcmp 5 3 9 1),
    (0x2B1430CB#32, .fcvt 5 3 0 3 true 3),
    (0x2C143240#32, .gxlat 5 3 9),
    (0x2D1432A5#32, .glim 5 3 677),
    (0x2E1432A5#32, .qcfg 5 3 677),
    (0x2F140006#32, .qadv 5 6),
    (0x2F140016#32, .qadvTail 5 6)] : List (W32 × Instr)),
  decodeWords (if 0x2C ≤ w.1.toNat / 2 ^ 24 ∧ w.1.toNat / 2 ^ 24 ≤ 0x2F then .a else .c) 0 (fun _ => none) [w.1] = (w.2, 1) := by decide +kernel

/-- 06 R142: control flow, each written out from the table. -/
theorem test_decode_control : ∀ w ∈ ([
    (0x300007FD#32, .b 2045),
    (0x310C97FD#32, .beq 3 9 2045),
    (0x320C97FD#32, .bne 3 9 2045),
    (0x330C97FD#32, .blt 3 9 2045),
    (0x340C97FD#32, .bge 3 9 2045),
    (0x350C97FD#32, .bltu 3 9 2045),
    (0x360C97FD#32, .bgeu 3 9 2045),
    (0x370007FD#32, .call 2045),
    (0x38003000#32, .callr 3),
    (0x39000000#32, .ret),
    (0x3A003000#32, .jr 3),
    (0x3B003007#32, .brx 3 7),
    (0x3C0C07FD#32, .loop 3 2045)] : List (W32 × Instr)),
  decodeWords (if 0x2C ≤ w.1.toNat / 2 ^ 24 ∧ w.1.toNat / 2 ^ 24 ≤ 0x2F then .a else .c) 0 (fun _ => none) [w.1] = (w.2, 1) := by decide +kernel

/-- 06 R142, R143: tables, records, units, each written out from the table. -/
theorem test_decode_tables_and_units : ∀ w ∈ ([
    (0x401432A5#32, .lset 5 3 677),
    (0x41003240#32, .runa 3 9),
    (0x42003240#32, .runx 3 9),
    (0x43003000#32, .runm 3),
    (0x440032A5#32, .tpload 3 677),
    (0x451432A5#32, .fmtset 5 3 677),
    (0x461402A5#32, .mbset 5 677),
    (0x47003240#32, .cpy 3 9),
    (0x48003000#32, .chkick 3),
    (0x49003000#32, .rast 3),
    (0x4A003000#32, .bvhBuild 3),
    (0x4A003001#32, .bvhRefit 3),
    (0x4A003002#32, .bvhRebalance 3),
    (0x4A143003#32, .bvhPublish 5 3),
    (0x4A143004#32, .bvhQuality 5 3),
    (0x4B143000#32, .gpin 5 3),
    (0x4C003000#32, .gunpin 3),
    (0x4D143007#32, .defdrain 5 3 7),
    (0x4E003240#32, .itemq 3 9),
    (0x4F140001#32, .covrd 5 1),
    (0x501432A5#32, .cld 5 3 677),
    (0x511432A5#32, .cst 5 3 677)] : List (W32 × Instr)),
  decodeWords (if 0x2C ≤ w.1.toNat / 2 ^ 24 ∧ w.1.toNat / 2 ^ 24 ≤ 0x2F then .a else .c) 0 (fun _ => none) [w.1] = (w.2, 1) := by decide +kernel

/-- 06 R142, R143: memory, synchronisation, tasks and system words, each written out from the table. -/
theorem test_decode_memory_and_system : ∀ w ∈ ([
    (0x52143257#32, .camoTeam 5 3 9 2 3 true),
    (0x53143256#32, .camoClu 5 3 9 2 3),
    (0x54143256#32, .camoDev 5 3 9 2 3),
    (0x55143256#32, .camoSys 5 3 9 2 3),
    (0x56000066#32, .fence true 2 3 false),
    (0x57003240#32, .barInit 3 9),
    (0x58000007#32, .barArrive 7),
    (0x59000007#32, .barWait 7),
    (0x5A000007#32, .barInval 7),
    (0x5B003241#32, .ctrwait 3 9 1),
    (0x5C003241#32, .ctrpost 3 9 1),
    (0x5D143240#32, .fork 5 3 9),
    (0x5E143000#32, .join 5 3),
    (0x5F003240#32, .post 3 9),
    (0x601432C0#32, .take 5 11 3),
    (0x61000007#32, .trap 7),
    (0x62000000#32, .eret),
    (0x631402A5#32, .sysr 5 677),
    (0x640032A5#32, .sysw 3 677),
    (0x65000000#32, .ckpt),
    (0x66000001#32, .region true),
    (0x67000000#32, .seg),
    (0x68000000#32, .kexit),
    (0x69000000#32, .yield),
    (0x6A140000#32, .time 5),
    (0x6B143001#32, .revst 5 3 1)] : List (W32 × Instr)),
  decodeWords (if 0x2C ≤ w.1.toNat / 2 ^ 24 ∧ w.1.toNat / 2 ^ 24 ≤ 0x2F then .a else .c) 0 (fun _ => none) [w.1] = (w.2, 1) := by decide +kernel

/-- 05 R122, R127, 06 R144: entries of the integer opcodes, executed by a patch word of index 6, select 0, predicate 2. -/
theorem test_decode_template_integer : ∀ w ∈ ([
    (0x00140384004000001234567800000000#128, .vadd { dstIdx := 5, srcA := 3, srcB := 0x84, fmt := 8, imm := 0x12345678 } 2),
    (0x01140384004000001234567800000000#128, .vsub { dstIdx := 5, srcA := 3, srcB := 0x84, fmt := 8, imm := 0x12345678 } 2),
    (0x02140384004000001234567800000000#128, .vmul { dstIdx := 5, srcA := 3, srcB := 0x84, fmt := 8, imm := 0x12345678 } 2),
    (0x03140384004000001234567800000000#128, .vmulh { dstIdx := 5, srcA := 3, srcB := 0x84, fmt := 8, imm := 0x12345678 } 2),
    (0x04140384074000001234567800000000#128, .vmad { dstIdx := 5, srcA := 3, srcB := 0x84, srcC := 7, fmt := 8, imm := 0x12345678 } 2),
    (0x05140384004000001234567800000000#128, .vand { dstIdx := 5, srcA := 3, srcB := 0x84, fmt := 8, imm := 0x12345678 } 2),
    (0x06140384004000001234567800000000#128, .vor { dstIdx := 5, srcA := 3, srcB := 0x84, fmt := 8, imm := 0x12345678 } 2),
    (0x07140384004000001234567800000000#128, .vxor { dstIdx := 5, srcA := 3, srcB := 0x84, fmt := 8, imm := 0x12345678 } 2),
    (0x08140384004000001234567800000000#128, .vshl { dstIdx := 5, srcA := 3, srcB := 0x84, fmt := 8, imm := 0x12345678 } 2),
    (0x09140384004000001234567800000000#128, .vshr { dstIdx := 5, srcA := 3, srcB := 0x84, fmt := 8, imm := 0x12345678 } 2),
    (0x0A140384004000001234567800000000#128, .vsar { dstIdx := 5, srcA := 3, srcB := 0x84, fmt := 8, imm := 0x12345678 } 2),
    (0x0B140384004000001234567800000000#128, .vmin { dstIdx := 5, srcA := 3, srcB := 0x84, fmt := 8, imm := 0x12345678 } 2),
    (0x0C140384004000001234567800000000#128, .vmax { dstIdx := 5, srcA := 3, srcB := 0x84, fmt := 8, imm := 0x12345678 } 2),
    (0x0D140300004000001234567800000000#128, .vabs { dstIdx := 5, srcA := 3, fmt := 8, imm := 0x12345678 } 2),
    (0x0E140300004000001234567800000000#128, .vneg { dstIdx := 5, srcA := 3, fmt := 8, imm := 0x12345678 } 2),
    (0x0F140384004000001234567800000000#128, .vcmp { dstIdx := 5, srcA := 3, srcB := 0x84, fmt := 8, imm := 0x12345678 } 2),
    (0x10140384004000001234567800000000#128, .vsel { dstIdx := 5, srcA := 3, srcB := 0x84, fmt := 8, imm := 0x12345678 } 2),
    (0x11140300004000001234567800000000#128, .vclz { dstIdx := 5, srcA := 3, fmt := 8, imm := 0x12345678 } 2),
    (0x12140300004000001234567800000000#128, .vpopc { dstIdx := 5, srcA := 3, fmt := 8, imm := 0x12345678 } 2),
    (0x13140384074000001234567800000000#128, .vdot4 { dstIdx := 5, srcA := 3, srcB := 0x84, srcC := 7, fmt := 8, imm := 0x12345678 } 2),
    (0x14140384074000001234567800000000#128, .vdot8 { dstIdx := 5, srcA := 3, srcB := 0x84, srcC := 7, fmt := 8, imm := 0x12345678 } 2),
    (0x15140384004000001234567800000000#128, .vavg { dstIdx := 5, srcA := 3, srcB := 0x84, fmt := 8, imm := 0x12345678 } 2),
    (0x16140300004000001234567800000000#128, .vmov { dstIdx := 5, srcA := 3, fmt := 8, imm := 0x12345678 } 2),
    (0x17140300004000001234567800000000#128, .viota { dstIdx := 5, srcA := 3, fmt := 8, imm := 0x12345678 } 2),
    (0x18140300004000001234567800000000#128, .vbfx { dstIdx := 5, srcA := 3, fmt := 8, imm := 0x12345678 } 2),
    (0x19140384004000001234567800000000#128, .vbfi { dstIdx := 5, srcA := 3, srcB := 0x84, fmt := 8, imm := 0x12345678 } 2)] : List (W128 × Instr)),
  decodeWords .x 32 (fun n => if n = 6 then some w.1 else none) [0x86020000#32] = (w.2, 1) := by decide +kernel

/-- 06 R144: entries of the floating opcodes. -/
theorem test_decode_template_float : ∀ w ∈ ([
    (0x20140384004000001234567800000000#128, .vfadd { dstIdx := 5, srcA := 3, srcB := 0x84, fmt := 8, imm := 0x12345678 } 2),
    (0x21140384004000001234567800000000#128, .vfsub { dstIdx := 5, srcA := 3, srcB := 0x84, fmt := 8, imm := 0x12345678 } 2),
    (0x22140384004000001234567800000000#128, .vfmul { dstIdx := 5, srcA := 3, srcB := 0x84, fmt := 8, imm := 0x12345678 } 2),
    (0x23140384074000001234567800000000#128, .vfma { dstIdx := 5, srcA := 3, srcB := 0x84, srcC := 7, fmt := 8, imm := 0x12345678 } 2),
    (0x24140384004000001234567800000000#128, .vfmin { dstIdx := 5, srcA := 3, srcB := 0x84, fmt := 8, imm := 0x12345678 } 2),
    (0x25140384004000001234567800000000#128, .vfmax { dstIdx := 5, srcA := 3, srcB := 0x84, fmt := 8, imm := 0x12345678 } 2),
    (0x26140384004000001234567800000000#128, .vfcmp { dstIdx := 5, srcA := 3, srcB := 0x84, fmt := 8, imm := 0x12345678 } 2),
    (0x27140300004000001234567800000000#128, .vrcp { dstIdx := 5, srcA := 3, fmt := 8, imm := 0x12345678 } 2),
    (0x28140300004000001234567800000000#128, .vrsq { dstIdx := 5, srcA := 3, fmt := 8, imm := 0x12345678 } 2),
    (0x29140300004000001234567800000000#128, .vsqrt { dstIdx := 5, srcA := 3, fmt := 8, imm := 0x12345678 } 2),
    (0x2A140384004000001234567800000000#128, .vdiv { dstIdx := 5, srcA := 3, srcB := 0x84, fmt := 8, imm := 0x12345678 } 2),
    (0x2B140300004000001234567800000000#128, .vexp2 { dstIdx := 5, srcA := 3, fmt := 8, imm := 0x12345678 } 2),
    (0x2C140300004000001234567800000000#128, .vlog2 { dstIdx := 5, srcA := 3, fmt := 8, imm := 0x12345678 } 2),
    (0x2D140300004000001234567800000000#128, .vsin { dstIdx := 5, srcA := 3, fmt := 8, imm := 0x12345678 } 2),
    (0x2E140300004000001234567800000000#128, .vcos { dstIdx := 5, srcA := 3, fmt := 8, imm := 0x12345678 } 2),
    (0x2F140300004000001234567800000000#128, .vrnd { dstIdx := 5, srcA := 3, fmt := 8, imm := 0x12345678 } 2),
    (0x30140384074000001234567800000000#128, .vdot2 { dstIdx := 5, srcA := 3, srcB := 0x84, srcC := 7, fmt := 8, imm := 0x12345678 } 2),
    (0x31140300004000001234567800000000#128, .vcvt { dstIdx := 5, srcA := 3, fmt := 8, imm := 0x12345678 } 2),
    (0x32140300004000001234567800000000#128, .vpack { dstIdx := 5, srcA := 3, fmt := 8, imm := 0x12345678 } 2),
    (0x33140300004000000000000000000000#128, .vunpack { dstIdx := 5, srcA := 3, fmt := 8 } 2),
    (0x34140300004000001234567800000000#128, .vfclass { dstIdx := 5, srcA := 3, fmt := 8, imm := 0x12345678 } 2),
    (0x35140384074000001234567800000000#128, .vlerp { dstIdx := 5, srcA := 3, srcB := 0x84, srcC := 7, fmt := 8, imm := 0x12345678 } 2)] : List (W128 × Instr)),
  decodeWords .x 32 (fun n => if n = 6 then some w.1 else none) [0x86020000#32] = (w.2, 1) := by decide +kernel

/-- 06 R144: entries of the lane, queue and vision opcodes of X. -/
theorem test_decode_template_lane : ∀ w ∈ ([
    (0x40140384004000001234567800000000#128, .vshuf { dstIdx := 5, srcA := 3, srcB := 0x84, fmt := 8, imm := 0x12345678 } 2),
    (0x41140300004000001234567800000000#128, .vbcast { dstIdx := 5, srcA := 3, fmt := 8, imm := 0x12345678 } 2),
    (0x42140300004000001234567800000000#128, .vred { dstIdx := 5, srcA := 3, fmt := 8, imm := 0x12345678 } 2),
    (0x43140300004000001234567800000000#128, .vscan { dstIdx := 5, srcA := 3, fmt := 8, imm := 0x12345678 } 2),
    (0x44140300004000001234567800000000#128, .vballot { dstIdx := 5, srcA := 3, fmt := 8, imm := 0x12345678 } 2),
    (0x45140300004000000000000000000000#128, .pop { dstIdx := 5, srcA := 3, fmt := 8 } 2),
    (0x46140300004000001234567800000000#128, .qpush { dstIdx := 5, srcA := 3, fmt := 8, imm := 0x12345678 } 2),
    (0x47000300004000001234567800000000#128, .defer { srcA := 3, fmt := 8, imm := 0x12345678 } 2),
    (0x48140000004000000000000000000000#128, .mread { dstIdx := 5, fmt := 8 } 2),
    (0x49000300004000001234567800000000#128, .mwrite { srcA := 3, fmt := 8, imm := 0x12345678 } 2),
    (0x4A140000004000000000000000000000#128, .itemnext { dstIdx := 5, fmt := 8 } 2),
    (0x4B000300004000000000000000000000#128, .vdisc { srcA := 3, fmt := 8 } 2),
    (0x4C000384004000001234567800000000#128, .vzout { srcA := 3, srcB := 0x84, fmt := 8, imm := 0x12345678 } 2),
    (0x4D000384004000001234567800000000#128, .cacc { srcA := 3, srcB := 0x84, fmt := 8, imm := 0x12345678 } 2),
    (0x4E000300004000000000000000000000#128, .crej { srcA := 3, fmt := 8 } 2),
    (0x4F140300004000001234567800000000#128, .vtos { dstIdx := 5, srcA := 3, fmt := 8, imm := 0x12345678 } 2)] : List (W128 × Instr)),
  decodeWords .x 32 (fun n => if n = 6 then some w.1 else none) [0x86020000#32] = (w.2, 1) := by decide +kernel

/-- 06 R144: entries of the access opcodes of A. -/
theorem test_decode_template_access : ∀ w ∈ ([
    (0x50140384004000001234567800000000#128, .ld { dstIdx := 5, srcA := 3, srcB := 0x84, fmt := 8, imm := 0x12345678 } 2),
    (0x51140384004000001234567800000000#128, .ldl { dstIdx := 5, srcA := 3, srcB := 0x84, fmt := 8, imm := 0x12345678 } 2),
    (0x52140384004000001234567800000000#128, .ldf { dstIdx := 5, srcA := 3, srcB := 0x84, fmt := 8, imm := 0x12345678 } 2),
    (0x53140384004000001234567800000000#128, .ldc { dstIdx := 5, srcA := 3, srcB := 0x84, fmt := 8, imm := 0x12345678 } 2),
    (0x54000384074000001234567800000000#128, .st { srcA := 3, srcB := 0x84, srcC := 7, fmt := 8, imm := 0x12345678 } 2),
    (0x55000384074000001234567800000000#128, .stl { srcA := 3, srcB := 0x84, srcC := 7, fmt := 8, imm := 0x12345678 } 2),
    (0x56000384074000001234567800000000#128, .stf { srcA := 3, srcB := 0x84, srcC := 7, fmt := 8, imm := 0x12345678 } 2),
    (0x57000384004000001234567800000000#128, .pf { srcA := 3, srcB := 0x84, fmt := 8, imm := 0x12345678 } 2),
    (0x58000384074000000000000000000000#128, .smp { srcA := 3, srcB := 0x84, srcC := 7, fmt := 8 } 2),
    (0x59140384074000001234567800000000#128, .aadd { dstIdx := 5, srcA := 3, srcB := 0x84, srcC := 7, fmt := 8, imm := 0x12345678 } 2),
    (0x5A140384074000001234567800000000#128, .amin { dstIdx := 5, srcA := 3, srcB := 0x84, srcC := 7, fmt := 8, imm := 0x12345678 } 2),
    (0x5B140384074000001234567800000000#128, .amax { dstIdx := 5, srcA := 3, srcB := 0x84, srcC := 7, fmt := 8, imm := 0x12345678 } 2),
    (0x5C140384074000001234567800000000#128, .aand { dstIdx := 5, srcA := 3, srcB := 0x84, srcC := 7, fmt := 8, imm := 0x12345678 } 2),
    (0x5D140384074000001234567800000000#128, .aor { dstIdx := 5, srcA := 3, srcB := 0x84, srcC := 7, fmt := 8, imm := 0x12345678 } 2),
    (0x5E140384074000001234567800000000#128, .axor { dstIdx := 5, srcA := 3, srcB := 0x84, srcC := 7, fmt := 8, imm := 0x12345678 } 2),
    (0x5F140384074000001234567800000000#128, .axch { dstIdx := 5, srcA := 3, srcB := 0x84, srcC := 7, fmt := 8, imm := 0x12345678 } 2),
    (0x60140384074000001234567800000000#128, .acas { dstIdx := 5, srcA := 3, srcB := 0x84, srcC := 7, fmt := 8, imm := 0x12345678 } 2),
    (0x61140384074000001234567800000000#128, .afadd { dstIdx := 5, srcA := 3, srcB := 0x84, srcC := 7, fmt := 8, imm := 0x12345678 } 2),
    (0x62000384074000001234567800000000#128, .trace { srcA := 3, srcB := 0x84, srcC := 7, fmt := 8, imm := 0x12345678 } 2),
    (0x63000384004000001234567800000000#128, .mbput { srcA := 3, srcB := 0x84, fmt := 8, imm := 0x12345678 } 2),
    (0x64140084004000001234567800000000#128, .attr { dstIdx := 5, srcB := 0x84, fmt := 8, imm := 0x12345678 } 2),
    (0x65140084004000001234567800000000#128, .ldp { dstIdx := 5, srcB := 0x84, fmt := 8, imm := 0x12345678 } 2),
    (0x66000084074000001234567800000000#128, .stp { srcB := 0x84, srcC := 7, fmt := 8, imm := 0x12345678 } 2),
    (0x67140384004000001234567800000000#128, .iadd { dstIdx := 5, srcA := 3, srcB := 0x84, fmt := 8, imm := 0x12345678 } 2),
    (0x68140384004000001234567800000000#128, .ishl { dstIdx := 5, srcA := 3, srcB := 0x84, fmt := 8, imm := 0x12345678 } 2),
    (0x69140300004000001234567800000000#128, .imov { dstIdx := 5, srcA := 3, fmt := 8, imm := 0x12345678 } 2),
    (0x6A140384004000001234567800000000#128, .iand { dstIdx := 5, srcA := 3, srcB := 0x84, fmt := 8, imm := 0x12345678 } 2)] : List (W128 × Instr)),
  decodeWords .a 32 (fun n => if n = 6 then some w.1 else none) [0x86020000#32] = (w.2, 1) := by decide +kernel

/-- 05 R133, 06 R146: matrix words. -/
theorem test_decode_matrix : ∀ w ∈ ([
    (0x0006000000130000#64, .mzero { acc := 3, postB := 9, postEn := true }),
    (0x04A6428223000000#64, .mma { ringA := 1, ringB := 2, acc := 3, fmtA := 4, fmtB := 5, accf := 1, waitB := 17, waitEn := true }),
    (0x08A6428200000006#64, .mmas { ringA := 1, ringB := 2, acc := 3, fmtA := 4, fmtB := 5, accf := 1, op := 6 }),
    (0x0CA0428000000007#64, .mreq { ringA := 1, ringB := 2, fmtA := 4, fmtB := 5, op := 7 }),
    (0x1006000400000005#64, .mst { acc := 3, accf := 2, op := 5 }),
    (0x1486000200000009#64, .mld { ringA := 1, acc := 3, accf := 1, op := 9 }),
    (0x18000000C9370000#64, .mbar { waitB := 100, waitEn := true, postB := 27, postEn := true }),
    (0x1C0042800000000C#64, .mfmt { fmtA := 4, fmtB := 5, op := 12 }),
    (0x2000000000000203#64, .mloop { op := 515 }),
    (0x2400000000090000#64, .mend { postB := 4, postEn := true }),
    (0x2800000000000000#64, .mrel {  })] : List (W64 × Instr)),
  decodeMatrix w.1 = w.2 := by decide +kernel

/-! ## Ill-formed terms: one for each check of `Instr.wellFormed` -/

/-- Direct words: destination, rounding mode, relation, types, order, scope, promotion, `brx`, a reserved encoding. -/
theorem test_wellFormed_direct : ∀ x ∈ ([
    (.a, .add 32 0 0), (.x, .limmt 32 0), (.c, .fadd 0 0 0 false 6), (.c, .fcmp 0 0 0 5), (.c, .fcvt 0 0 7 0 false 0), (.c, .fcvt 0 0 0 7 false 0),
    (.c, .fence false 0 0 false), (.c, .fence false 1 5 false), (.c, .fence false 1 2 true), (.c, .ctrwait 0 0 5), (.c, .ctrpost 0 0 5),
    (.c, .brx 0 0), (.c, .reservedEncoding 0x040 0)] : List (Stream × Instr)), x.2.wellFormed x.1 32 = false := by decide +kernel

/-- Template entries: every check of 05 R122 and R123, in the order of `Tpl.wf`; the entry they change is well formed. -/
theorem test_wellFormed_entries :
    let t : Tpl := { dstIdx := 4, srcA := 1, srcB := 2 }
    (Instr.vadd t 0).wellFormed .x 32 = true ∧
    ∀ u ∈ ([{ t with zero := 1 }, { t with rnd := 6 }, { t with ind := true, fmt := 1 }, { t with srcA := 32 }, { t with srcB := 0x48 }, { t with srcC := 3 },
      { t with dstIdx := 32 }, { t with dstKind := 1 }, { t with adv := 1 }, { t with adv := 2 },
      { t with adv := 4 }, { t with adv := 8 }, { t with srcA := 0x40, srcB := 0x40, adv := 3 }] : List Tpl), (Instr.vadd u 0).wellFormed .x 32 = false := by
  decide +kernel

/-- Entries whose opcode uses no third operand, no source, no destination. -/
theorem test_wellFormed_unused : ∀ i ∈ ([
    .itemnext { srcA := 1 } 0, .itemnext { srcB := 1 } 0, .itemnext { imm := 1 } 0, .vmov { srcA := 1, srcB := 1 } 0,
    .viota { srcA := 0x80, wait := 1 } 0, .vcmp { srcA := 1, free := 1 } 0, .vdisc { srcA := 0x4C, imm := 1 } 0,
    .vdisc { srcA := 1, dstIdx := 1 } 0, .qpush { srcA := 1, dstIdx := 12, dstKind := 1 } 0] : List Instr), i.wellFormed .x 32 = false := by
  decide +kernel

/-- Matrix words: every check of 05 R133. -/
theorem test_wellFormed_matrix :
    (∀ w ∈ ([{ zero := 1 }, { accf := 3 }, { waitB := 1 }, { postB := 1 }, { ind := true, fmtA := 1 }, { lc := 1 }] : List MFields), (Instr.mma w).wellFormed .m 0 = false) ∧
    (∀ w ∈ ([{ ringA := 1 }, { ringB := 1 }, { fmtA := 1 }, { ind := true }, { accf := 1 }, { op := 1 }] : List MFields), (Instr.mzero w).wellFormed .m 0 = false) ∧
    (Instr.mreq { acc := 1 }).wellFormed .m 0 = false ∧ (Instr.mfmt { waitEn := true }).wellFormed .m 0 = false := by decide +kernel

/-! ## Ill-formed words: the cause of 05 R134 for each check, and the word of the chain that carries it -/

/-- What the decoder answers for a reserved encoding. -/
def bad (c : BitVec 10) (n : Nat) : Instr := .reservedEncoding c n

/-- 05 R118, R134, 06 R138, R142: reserved opcodes, zero fields, register numbers, relations, types, orders, scopes, rounding modes. -/
theorem test_ill_formed_direct : ∀ w ∈ ([
    (0x3D000000, 0x040), (0x3F000000, 0x040), (0x6C000000, 0x040), (0x7F000000, 0x040),
    (0x00000001, 0x041), (0x00040000, 0x041), (0x01143241, 0x041), (0x2414324E, 0x041), (0x2A143245, 0x041),
    (0x2B1431C0, 0x041), (0x56000000, 0x041), (0x56000007, 0x041), (0x5600002A, 0x041)] : List (Nat × BitVec 10)),
  decodeWords .c 0 (fun _ => none) [BitVec.ofNat 32 w.1] = (bad w.2 0, 1) := by decide +kernel

/-- 05 R120: c32 is a register of C, g32 none of A. -/
theorem test_ill_formed_registers :
    decodeWords .a 32 (fun _ => none) [0x01803240#32] = (bad 0x041 0, 1) ∧ decodeWords .a 32 (fun _ => none) [0x017C3240#32] = (.add 31 3 9, 1) ∧
    decodeWords .c 32 (fun _ => none) [0x01803240#32] = (.add 32 3 9, 1) := by decide +kernel

/-- One entry of X at index 6, executed by a patch word of select 0 and predicate 2. -/
def ill (st : Stream) (e : W128) : Instr × Nat := decodeWords st 32 (fun n => if n = 6 then some e else none) [0x86020000#32]

/-- 05 R122, R123, 06 R144, R145: entries of X, most of them of `vsub`. -/
theorem test_ill_formed_entries : ∀ w ∈ ([
    (0x1A000000000000000000000000000000, 0x040), (0x36000000000000000000000000000000, 0x040),
    (0x6B000000000000000000000000000000, 0x040), (0xFF000000000000000000000000000000, 0x040),
    (0x01100102000000010000000000000000, 0x041), -- a zero bit
    (0x01100102000300000000000000000000, 0x041), -- rounding mode 6
    (0x01100102000C00000000000000000000, 0x041), -- indirect with a format code
    (0x01100122000000000000000000000000, 0x041), -- v34 of 32
    (0x01100148000000000000000000000000, 0x041), -- queue 8 as a source of X
    (0x011001C1000000000000000000000000, 0x041), -- kind 3, index 1
    (0x01100102010000000000000000000000, 0x041), -- an unused source
    (0x01820102000000000000000000000000, 0x041), -- v32 as destination
    (0x01010102000000000000000000000000, 0x041), -- queue 0 as a destination of X
    (0x4A140000004004000000000000000000, 0x041), -- `wait` of an opcode without sources
    (0x49000300004000400000000000000000, 0x041), -- `free` of an opcode without a destination
    (0x01100102000000040000000000000000, 0x041), -- an advance of a register
    (0x01104040000000140000000000000000, 0x041)] : List (Nat × BitVec 10)), -- one queue advanced twice
  (ill .x (BitVec.ofNat 128 w.1)).1 = bad w.2 0 := by decide +kernel

/-- 05 R128 to R131: chains: an entry not loaded, in C, an illegal select, a select twice, a value too wide, select 0 in a chain, another
index, no second word, a fifth word; an amended entry of two words. -/
theorem test_chains :
    let e : Nat → Option W128 := fun n => if n = 6 then some 0x01100102000000000000000000000000 else none
    let d (ws : List W32) : Instr × Nat := decodeWords .x 32 e ws
    d [0x87020000] = (bad 0x043 0, 1) ∧ decodeWords .c 32 e [0x86020000] = (bad 0x042 0, 1) ∧ d [0x86C20000] = (bad 0x041 0, 1) ∧
    d [0x86020001] = (bad 0x041 0, 1) ∧ d [0x86220100] = (bad 0x041 0, 1) ∧ d [0xC6220003, 0x86220004] = (bad 0x041 1, 2) ∧
    d [0xC6220003, 0x86020000] = (bad 0x041 1, 2) ∧ d [0xC6220003, 0x87320004] = (bad 0x041 1, 2) ∧ d [0xC6220003, 0x86330004] = (bad 0x041 1, 2) ∧
    d [0xC6220003, 0x00000000] = (bad 0x041 1, 2) ∧ d [0xC6220003] = (bad 0x041 0, 1) ∧
    d [0xC6120003, 0xC6220004, 0xC6320005, 0xC6820000, 0x86920000] = (bad 0x041 4, 5) ∧
    d [0xC6220007, 0x86120009] = (.vsub { dstIdx := 9, srcA := 7, srcB := 2 } 2, 2) := by decide +kernel

/-- 05 R133, 06 R146: matrix words: a reserved opcode, the zero bit, accumulate format 3, a barrier without its enable, a field not
used, an indirect format with a code, lc without indirect. -/
theorem test_ill_formed_matrix : ∀ w ∈ ([
    (0x2C00000000000000, 0x040), (0xFC00000000000000, 0x040), (0x0006000100130000, 0x041), (0x0006000600130000, 0x041),
    (0x0006000002130000, 0x041), (0x0006000000120000, 0x041), (0x0086000000130000, 0x041), (0x0006000000130001, 0x041),
    (0x04A6424223000000, 0x041), (0x04A6020A00000000, 0x041), (0x1C0042800100000C, 0x041)] : List (Nat × BitVec 10)),
  decodeMatrix (BitVec.ofNat 64 w.1) = bad w.2 0 := by decide +kernel

/-! ## Template words: decidable forms of the conditions, and a group with queues -/

def qReady (s : State) (op : Nat) (t : Tpl) : Bool :=
  ((srcQueues op t).map (·.1)).all (fun n => decide ((Team.queue s.curGroup n).depth ≠ 0 ∧ t.wait.toNat ≤ (Team.queue s.curGroup n).depth ∧
    t.wait.toNat ≤ (Team.queue s.curGroup n).visible)) &&
  match dstQueue op t with
  | none => true
  | some n => decide ((Team.queue s.curGroup n).depth ≠ 0 ∧ t.free.toNat ≤ (Team.queue s.curGroup n).depth ∧
      t.free.toNat ≤ (Team.queue s.curGroup n).room ∧ (Team.queue s.curGroup n).room ≠ 0)

theorem queuesReady_iff (s : State) (op : Nat) (t : Tpl) : s.queuesReady op t ↔ qReady s op t = true := by
  unfold State.queuesReady qReady
  cases dstQueue op t <;> simp only [Bool.and_eq_true, List.all_eq_true, decide_eq_true_eq, reduceCtorEq, Option.some.injEq, false_imp_iff,
    forall_const, and_true, forall_eq']

def lanesOk (s : State) (sp : Space) (base w : Nat) (ls : List LaneAcc) : Bool :=
  ls.all fun l => l.va % w == 0 && match sp with
    | .global => s.curGroup.inFrame base w l.va && decide (l.va < 2 ^ 51)
    | .scratch => decide (l.va + w ≤ (s.inst (s.team s.cur.team).inst).image.scratchBytes)

theorem lanesPass_iff (s : State) (sp : Space) (base w : Nat) (ls : List LaneAcc) :
    s.lanesPass sp base w ls ↔ lanesOk s sp base w ls = true := by
  unfold State.lanesPass lanesOk
  cases sp <;> simp

/-- Queues: 0 to 2 of loads (one filled slot, none, both of two), 8 to 10 of stores (the same), 12 a raster's, 13 a traversal's, 14 a
sampler's, each with one filled slot. -/
def queues0 : List Que :=
  let q (f : Nat) (b : QBind) : Que := { depth := 2, f := f, tail := f % 2, slots := List.replicate 2 {}, bind := b }
  [q 1 .none, q 0 .none, q 2 .none, {}, {}, {}, {}, {}, q 1 .none, q 0 .none, q 2 .none, {}, q 1 .raster, q 1 .traversal, q 1 .sampler]

/-- An X and an A context with those queues. -/
def atXQ (f : Group → Group := id) : State := atX fun g => f { g with queues := queues0 }
def atAQ (f : Group → Group := id) : State := atA fun g => f { g with queues := queues0, tr := List.replicate 32 { limit := 2 ^ 51 } }

/-- An entry with vector sources 1, 2, 3 and destination vector 4, and one with source queue 0 and destination queue 9, both advanced. -/
def tVec (fmt : BitVec 5) (aux : W32 := 0) : Tpl := { fmt := fmt, aux := aux, srcA := 1, srcB := 2, srcC := 3, dstIdx := 4 }
def tQue (fmt : BitVec 5) (aux : W32 := 0) : Tpl :=
  { fmt := fmt, aux := aux, srcA := 0x40, srcB := 2, srcC := 3, dstIdx := 9, dstKind := 1, wait := 1, free := 1, adv := 9 }

/-! ## A job card and its image in memory -/

/-- The header, section table and role table of `image0`, with no private memory. -/
def headerCells : List Host.Cell :=
  cells 0x20000 [(0, 0x49), (1, 0x4B), (2, 0xC0), (3, 0x0D), (4, 1), (0x0A, 1), (0x0D, 1), (0x14, 2), (0x21, 0x10), (0x25, 0x10), (0x29, 0x20),
    (0x2D, 0x10), (0x31, 0x30), (0x35, 0x10), (0x39, 0x40), (0x3D, 0x10), (0x41, 0x50), (0x44, 0x10), (0x45, 4), (0x49, 0x70), (0x4C, 0x40),
    (0x51, 0x71), (0x54, 0x10), (0x59, 0x80), (0x5D, 1), (0x61, 0x72), (0x64, 0x10), (0x7200, 1), (0x7201, 32), (0x7206, 1)]

/-- Job 0's card: flags, period; deadline 50,000 ns, budget 1,000 ns, cluster 0, image 0x20000, control record 3, a grid of one team of
one group and role, dispositions STOP and, for class 15, ESCALATE. -/
def cardBytes0 (flags : Byte) (period : List Byte) : List Byte :=
  [0x42, 0x4A, 0xC0, 0x0D, flags, 0, 0, 0] ++ period ++ [0x50, 0xC3, 0, 0, 0, 0, 0, 0] ++ List.replicate 8 0 ++
  [0xE8, 3, 0, 0, 0, 0, 0, 0] ++ [0, 0, 0, 0, 1, 0, 0, 0] ++ [0, 0, 0, 0, 1, 0, 0, 0] ++ [0, 0, 2, 0, 0, 0, 0, 0] ++
  [3, 0, 0, 0, 0, 0, 0, 0] ++ [1, 0, 1, 0, 1, 0, 1, 1] ++ List.replicate 8 0 ++ [255, 255, 0, 0, 0, 0, 0, 0] ++
  [255, 255, 0, 0, 0, 0, 0, 0] ++ [0, 0, 0, 0, 0, 0, 0, 0x50] ++ List.replicate 144 0

/-- A one-shot card, and a periodic one of 100,000 ns. -/
def oneShot : List Byte := cardBytes0 2 [0, 0, 0, 0, 0, 0, 0, 0]
def periodic : List Byte := cardBytes0 6 [0xA0, 0x86, 1, 0, 0, 0, 0, 0]

/-- A device with nothing running, the card at 0x40000, whose page 0 has a submit of job 0 in preparation. -/
def atCard (card : List Byte) : State :=
  { State.reset with
    mem := { cells := tableCells ++ headerCells ++ recordCells ++ (cells 0x40000 (card.zipIdx.map fun e => (e.2, e.1.toNat))).filter (·.2 != 0) },
    now := 5000, lodge.bootStep := 5, lodge.jobBase := 0x40,
    lodge.jobCount := 4, cores := [{}], parts := [{ valid := true, clusters := 1, regs := 1, ptRoot := 1 }],
    pages := [{ seq := 1, prep := [{ seq := 0, code := 0, op := 0, job := 0 }] }] }

/-! ## Witnesses: direct words -/

theorem witness_IntegerWordCodes : decodeDirect .c 0x01000001 = .reservedEncoding 0x041 0 := by decide +kernel

/-- A C, an A and an X context meet the hypotheses of the direct words that write a register. -/
theorem witness_IntegerRegisterWords :
    ((atC.offers intStreams = true ∧ atC.midBody = true) ∧ (atA.offers intStreams = true ∧ atA.midBody = true)) ∧
    (atX.offers intStreams = true ∧ atX.midBody = true) := by decide +kernel

theorem witness_NopWord : atC.offers intStreams = true ∧ atC.midBody = true := by decide +kernel
theorem witness_ImmediateWordCodes :
    (5#18).toNat < 2 ^ 10 ∧ (0x1C000FC0 / 2 ^ 24 ∈ [0x1C, 0x1D, 0x1E] ∧ 0x1C000FC0 / 2 ^ 6 % 2 ^ 6 ≠ 0) ∧
    (0x23000400 / 2 ^ 24 = 0x23 ∧ 0x23000400 / 2 ^ 10 % 2 ^ 8 ≠ 0) := by decide +kernel
theorem witness_ImmediateOperandWords : atA.offers intStreams = true ∧ atA.midBody = true := by decide +kernel
theorem witness_LongImmediateWords : atX.offers intStreams = true ∧ atX.midBody = true := by decide +kernel
theorem witness_ScalarRoundingWords : atX.offers floatStreams = true ∧ atX.midBody = true ∧ (5#3) ≠ 6 := by decide +kernel
theorem witness_FloatCompareCodes : 0x2A000005 / 2 ^ 24 = 0x2A ∧ 5 ≤ 0x2A000005 % 2 ^ 6 := by decide
theorem witness_FloatCompareWord :
    atC.offers floatStreams = true ∧ atC.midBody = true ∧ (0#3).toNat ≤ 4 ∧ (4#3).toNat ≤ 4 := by decide +kernel

/-- A conversion of two integer types traps, one of binary32 to a signed 32-bit integer completes. -/
theorem witness_FloatConvertWord :
    atC.offers floatStreams = true ∧ atC.midBody = true ∧ (3 ≤ (3#3).toNat ∧ 3 ≤ (4#3).toNat) ∧
    ¬((0#3) = 3 ∨ (0#3) = 7 ∨ (3#3) = 7 ∨ (3 ≤ (0#3).toNat ∧ 3 ≤ (3#3).toNat)) ∧ (0#3) ≠ 6 := by decide +kernel

theorem witness_TransferWordCodes : 0x3B001000 / 2 ^ 24 = 0x3B ∧ 0x3B001000 % 2 ^ 6 = 0 := by decide

/-- `beq c0, c0` with offset 1 and with offset −1 (before section 0), and `beq c0, c1` with c1 = 1. -/
theorem witness_BranchWords : let s := atC (Cs [1])
    s.inC 0 ∧ s.codeTarget 0 (0x21000 + 4 * (1#12).toInt) ∧ ¬s.codeTarget 0 (0x21000 + 4 * (0xFFF#12).toInt) ∧
    (s.team 0).cReg 0 = (s.team 0).cReg 0 ∧ (s.team 0).cReg 0 ≠ (s.team 0).cReg 1 := by
  unfold State.inC State.codeTarget; decide +kernel

theorem witness_JumpWords : let s := atC (Cs [0x21008, 0x21002, 7])
    s.inC 0 ∧ s.codeTarget 0 ((s.team 0).cReg 1).toNat ∧ ¬s.codeTarget 0 ((s.team 0).cReg 2).toNat ∧
    s.codeTarget 0 (0x21000 + 4 + 4 * (min ((s.team 0).cReg 3).toNat ((5#6).toNat - 1) : Nat)) := by
  unfold State.inC State.codeTarget; decide +kernel

/-- c1 = 0, c2 = 1, c3 = 2, with offset 1 in section 0 and offset −1 outside it. -/
theorem witness_LoopWord : let s := atC (Cs [0, 1, 2])
    s.inC 0 ∧ (1#6) ≠ 0 ∧ (s.team 0).cReg 1 = 0 ∧ (s.team 0).cReg 2 = 1 ∧ 1 < ((s.team 0).cReg 3).toNat ∧
    s.codeTarget 0 (0x21000 + 4 * (1#12).toInt) ∧ ¬s.codeTarget 0 (0x21000 + 4 * (0xFFF#12).toInt) := by
  unfold State.inC State.codeTarget; decide +kernel

/-- An empty return stack, one of 15 entries and a full one, with top entries inside and outside section 0. -/
theorem witness_CallWords :
    let st (l : List W64) := atC fun t => { t with ctrl.stack := l }
    ((st []).inC 0 ∧ (st []).codeTarget 0 (0x21000 + 4 * (1#24).toInt) ∧ ¬(st []).codeTarget 0 (0x21000 + 4 * (0xFFFFFF#24).toInt)) ∧
    ((st (List.replicate 15 0x21004)).inC 0 ∧ (List.replicate 15 (0x21004 : W64)).length < 16 ∧
      (st (List.replicate 15 0x21004)).codeTarget 0 0x21004 ∧ ¬(st [0]).codeTarget 0 0) ∧
    (st (List.replicate 16 0)).inC 0 ∧ 16 ≤ (List.replicate 16 (0 : W64)).length := by
  unfold State.inC State.codeTarget; decide +kernel

/-- The image with a template block, a ring declaration (ring 1: base 64, slots of 16 bytes, 4 of them) and a format declaration. -/
def atTables : State :=
  { atC (Cs [32]) with mem := (mem0.writeN 0x27000 8 0x8104001000000040).writeN 0x27100 1 0x88 }

theorem witness_TableWords : let s := atTables
    let bs := s.repair.sectionBytes 0 5 0 8
    s.inC 0 ∧ (8 ≤ (8#6).toNat ∧ (7#6).toNat < 8) ∧ (31 < ((s.team 0).cReg 1).toNat ∧ ((s.team 0).cReg 0).toNat ≤ 31) ∧
    (16 ≤ (16#6).toNat ∧ (16#6) ≠ 63) ∧ (s.repair.sectionBytes 0 6 0 (min 16 (s.repair.sectionSize 0 6))).isRight = true ∧
    8 * (0#12).toNat + 8 ≤ s.repair.sectionSize 0 5 ∧
    rightIs bs (fun bs => decide (128 ≤ (bs.getD 7 0).toNat) && (bs.getD 7 0).toNat % 8 == 1) = true ∧
    (s.team 0).amQuiet = true ∧ (s.team 0).axQuiet = true ∧
    ((0 + 1) * 1040 ≤ s.repair.sectionSize 0 4 ∧ s.repair.sectionSize 0 4 < (32 + 1) * 1040) ∧
    (s.repair.sectionBytes 0 4 (0 * 1040) 1040).isRight = true := by
  unfold State.inC; decide +kernel

/-- With an A record under way, `mbset` and `tpload` wait. -/
theorem witness_TableWords_busy : let s := { (atA) with cur := .c 0, iw := base.iw, mem := atTables.mem }
    s.inC 0 ∧ (s.team 0).amQuiet = false ∧ (s.team 0).axQuiet = false ∧
    rightIs (s.repair.sectionBytes 0 5 0 8) (fun bs => decide (128 ≤ (bs.getD 7 0).toNat) && (bs.getD 7 0).toNat % 8 == 1) = true ∧
    (0 + 1) * 1040 ≤ s.repair.sectionSize 0 4 := by
  unfold State.inC; decide +kernel

/-- Group mask 1 with depths 2 and 16; a mask that names an absent group, depth 1, depth 2 beside a queue of 15; a busy group. -/
theorem witness_QueueConfigWord :
    let s := atC (Cs [1, 2])
    let m := (s.team 0).cReg 1
    let full := (s.team 0).modGroup 0 (·.modQueue 1 fun _ => freshQueue 15)
    let busy := { atA with cur := .c 0, iw := base.iw }
    (s.inC 0 ∧ (s.team 0).maskOk m.toNat = true ∧ (s.team 0).maskOk ((s.team 0).cReg 2).toNat = false ∧ (1#12).toNat = 1 ∧
      ∀ g ∈ maskGroups m.toNat, ((s.team 0).group g).depths 0 16 ≤ 16 ∧ ((s.team 0).group g).actx.idle = true ∧
        ((s.team 0).group g).xctx.idle = true) ∧
    ((s.setTeam 0 full).inC 0 ∧ ¬∀ g ∈ maskGroups m.toNat, (full.group g).depths 0 2 ≤ 16) ∧
    (busy.inC 0 ∧ ((busy.team 0).group 0).depths 0 2 ≤ 16 ∧ ((busy.team 0).group 0).actx.idle = false) := by
  unfold State.inC; decide +kernel

/-- Records 0 and 1 of the image are valid A and X records; record 3, a control record, is not; a bound above the limit; a group
whose A and X records are under way. -/
theorem witness_RunGroupWords :
    let s := atC (Cs [1, 0, 1, 3])
    let im := (s.inst 0).image
    let low := { s with preIter := 50 }
    let ok (s : State) (n : Nat) (p : LoopRec → Bool) : Bool := rightIs (s.repair.readRecord 0 n) p
    let iter (s : State) (n : Nat) (r : LoopRec) : Bool := s.repair.iterOk (entryRun (s.team 0).lc n r s.cycle)
    (s.inC 0 ∧ (s.team 0).maskOk 1 = true ∧ (s.team 0).maskOk 3 = false ∧ 0 < im.recordCount ∧ 3 < im.recordCount) ∧
    (∀ g ∈ maskGroups 1, (s.group 0 g).actx.idle = true ∧ (s.group 0 g).actx.resume = [] ∧
      (s.group 0 g).xctx.idle = true ∧ (s.group 0 g).xctx.resume = []) ∧
    ok s 0 (fun r => recordValid im 0 r && iter s 0 r) = true ∧ ok s 1 (fun r => recordValid im 1 r && iter s 1 r && bitsOf r.flags 3 1 == 0) = true ∧
    ok s 3 (fun r => recordValid im 0 r == false) = true ∧
    (low.inC 0 ∧ ok low 0 (fun r => recordValid im 0 r && !iter low 0 r) = true) ∧
    ({ atA with cur := .c 0, iw := base.iw }.group 0 0).actx.idle = false ∧ ({ atX with cur := .c 0, iw := base.iw }.group 0 0).xctx.idle = false := by
  unfold State.inC; decide +kernel

theorem witness_RunMatrixWord :
    let s := atC (Cs [2])
    let r := s.repair.endPull 0
    (s.inC 0 ∧ (s.team 0).mEnded = false ∧ s.repair.hasOps 0 = false ∧ (s.team 0).mctx.idle = true ∧ (s.team 0).mctx.resume = [] ∧
      2 < (s.inst 0).image.recordCount ∧ rightIs (r.readRecord 0 2) (fun x =>
        recordValid (s.inst 0).image 2 x && r.iterOk (entryRun (s.team 0).lc 2 x s.cycle)) = true) ∧
    (atC fun t => { t with mEnded := true }).inC 0 ∧
    (let o := atC fun t => { t with mops := [{ team := 0, instr := .nop }] }
     let o := o.modCore 0 fun k => { k with mops := [{ team := 0, instr := .nop }] }
     o.inC 0 ∧ o.repair.hasOps 0 = true) := by
  unfold State.inC; decide +kernel

/-! ## Witnesses: memory, barriers, system words -/

/-- `cld` from 0x30000, which holds 7. -/
theorem witness_ScalarLoadWord : let s := { atC (Cs [0x30000]) with mem := mem0.writeN 0x30000 8 7 }
    let va := ((s.team 0).cReg 1 + (0#12).signExtend 64).toNat
    s.inC 0 ∧ (s.team 0).ctrl.withdrawn = false ∧ rightIs (s.repair.checkAddr 0 none va 8 .read) (fun r =>
      r.1 == 0x30000 && memIs (r.2.coreRead 0 va r.1 8) fun bs _ => natOfBytes bs == 7) = true := by
  unfold State.inC; decide +kernel

/-- Addresses 2^51, and 4, by register and by sum. -/
theorem witness_ScalarAccessFaults : let s := atC (Cs [2 ^ 51, 4])
    s.inC 0 ∧ 2 ^ 51 ≤ ((s.team 0).cReg 1 + (0#12).signExtend 64).toNat ∧ 2 ^ 51 ≤ ((s.team 0).cReg 1).toNat ∧
    ((s.team 0).cReg 2).toNat < 2 ^ 51 ∧ ((s.team 0).cReg 2).toNat % 8 ≠ 0 := by
  unfold State.inC; decide +kernel

/-- Stores to memory through the L1, into the window of a frame (past its bytes), and to a register. -/
theorem witness_ScalarStoreWord :
    let ok (s : State) (p : Nat → State → Bool) : Bool := rightIs (s.repair.checkAddr 0 none 0x30000 8 .write) fun r => p r.1 r.2
    let s := atC (Cs [0x30000])
    let w := { s with lodge.ingress := [{ winBase := 0x30000, winLen := 16 }] }
    let g := { s with tlb := [{ owner := .core 0, pid := 0, va := 0x30000, size := 0x10000, pa := 0x00F000010000, w := true, x := false }] }
    (s.inC 0 ∧ (s.team 0).ctrl.withdrawn = false ∧ ok s (fun pa u => u.physTarget pa == .mem && !u.uncached 0 0x30000 pa && (u.heldBy 0 0x30000 8).isNone) = true) ∧
    (w.inC 0 ∧ ok w (fun pa u => u.physTarget pa == .mem && u.uncached 0 0x30000 pa && (u.heldBy 0 0x30000 8).isNone &&
      (u.accOf 0 0x30000).rev == 0 && u.revs.isEmpty && u.mem.wf && pa % 8 == 0) = true) ∧
    (g.inC 0 ∧ ok g (fun pa u => u.physTarget pa == .window 0x10000 && (u.heldBy 0 0x30000 8).isNone) = true) := by
  unfold State.inC; decide +kernel

theorem witness_CoherentAtomicWords : let s := { atC (Cs [0x30000, 5]) with mem := mem0.writeN 0x30000 8 7 }
    let f (x : Nat) : Option Nat := some ((x + ((s.team 0).cReg 2).toNat) % 2 ^ 64)
    s.inC 0 ∧ (s.team 0).ctrl.withdrawn = false ∧ rightIs (s.repair.checkAddr 0 none 0x30000 8 .atomic) (fun r =>
      let at_ (x : MRes Nat) : Bool := memIs x fun old _ => old == 7
      at_ (r.2.atomicAt 0 0x30000 r.1 8 1 3 f) && at_ (r.2.atomicAt 0 0x30000 r.1 8 2 3 f) && at_ (r.2.atomicAt 0 0x30000 r.1 8 3 3 f) &&
      at_ (r.2.atomicAt 0 0x30000 r.1 8 4 3 f) && at_ (r.2.atomicPrm 0 0x30000 r.1 8 3 f) && at_ (r.2.atomicAt 0 0x30000 r.1 8 3 2 f)) = true := by
  unfold State.inC; decide +kernel

/-- A counter at 7 against 7 and 8, at scopes 1 and 3. -/
theorem witness_CounterWaitWord : let s := { atC (Cs [0x30000, 7, 8]) with mem := mem0.writeN 0x30000 8 7 }
    let read (sc : Nat) : Bool := rightIs (s.repair.checkAddr 0 none 0x30000 8 .read) fun r =>
      memIs (r.2.readAt 0 0x30000 r.1 8 sc) fun bs _ => natOfBytes bs == 7
    s.inC 0 ∧ (s.team 0).ctrl.withdrawn = false ∧ read 1 = true ∧ read 3 = true ∧
    ((s.team 0).cReg 2).toNat ≤ 7 ∧ 7 < ((s.team 0).cReg 3).toNat ∧ (1#3).toNat < 2 ∧ 2 ≤ (3#3).toNat := by
  unfold State.inC; decide +kernel

/-- C with a clean and a dirty shared byte, a release, an acquire and a narrow scope; A with a load outstanding. -/
theorem witness_FenceWord :
    let s := { atC with l1 := [{ core := 0, pa := 0x30000, val := 1, dirty := true }, { core := 0, pa := 0x30001, val := 2 }] }
    let a := atA fun g => { g with outst := [{ seq := 0, kind := .load, instr := .nop, info := {}, lanes := [] }] }
    s.offers [.c, .a] = true ∧ 2 ≤ (3#3).toNat ∧ (2#2) ≠ 1 ∧ (1#2) ≠ 2 ∧
    (a.offers [.c, .a] = true ∧ a.cur.stream = .a ∧ (a.group 0 0).outst ≠ []) ∧ atA.offers [.c, .a] = true ∧ (atA.group 0 0).outst = [] := by
  decide +kernel

theorem witness_ReleaseReachesMemory :
    let b : L1Byte := { core := 0, pa := 0x30000, val := 1, dirty := true }
    let s := { atC with l1 := [b, { core := 0, pa := 0x30001, val := 2 }] }
    s.l1.filter (fun x => x.core == 0 && x.dirty && !x.priv) = [b] ∧ s.mem.wf = true ∧ s.revs = [] ∧ s.bad = [] ∧
    s.physTarget b.pa = .mem := by decide +kernel

/-- Barrier 3 with COUNT 2 on core 0, for which the C context may have a recorded phase. -/
def atBar (arrived : Nat) (recs : List BarRec) : State :=
  (atC fun t => { Cs [3, 2] t with barRecs := recs, ctrl := { t.ctrl with waiting := recs.any (·.waiting) } }).setBarrier 0 3 { count := 2, arrived := arrived, owner := 0 }

theorem witness_BarrierInitWord :
    ((atBar 0 []).inC 0 ∧ (3 : Nat) < 128 ∧ ((atBar 0 []).team 0).cReg 1 = 3 ∧ ((atBar 0 []).team 0).cReg 2 = 2 ∧
      (atBar 0 []).barrier 0 3 = some { count := 2, owner := 0 } ∧ (atBar 0 []).barWaited 0 3 = false) ∧
    ((atBar 1 []).inC 0 ∧ (atBar 1 []).barrier 0 3 = some { count := 2, arrived := 1, owner := 0 }) ∧
    ((atBar 0 [{ ctx := .c 0, bar := 3, phase := 0, arrived := true, waiting := true }]).inC 0 ∧
      (atBar 0 [{ ctx := .c 0, bar := 3, phase := 0, arrived := true, waiting := true }]).barWaited 0 3 = true) ∧
    ((atC (Cs [128, 1])).inC 0 ∧ ¬(((atC (Cs [128, 1])).team 0).cReg 1).toNat < 128) := by
  unfold State.inC; decide +kernel

/-- No barrier; a first and a last arrival; a second arrival; waits for the phase and after it; an invalidated phase; open accesses. -/
theorem witness_BarrierWords :
    let q : BarRec := { ctx := .c 0, bar := 3, phase := 0, arrived := true }
    let a := atA fun g => { g with outst := [{ seq := 0, kind := .load, instr := .nop, info := {}, lanes := [] }] }
    let up (s : State) : Bool := s.offers [.c, .a, .x]
    (up atC = true ∧ atC.barrier 0 3 = none ∧ atC.repair.barRec (.c 0) 3 = none ∧ atC.repair.openAccess (.c 0) = false) ∧
    (up (atBar 0 []) = true ∧ (atBar 0 []).repair.barRec (.c 0) 3 = none ∧ 0 + 1 < 2 ∧ up (atBar 1 []) = true ∧ 2 ≤ 1 + 1) ∧
    (up (atBar 1 [q]) = true ∧ (atBar 1 [q]).repair.barRec (.c 0) 3 = some q ∧ q.phase = 0 ∧ q.gone = false) ∧
    (up (atBar 0 [{ q with phase := 9 }]) = true ∧ (atBar 0 [{ q with phase := 9 }]).repair.barRec (.c 0) 3 = some { q with phase := 9 }) ∧
    (up (atBar 0 [{ q with gone := true }]) = true ∧ (atBar 0 [{ q with gone := true }]).repair.barRec (.c 0) 3 = some { q with gone := true }) ∧
    (up a = true ∧ a.repair.openAccess (.a 0 0) = true) := by decide +kernel

/-- The ready table of cluster 0 empty, full, and with two entries of the tag. -/
theorem witness_ReadyTableWords :
    let e (v : W64) : ReadyEntry := { inst := 0, tag := 5, value := v }
    let tab (l : List ReadyEntry) : State := (atC (Cs [5, 9])).modCluster 0 fun x => { x with ready := l }
    ((tab []).inC 0 ∧ ((tab []).cluster 0).ready.length < 128) ∧
    ((tab (List.replicate 128 (e 1))).inC 0 ∧ 128 ≤ ((tab (List.replicate 128 (e 1))).cluster 0).ready.length) ∧
    ((tab [e 9, e 4]).inC 0 ∧ ∃ x ∈ ((tab [e 9, e 4]).cluster 0).ready, x.inst = 0 ∧ x.copy = 0 ∧ x.tag = ((tab []).team 0 |>.cReg 1).setWidth 32) := by
  unfold State.inC; decide +kernel

/-- The job handles class 13 with HANDLER. -/
theorem witness_TrapWord : let s := { atC with insts := [{ st := .running, image := image0, card := { disposition := 0x10000000000000 } }] }
    s.inC 0 ∧ (s.team 0).handler = none ∧ (s.team 0).fallback = false ∧ (s.inst 0).card.nibble (0x340 + (5#6).setWidth 10) = 1 ∧
    (s.part 0).evtEnable = false := by
  unfold State.inC; decide +kernel

theorem witness_HandlerReturnWord : let s := atC fun t => { t with handler := some { trapped := some (.x 0 0), savedPc := 0x21010 } }
    (s.inC 0 ∧ (s.team 0).handler = some { trapped := some (.x 0 0), savedPc := 0x21010 } ∧ (s.team 0).ctrl.seg = none ∧
      (s.team 0).held = [] ∧ (s.team 0).instHeld = [] ∧ (Ctx.x 0 0).team = 0 ∧ (Ctx.x 0 0).stream ≠ .c) ∧
    (atC.inC 0 ∧ (atC.team 0).handler = none) := by
  unfold State.inC; decide +kernel

theorem witness_SystemRegisterWords : atC.inC 0 ∧ (11 : Nat) ≤ 11 ∧ (0x010#12) ≠ 0x011 ∧
    ¬((0x02B#12).toNat ≤ 0x00B ∨ (0x02B#12) = 0x010 ∨ (0x02B#12) = 0x011 ∨ (0x020 ≤ (0x02B#12).toNat ∧ (0x02B#12).toNat ≤ 0x02A)) := by
  unfold State.inC; decide +kernel

/-- No signal, a pre-emption signal, and a team of the instance waiting for the slot. -/
theorem witness_CheckpointStopWords :
    let ok (s : State) : Bool := (s.team 0).ctrl.seg.isNone && (s.inst 0).pendingCause.isNone && (s.team 0).instHeld.isEmpty
    let p := atC fun t => { t with sent := .preempt, signal := .preempt }
    let y := { atC with teams := atC.teams ++ [{ status := .suspended, core := 0, groups := [{}] }] }
    (atC.inC 0 ∧ ok atC = true ∧ (atC.team 0).signal = .none ∧ atC.repair.yieldTaker 0 = false) ∧
    (p.inC 0 ∧ ok p = true ∧ (p.team 0).signal ≠ .none) ∧
    (y.inC 0 ∧ ok y = true ∧ (y.team 0).signal = .none ∧ y.repair.yieldTaker 0 = true) := by
  unfold State.inC; decide +kernel

/-- Everything done; an A record under way; an unmerged child; a channel that runs. -/
theorem witness_TeamExitWord :
    let busy := { atA with cur := .c 0, iw := base.iw }
    let kid := atC fun t => { t with children := [{ handle := 1, team := 1 }] }
    let ch := atC.modChan 0 0 fun h => { h with st := .running, owner := some 0 }
    let ok (s : State) : Bool := (s.team 0).axDone && s.repair.mDone 0
    (atC.inC 0 ∧ (atC.team 0).ctrl.seg = none ∧ (atC.team 0).handler = none ∧ ok atC = true ∧ (atC.team 0).children = [] ∧
      atC.repair.chansDone 0 = true) ∧
    (busy.inC 0 ∧ (busy.team 0).axDone = false) ∧ (kid.inC 0 ∧ ok kid = true ∧ ∃ c ∈ (kid.team 0).children, c.merged = false) ∧
    (ch.inC 0 ∧ ok ch = true ∧ ch.repair.chansDone 0 = false) := by
  unfold State.inC; decide +kernel

theorem witness_RegionWords : atC.inC 0 ∧ (atC.team 0).ctrl.region = none ∧
    (let s := atC fun t => { t with ctrl.region := some { pc := 0, c := [], lc := [], stack := [], gen := 1 } }
     s.inC 0 ∧ (s.team 0).ctrl.region.isSome = true) := by
  unfold State.inC; decide +kernel

/-- No segment; a segment of no words whose literal is 0; a segment whose literal expects one word. -/
theorem witness_SegmentWord :
    let g (w : W32) : State := atC fun t => { t with ctrl.seg := some { expect := w } }
    let lit (s : State) : Bool := ((s.repair.modCtrl 0 fun c => { c with seg := none }).fetchWord 0 s.iw.next).isRight
    (atC.inC 0 ∧ (atC.team 0).ctrl.seg = none ∧ lit atC = true) ∧ ((g 0).inC 0 ∧ lit (g 0) = true) ∧
    ((g 0x10000).inC 0 ∧ (0 : Nat) % 2 ^ 16 ≠ (0x10000 : W32).toNat / 2 ^ 16) := by
  unfold State.inC; decide +kernel

/-! ## Witnesses: tasks, units, items -/

/-- A region list at 0x30000 with one region; c1 its address, c2 the index of a control record. -/
def atFork (cfg : W64) (free : Nat) (f : Team → Team := id) : State :=
  { (atC fun t => f (Cs [0x30000, 3] t)).modPart 0 fun p => { p with revCfg := cfg, revFree := free } with
    mem := ((mem0.writeN 0x30000 8 1).writeN 0x30010 8 0x40000).writeN 0x30018 8 128 }

/-- The hypotheses every clause of the fork word shares, with what the list parses to. -/
def forkReady (s : State) (list : Bool) : Bool :=
  !(s.team 0).ctrl.withdrawn && rightIs (s.repair.readRecord 0 3) (fun r => recordValid image0 3 r) &&
  memIs (s.repair.readList 0 0x30000) fun bs _ => (parseRegions bs).isSome == list

theorem witness_ForkWord :
    let bad := { atFork 1 8 with mem := mem0 }
    let deep := atFork 1 8 fun t => { t with depth := 4 }
    let ok (s : State) : Prop := (s.team 0).depth < 4 ∧ (s.team 0).unjoined < 16 ∧ (s.team 0).forkCount < 65535
    ((atFork 1 8).inC 0 ∧ 3 < image0.recordCount ∧ 0x30000 % 16 = 0 ∧ forkReady (atFork 1 8) true = true ∧ ok (atFork 1 8) ∧
      ((atFork 1 8).part 0).revCfg.getLsbD 0 = true ∧ 2 ≤ ((atFork 1 8).part 0).revFree) ∧
    ((atFork 0 8).inC 0 ∧ forkReady (atFork 0 8) true = true ∧ ok (atFork 0 8) ∧ ((atFork 0 8).part 0).revCfg.getLsbD 0 = false) ∧
    (bad.inC 0 ∧ forkReady bad false = true) ∧ (deep.inC 0 ∧ forkReady deep true = true ∧ 4 ≤ (deep.team 0).depth) := by
  unfold State.inC; decide +kernel

theorem witness_JoinWords :
    let kid (m j : Bool) : State := atC fun t => { Cs [7] t with children := [{ handle := 7, team := 1, merged := m, joined := j }] }
    let find (s : State) : Option Child := (s.team 0).children.find? fun c => c.handle == (s.team 0).cReg 1 && !c.joined
    ((kid true false).inC 0 ∧ (find (kid true false)).map (·.merged) = some true ∧ (find (kid false false)).map (·.merged) = some false ∧
      (kid false false).inC 0) ∧
    ((kid true true).inC 0 ∧ (∀ c ∈ ((kid true true).team 0).children, c.handle = ((kid true true).team 0).cReg 1 → c.joined = true)) ∧
    (atC.inC 0 ∧ ∀ c ∈ (atC.team 0).children, c.handle ≠ (atC.team 0).cReg 1) ∧ 3 ≤ (3#6).toNat := by
  unfold State.inC; decide +kernel

/-- Channel 0 free, linked, running, running with a following command, in ERROR, of another team; a misaligned address. -/
theorem witness_CopyChannelWords :
    let ch (f : Chan → Chan) (l : List W64) : State := (atC (Cs l)).modChan 0 0 f
    let at_ (s : State) : Chan := (s.core 0).chan 0
    let run := ch (fun h => { h with st := .running, owner := some 0 }) [0x40, 0]
    let full := ch (fun h => { h with st := .running, owner := some 0, next := some 0x60 }) [0x40, 0]
    let err := ch (fun h => { h with st := .error }) [0x40, 0]
    let other := ch (fun h => { h with st := .linked, owner := some 1 }) [0x40, 0]
    let link := ch (fun h => { h with st := .linked, owner := some 0 }) [0x40, 0]
    (∀ s ∈ [ch id [0x40, 0], run, full, err, other, link], s.cur = .c 0 ∧ s.offers [.c] = true ∧ s.iw.resumed = false) ∧
    ((at_ (ch id [0x40])).st = .idle ∧ (at_ (ch id [0x40])).owner = none ∧ 0x40 % 32 = 0) ∧
    ((at_ run).st ≠ .idle ∧ (at_ run).st ≠ .error ∧ (at_ run).next = none ∧ (at_ run).owner = some 0 ∧ (at_ run).st ≠ .linked) ∧
    ((at_ full).next ≠ none ∧ (at_ err).st = .error ∧ (at_ other).owner = some 1 ∧ (at_ link).st = .linked) ∧
    (atC (Cs [1])).inC 0 ∧ ((atC (Cs [1])).team 0).cReg 1 = 1 ∧ 8 ≤ 0x40 := by
  unfold State.inC; decide +kernel

/-- An M-cluster and an X-cluster; an aligned and a misaligned address; a builder command submitted, running and finished. -/
theorem witness_UnitCommandWords :
    let m := atC (Cs [0x40, 1])
    let x := m.modTeam 0 fun t => { t with core := 24 }
    let b (fin : Bool) : State := { m.modTeam 0 fun t => { t with ctrl.ticket := some 5 } with
      lodge.builds := [{ id := 5, fn := 3, team := 0, pid := 0, core := 0, addr := 0x40, finished := fin }] }
    (m.inC 0 ∧ isMCluster (clusterOf (m.team 0).core) = true ∧ ((m.team 0).cReg 2).toNat % 64 ≠ 0 ∧ (m.team 0).ctrl.ticket = none) ∧
    (x.inC 0 ∧ isMCluster (clusterOf (x.team 0).core) = false ∧ ((x.team 0).cReg 1).toNat % 64 = 0) ∧
    ((b false).inC 0 ∧ ((b false).team 0).ctrl.ticket = some 5 ∧ ((b false).lodge.builds.find? fun c => c.id == 5).map (·.finished) = some false) ∧
    ((b true).inC 0 ∧ ((b true).lodge.builds.find? fun c => c.id == 5).map (fun c => (c.finished, c.fail)) = some (true, none)) := by
  unfold State.inC; decide +kernel

/-- A generation table with one entry: descriptor 0x40, generation 1 resident and current. -/
def atGen (l : List W64) (f : Team → Team := id) : State :=
  { atC (fun t => f (Cs l t)) with
    lodge.gens := [some { pid := 0, desc := 0x40, kind := 0, arena := 0, slotNodes := 0, slots := 1, origin := [], cell := 0, cur := 1,
                          gens := [{ num := 1, leaves := 1 }] }] }

theorem witness_PinWords :
    let four := atGen [0x40] fun t => { t with pins := [1, 2, 3, 4] }
    let mine := atGen [0x41] fun t => { t with pins := [0x41] }
    ((atGen [0x40]).inC 0 ∧ ((atGen [0x40]).repair.pinFor 0 0 0x40).isSome = true ∧ ((atGen [0x40]).team 0).pins.length < 4 ∧
      ((atGen [0x40]).team 0).cReg 1 ∉ ((atGen [0x40]).team 0).pins) ∧
    ((atGen [0x80]).inC 0 ∧ (atGen [0x80]).repair.pinFor ((atGen [0x80]).pidOf 0) 0 0x80 = none) ∧
    (four.inC 0 ∧ (four.repair.pinFor (four.pidOf 0) 0 0x40).isSome = true ∧ 4 ≤ (four.team 0).pins.length) ∧
    (mine.inC 0 ∧ (mine.team 0).cReg 1 ∈ (mine.team 0).pins) := by
  unfold State.inC; decide +kernel

/-- A coverage launch with one-byte elements and a pitch of 64, declared as 8 × 4, as another tile, or not at all. -/
def atCover (decl : Option (Nat × Nat)) (linear : Nat) (l : List W64) : State :=
  { atC (fun t => { Cs l t with linear := linear }) with
    insts := [{ st := .running, image := image0, decl := decl, sampled := some 0, card := { flags := 8, elemFmt := 10, pitch := 64 } }] }

theorem witness_ItemWords :
    let ok (s : State) : Bool := s.cur == .c 0 && s.offers [.c] && !s.iw.resumed && (s.team 0).tile.isNone
    let fits (s : State) : Prop := 1 * ((s.team 0).cReg 1).toNat * (1 * ((s.team 0).cReg 2).toNat) ≤ 2 ^ 32 ∧
      1 * ((s.team 0).cReg 1).toNat * surfaceBytes (s.inst 0).card.elemFmt ≤ (s.inst 0).card.pitch
    (ok (atC (Cs [0, 4])) = true ∧ ¬(1 ≤ ((atC (Cs [0, 4])).team 0 |>.cReg 1).toNat)) ∧
    (ok (atC (Cs [8, 4])) = true ∧ (atC (Cs [8, 4])).covers 0 = false ∧ ((atC (Cs [8, 4])).inst 0).sampled = none) ∧
    (ok (atCover (some (8, 4)) 0 [8, 4]) = true ∧ (atCover (some (8, 4)) 0 [8, 4]).covers 0 = true ∧
      ((atCover (some (8, 4)) 0 [8, 4]).inst 0).sampled ≠ none) ∧
    (ok (atCover (some (9, 9)) 0 [8, 4]) = true ∧ (9, 9) ≠ (8, 4)) ∧
    (ok (atCover none 1 [8, 4]) = true ∧ ((atCover none 1 [8, 4]).team 0).linear ≠ 0) ∧
    (ok (atCover none 0 [65, 4]) = true ∧ ¬fits (atCover none 0 [65, 4])) ∧
    (ok (atCover none 0 [64, 65535]) = true ∧ fits (atCover none 0 [64, 65535])) ∧ 5 ≤ (5#6).toNat := by decide +kernel

/-- An empty queue; one entry whose role is free, and one whose role no group has; a running X record. -/
theorem witness_DeferralDrainWord :
    let e (role : Nat) : DefEntry := { record := 1, token := 0, item := 0, role := role, base := 0, live := [] }
    let s (role : Nat) : State := atC fun t => { t with dq := [[e role]] }
    let placed (s : State) : Sum MErr (List DefBatch × State) := ((s.repair.modTeam 0 fun x => { x with
      drain := batchesOf (x.dq.getD 0 []), dq := setAt [] x.dq 0 [], dqScalars := setAt [] x.dqScalars 0 [] }).modCtrl 0
        fun c => { c with ticket := some 1 }).placeBatches 0 [] (batchesOf ((s.team 0).dq.getD 0 []))
    let busy := { atX with cur := .c 0, iw := base.iw }
    ((s 0).inC 0 ∧ ((s 0).team 0).ctrl.ticket = none ∧ ((s 0).team 0).xBusy = false ∧ rightIs (placed (s 0)) (fun r => r.1.isEmpty) = true) ∧
    ((s 1).inC 0 ∧ rightIs (placed (s 1)) (fun r => !r.1.isEmpty) = true) ∧ (busy.inC 0 ∧ (busy.team 0).xBusy = true) ∧
    ((0#6).toNat < 4 ∧ ¬(4#6).toNat < 4 ∧ (0#6).toNat < 32) := by
  unfold State.inC; decide +kernel

/-! ## Witnesses: vector words -/

theorem witness_VectorIntegerWords :
    atXQ.offers [.x] = true ∧ atXQ.midBody = true ∧ ∀ w ∈ vectorIntOps, ∀ t ∈ [tVec 8, tQue 26],
      atXQ.ruleCode w.2.1 { fmts := [8, 9, 10, 11, 26], dsts := [0, 1], sat := w.2.2.1, u := true } t = some t.fmt.toNat ∧
      atXQ.queuesReady w.2.1 t := by
  simp only [queuesReady_iff]; decide +kernel

/-- An undefined aux bit; queue 3, which is not configured; queue 1, which is empty; queue 10, which is full and advanced. -/
theorem witness_TemplateWordChecks :
    let rule (w : (Tpl → BitVec 4 → Instr) × Nat × Bool × (IntFmt → Int → Int → Int → Int)) : TRule :=
      { fmts := [8, 9, 10, 11, 26], dsts := [0, 1], sat := w.2.2.1, u := true }
    let q (n : Nat) : Que := Team.queue atXQ.curGroup n
    let t (n : Byte) : Tpl := { tVec 8 with srcA := 0x40 + n, wait := 1 }
    let full : Tpl := { tVec 8 with dstKind := 1, dstIdx := 10, adv := 8 }
    atXQ.offers [.x] = true ∧ ∀ w ∈ vectorIntOps,
      atXQ.ruleCode w.2.1 (rule w) (tVec 8 1) = none ∧
      (atXQ.ruleCode w.2.1 (rule w) (t 3) = some 8 ∧ srcQueues w.2.1 (t 3) = [(3, false)] ∧ (q 3).depth = 0) ∧
      (atXQ.ruleCode w.2.1 (rule w) (t 1) = some 8 ∧ srcQueues w.2.1 (t 1) = [(1, false)] ∧ dstQueue w.2.1 (t 1) = none ∧
        (q 1).depth = 2 ∧ (t 1).wait.toNat ≤ 2 ∧ ¬(t 1).wait.toNat ≤ (q 1).visible) ∧
      (atXQ.ruleCode w.2.1 (rule w) full = some 8 ∧ srcQueues w.2.1 full = [] ∧ dstQueue w.2.1 full = some 10 ∧ (q 10).depth ≠ 0 ∧
        full.free.toNat ≤ (q 10).room ∧ full.adv.getLsbD 3 = true ∧ (q 10).room = 0) := by decide +kernel

theorem witness_TemplateFieldRules : ({ fmts := [8], aux := 0x70000 } : TRule).fmts ≠ [] ∧ 0x70000 < 2 ^ 24 := by decide

theorem witness_SourceOperands : (0x05#8).toNat / 64 = 0 ∧ (0x45#8).toNat / 64 = 1 ∧ (0x85#8).toNat / 64 = 2 ∧ (0xC0#8).toNat / 64 = 3 ∧ 31 < 32 := by
  decide

theorem witness_VectorRoundingWords :
    let sr : Tpl := { tVec 0 with rnd := 5 }
    atXQ.offers [.x] = true ∧ atXQ.midBody = true ∧ atXQ.tplMode sr = .sr ∧ atXQ.tplMode (tQue 1) ≠ .sr ∧
    (∀ w ∈ vectorFloatOps, ∀ t ∈ [sr, tQue 1],
      atXQ.ruleCode w.2.1 { fmts := [0, 1, 2], dsts := [0, 1], rnd := true, sat := true } t = some t.fmt.toNat ∧ atXQ.queuesReady w.2.1 t) ∧
    (atXQ.ruleCode 0x2F { fmts := [0, 1, 2], dsts := [0, 1], rnd := true } sr = some 0 ∧ atXQ.queuesReady 0x2F sr) ∧
    ∀ op ∈ [0x24, 0x25], atXQ.ruleCode op { fmts := [0, 1, 2], dsts := [0, 1] } (tVec 2) = some 2 ∧ atXQ.queuesReady op (tVec 2) := by
  simp only [queuesReady_iff]; decide +kernel

theorem witness_VectorCompareWords :
    let p (t : Tpl) : Tpl := { t with dstKind := 3 }
    atXQ.offers [.x] = true ∧ atXQ.midBody = true ∧ (5 ≤ 5 ∧ 4 ≤ 4) ∧ (p (tVec 9 0x50000)).aux.toNat / 2 ^ 16 % 8 = 5 ∧
    (∀ t ∈ [p (tVec 9 0x50000), tVec 8 0x1000000], atXQ.ruleCode 0x0F { fmts := [8, 9, 10, 11, 26], dsts := [0, 3], u := true, aux := 0x70000 } t =
      some t.fmt.toNat ∧ atXQ.queuesReady 0x0F t) ∧
    (∀ t ∈ [p (tVec 0 0x40000), tVec 1], atXQ.ruleCode 0x26 { fmts := [0, 1, 2], dsts := [0, 3], aux := 0x70000 } t = some t.fmt.toNat ∧
      atXQ.queuesReady 0x26 t) ∧
    (atXQ.ruleCode 0x10 { dsts := [0, 1], aux := 0xF0000 } (tQue 0 0x30000) = some 0 ∧ atXQ.queuesReady 0x10 (tQue 0 0x30000)) := by
  simp only [queuesReady_iff]; decide +kernel

theorem witness_VectorPackedWords :
    let im : Tpl := { tVec 0 with srcA := 0xC0, imm := 5 }
    let bf : W32 := 0x123
    atXQ.offers [.x] = true ∧ atXQ.midBody = true ∧
    (∀ op ∈ [0x13, 0x14], atXQ.ruleCode op { dsts := [0, 1], sat := true, aux := 0x30000 } (tQue 0 0x10000) = some 0 ∧
      atXQ.queuesReady op (tQue 0 0x10000)) ∧
    (atXQ.ruleCode 0x15 { fmts := [8, 9, 10, 11, 26], dsts := [0, 1], rnd := true, u := true } { tVec 11 with rnd := 5 } = some 11 ∧
      atXQ.queuesReady 0x15 { tVec 11 with rnd := 5 }) ∧
    (atXQ.ruleCode 0x16 { dsts := [0, 1] } (tQue 0) = some 0 ∧ atXQ.queuesReady 0x16 (tQue 0)) ∧
    (∀ t ∈ [im, { tVec 0 0x10000 with srcA := 0 }], atXQ.ruleCode 0x17 { dsts := [0, 1], aux := 0x10000 } t = some 0 ∧ atXQ.queuesReady 0x17 t) ∧
    (im.aux.getLsbD 16 = false ∧ 2 ≤ im.srcA.toNat / 64) ∧ (1 ≤ bf.toNat / 32 % 64 ∧ bf.toNat % 32 + bf.toNat / 32 % 64 ≤ 32 ∧
      bf.toNat / 2 ^ 11 % 32 = 0) ∧
    (atXQ.ruleCode 0x18 { fmts := [8], dsts := [0, 1], u := true, aux := 0xFFFF } (tVec 8 bf) = some 8 ∧ atXQ.queuesReady 0x18 (tVec 8 bf)) ∧
    (atXQ.ruleCode 0x19 { dsts := [0, 1], aux := 0xFFFF } (tVec 0 bf) = some 0 ∧ atXQ.queuesReady 0x19 (tVec 0 bf)) := by
  simp only [queuesReady_iff]; decide +kernel

/-- int8 to binary32, binary32 packed to binary16 at element 32, binary16 unpacked to binary32 from element 32. -/
theorem witness_VectorConvertWords :
    let set : List Nat := [0, 1, 2, 3, 4, 5, 6, 7, 8, 9, 10, 11, 12, 13, 26, 27]
    let rule (dsts : List Nat) (aux : Nat) : TRule := { fmts := set, dsts := dsts, rnd := true, sat := true, aux := aux }
    let cv : Tpl := { tQue 10 with sat := true }
    let pk := tVec 0 0x10020
    let un := tVec 1 0x20
    atXQ.offers [.x] = true ∧ atXQ.midBody = true ∧ atXQ.flushes = false ∧ atXQ.curGroup.live = 0xFFFFFFFF#32 ∧
    (atXQ.ruleCode 0x31 (rule [0, 1] 0x1F0000) cv = some 10 ∧ cv.aux.toNat / 2 ^ 16 % 32 = 0 ∧ 0 ∈ set ∧ atXQ.queuesReady 0x31 cv) ∧
    (atXQ.ruleCode 0x32 (rule [0] 0x1FFFFF) pk = some 0 ∧ pk.aux.toNat / 2 ^ 16 % 32 = 1 ∧ elemBits 1 = 16 ∧ 32 + 32 ≤ 1024 / elemBits 1 ∧
      atXQ.queuesReady 0x32 pk) ∧
    (atXQ.ruleCode 0x33 (rule [0, 1] 0x1FFFFF) un = some 1 ∧ un.aux.toNat / 2 ^ 16 % 32 = 0 ∧ un.srcA.toNat / 64 ≤ 1 ∧ atXQ.queuesReady 0x33 un) ∧
    (atXQ.ruleCode 0x34 { fmts := [0, 1, 2], dsts := [0, 1] } (tVec 2) = some 2 ∧ atXQ.queuesReady 0x34 (tVec 2)) ∧
    (atXQ.ruleCode 0x30 { fmts := [1, 2], dsts := [0, 1], rnd := true, sat := true } (tVec 1) = some 1 ∧ atXQ.queuesReady 0x30 (tVec 1)) := by
  simp only [queuesReady_iff]; decide +kernel

theorem witness_LaneWords :
    let codes : List Nat := [0, 1, 2, 8, 9, 10, 11, 26]
    let sv (t : Tpl) : Tpl := { t with dstKind := 2 }
    let ok (op : Nat) (r : TRule) (t : Tpl) (c : Nat) : Prop := atXQ.ruleCode op r t = some c ∧ atXQ.queuesReady op t
    atXQ.offers [.x] = true ∧ atXQ.midBody = true ∧
    (∀ t ∈ [tVec 0 0, tVec 0 0x1001F, tQue 0 0x20010], ok 0x40 { dsts := [0, 1], aux := 0x3FFFF } t 0) ∧
    ok 0x41 { dsts := [0, 1], aux := 0x1F } (tVec 0 31) 0 ∧
    (∀ t ∈ [tVec 8 0x50000, sv (tVec 0 0x20000)], ok 0x42 { fmts := codes, dsts := [0, 2], rnd := true, sat := true, u := true, aux := 0x70000 } t
      t.fmt.toNat) ∧
    (isIntCode 8 = true ∧ isIntCode 0 = false ∧ atXQ.tplMode (tVec 8) ≠ .sr) ∧
    ok 0x43 { fmts := codes, dsts := [0, 1], rnd := true, sat := true, u := true, aux := 0xF0000 } (tVec 9 0x80000) 9 ∧
    (∀ t ∈ [sv (tVec 0), { tVec 0 with dstKind := 3 }], ok 0x44 { dsts := [2, 3] } t 0) ∧
    (∀ t ∈ [sv (tVec 8 31), { sv (tVec 0 0x10000) with srcB := 0x81 }], ok 0x4F { fmts := [0, 8], dsts := [2], aux := 0x1FFFF } t t.fmt.toNat) ∧
    (0x81#8).toNat / 64 = 2 := by
  simp only [queuesReady_iff]; decide +kernel

/-- `pop` of queue 0, `qpush` into queue 9, `qadv` of a load queue in A and X at and past its counts. -/
theorem witness_QueueMoveWords :
    let po : Tpl := { tVec 0 0x30000 with srcA := 0x40, wait := 1 }
    let pu : Tpl := { tVec 0 with dstKind := 1, dstIdx := 9, free := 1 }
    let q (n : Nat) : Que := Team.queue atAQ.curGroup n
    (atXQ.offers [.x] = true ∧ atXQ.midBody = true ∧ atXQ.ruleCode 0x45 { dsts := [0], aux := 0xF0000 } po = some 0 ∧ po.srcA.toNat / 64 = 1 ∧
      po.adv.getLsbD 0 = false ∧ po.wait ≠ 0 ∧ atXQ.queuesReady 0x45 po) ∧
    (atXQ.ruleCode 0x46 { dsts := [1] } pu = some 0 ∧ pu.free ≠ 0 ∧ pu.adv.getLsbD 3 = false ∧ pu.srcA.toNat / 64 ≠ 1 ∧
      atXQ.queuesReady 0x46 pu) ∧
    (atXQ.offers [.a, .x] = true ∧ atAQ.offers [.a, .x] = true ∧ atAQ.midBody = true ∧ ¬(16#6).toNat < 8) ∧
    ((q 3).depth = 0 ∧ (q 1).depth < (3#4).toNat ∧ (q 1).depth ≠ 0 ∧ (2#4).toNat ≤ (q 1).room ∧ (q 0).room < (2#4).toNat) ∧
    ((q 8).visible < (2#4).toNat ∧ (1#4).toNat ≤ (q 8).visible ∧ (q 8).depth ≠ 0 ∧ (1#4) ≠ 0) := by
  simp only [queuesReady_iff]; decide +kernel

/-- X with tiles of two, and record 1 of the image to resume at; 256 entries held; a matrix operation that names tile 1. -/
def atTile (f : Team → Team := id) : State := atXQ.modTeam 0 fun t => f { t with tiles := List.replicate 2 [] }

theorem witness_DeferAndTileWords :
    let df : Tpl := { tVec 0 0x120000 with srcB := 0, srcC := 0, dstIdx := 0, imm := 1 }
    let full := atTile fun t => { t with dq := [[], List.replicate 256 { record := 1, token := 0, item := 0, role := 0, base := 0, live := [] }] }
    let busy := atTile.modCore 0 fun k => { k with mops := [{ team := 0, instr := .mzero { acc := 1 } }] }
    let tl := tVec 0 0x10020
    atTile.offers [.x] = true ∧ atTile.midBody = true ∧ full.offers [.x] = true ∧ full.midBody = true ∧ busy.offers [.x] = true ∧ busy.midBody = true ∧
    (atTile.ruleCode 0x47 { aux := 0x3F0000 } df = some 0 ∧ full.ruleCode 0x47 { aux := 0x3F0000 } df = some 0 ∧ df.srcA.toNat / 64 = 0 ∧
      1 + 2 ≤ atTile.curGroup.vregs ∧ 1 < image0.recordCount ∧
      rightIs (atTile.repair.readRecord 0 1) (fun r => bitsOf r.flags 0 2 == 1 && bitsOf r.flags 3 1 == 0) = true ∧
      rightIs (full.repair.readRecord 0 1) (fun r => bitsOf r.flags 0 2 == 1 && bitsOf r.flags 3 1 == 0) = true) ∧
    (((atTile.team 0).dq.getD 1 []).length + (maskLanes (atTile.active 0)).length ≤ 256 ∧
      256 < ((full.team 0).dq.getD 1 []).length + (maskLanes (full.active 0)).length) ∧
    (∀ s ∈ [atTile, busy], s.entryReady 0x48 { dsts := [0, 1], aux := 0x7FFFF } tl 0 ∧ s.entryReady 0x49 { aux := 0x7FFFF } tl 0 ∧
      1 < (s.team 0).tiles.length) ∧ atTile.tileBusy 0 1 = false ∧ busy.tileBusy 0 1 = true ∧ 0x20 % 32 = 0 := by
  simp only [State.entryReady, queuesReady_iff]; decide +kernel

/-- The head of a refill kernel; delivery queues 12 and 13 with and without NO_DISC, and a queue of another unit. -/
theorem witness_DecisionWords :
    let refill := atXQ fun g => { g with xctx := { run := some { run2 with lr := { run2.lr with flags := 0x49 } } } }
    let t (q : Byte) : Tpl := { tVec 0 with srcA := 0x40 + q, wait := 1 }
    let nd := atXQ fun g => g.modQueue 12 fun q => { q with slots := [{ noDisc := true }, {}] }
    refill.offers [.x] = true ∧ refill.midBody = true ∧ refill.entryReady 0x4A { dsts := [0] } (tVec 0) 0 ∧
    atRefillHead (refill.ctxState refill.cur) = true ∧ atXQ.offers [.x] = true ∧ atXQ.midBody = true ∧ nd.offers [.x] = true ∧ nd.midBody = true ∧
    (∀ q ∈ [12, 13], ∀ e ∈ [(0x4B, ({} : TRule)), (0x4C, {}), (0x4D, { aux := 0x10000 }), (0x4E, {})],
      atXQ.entryReady e.1 e.2 (t q) 0 ∧ (t q).srcA.toNat / 64 = 1 ∧ 12 ≤ (t q).srcA.toNat % 64) ∧
    (nd.entryReady 0x4B {} (t 12) 0 ∧ nd.entryReady 0x4C {} (t 12) 0) ∧
    ((Team.queue atXQ.curGroup 12).bind = .raster ∧ (Team.queue atXQ.curGroup 12).headSlot.noDisc = false ∧
      (Team.queue nd.curGroup 12).headSlot.noDisc = true ∧ (Team.queue atXQ.curGroup 13).bind = .traversal) := by
  simp only [State.entryReady, queuesReady_iff]; decide +kernel

/-- A ray's lane with a current candidate: no decision, an acceptance inside and outside the limits, with and without a winner. -/
theorem witness_CandidateDecisions :
    let c : Cand := { prim := 4 }
    let x : TraceLane := { lane := 0, addr := 0, cur := some c, tmax := 0x40000000, words := List.replicate 12 0 }
    let far : TraceLane := { x with win := some (0x3F800000, 2, 0) }
    x.cur = some c ∧ x.decided = false ∧ x.accepts false c 0x3F800000 = true ∧ x.accepts false c 0x7FC00000 = false ∧ x.win = none ∧
    ({ x with decided := true } : TraceLane).decided = true ∧ far.accepts false c 0x3F800000 = true ∧
    ¬(fixW 0x3F800000 < fixW 0x3F800000) ∧ ¬c.prim < 2 := by decide +kernel

/-! ## Witnesses: the A stream -/

/-- A with the queues above, base registers g1 = 0x30000 and g2 = 64, and lane indices in i1. -/
def atAM (i1 : Lanes := []) (f : Group → Group := id) : State :=
  atAQ fun g => f { g with g := [0, 0x30000, 64, 0x1000], i := [[], i1] }

/-- A memory operand of base register `b`, index i1, with queue 1 as destination, or data from queue 8 or the immediate. -/
def tLd (fmt : BitVec 5) (b : Byte) (aux : W32 := 0) : Tpl :=
  { fmt := fmt, srcA := 0x80 + b, srcB := 1, dstKind := 1, dstIdx := 1, free := 1, adv := 8, aux := aux }
def tSt (fmt : BitVec 5) (b : Byte) (aux : W32 := 0) : Tpl :=
  { fmt := fmt, srcA := 0x80 + b, srcB := 1, srcC := 0x48, wait := 1, adv := 4, aux := aux }

/-- The lanes of an operand translate. -/
def laneTrans (s : State) (t : Tpl) (kind : AccessKind) : Bool :=
  rightIs (s.repair.transLanes 0 (some (.reg 0 0 (t.srcA.toNat % 64))) 0 kind (s.operandLanes t 0)) fun r => r.1.length == 32

theorem witness_TranslationRegisterWords :
    atAM.offers [.a] = true ∧ (0#6) = 0 ∧ (3#6) ≠ 0 ∧ (atAM.readReg 3).toNat ≤ 2 ^ 51 ∧ (atAM.readReg 1).toNat < 2 ^ 51 ∧
    (atAM.repair.translate 0 none 0 (atAM.readReg 1).toNat .read).isRight = true ∧
    ((0 : Int) ≤ (atAM.readReg 1).toNat + (0#12).toInt ∧ (atAM.readReg 1).toNat + (0#12).toInt ≤ (2 ^ 51 : Int)) ∧
    ((atAM.readReg 0).toNat + (0xFFF#12).toInt < (0 : Int)) ∧
    (atAM [] fun g => { g with g := [0, 2 ^ 52] }).offers [.a] = true ∧
    2 ^ 51 < ((atAM [] fun g => { g with g := [0, 2 ^ 52] }).readReg 1).toNat := by decide +kernel

/-- Ring 0 of two slots of 128 bytes, with and without a free slot; the index words on vectors. -/
theorem witness_RingAndIndexWords :
    let ring (f : Nat) : State := atAM.modTeam 0 fun t => { t with rings := [some { slotBytes := 128, count := 2, f := f }] }
    let t : Tpl := { tLd 8 1 with dstKind := 0, dstIdx := 0, free := 0, adv := 0 }
    let im (k : BitVec 2) : Tpl := { srcA := 1, dstIdx := 2, dstKind := k, aux := 0x10000 }
    (∀ f ∈ [0, 2], (ring f).offers [.a] = true ∧ (ring f).midBody = true ∧
      (ring f).entryReady 0x63 { fmts := [8], aux := 0x1E03FFFF } t 8 ∧ ((ring f).envOf 0x63 t 0 8).memOk = true ∧
      ((ring f).team 0).rings.getD 0 none = some { slotBytes := 128, count := 2, f := f } ∧ ((ring f).team 0).pubsOf 0 = 0) ∧
    (t.srcB.toNat / 64 ≠ 3 ∧ 0 % 128 = 0 ∧ 0 + 128 ≤ 128 ∧ (ring 0).lanesPass .global 1 4 ((ring 0).operandLanes t 0) ∧
      laneTrans (ring 0) t .read = true) ∧
    (∀ op ∈ [0x67, 0x68, 0x6A], (ring 0).entryReady op { dsts := [0] } (tVec 0) 0) ∧
    ∀ k ∈ [0, 3], (ring 0).entryReady 0x69 { dsts := [0, 3], aux := 0x10000 } (im k) 0 := by
  simp only [State.entryReady, queuesReady_iff, lanesPass_iff]; decide +kernel

/-- Relaxed loads of four bytes; a scratchpad load while an acquire is outstanding; 64 full-empty loads held on the core. -/
theorem witness_LoadWords :
    let rule (os : Nat) : TRule := { fmts := [0, 1, 2, 8, 9, 10, 11, 26], dsts := [1], aux := 0x1FBFFFF + os }
    let acq : Outst := { seq := 0, kind := .load, instr := .ld (tLd 8 1 0x400000) 0, info := {}, lanes := [{ lane := 0, va := 0 }], order := 1, scope := 2 }
    let fe : Outst := { seq := 0, kind := .fullEmpty, instr := .ldf (tLd 8 2) 0, info := {}, lanes := [{ lane := 0, va := 128 }], dst := some (0, 0) }
    let held := atAM [] fun g => { g with outst := List.replicate 64 fe }
    let wait := atAM [] fun g => { g with outst := [acq] }
    let t := tLd 8 1
    let l := tLd 8 2
    let pr : Tpl := { tLd 0 0 with srcA := 0 }
    let pf : Tpl := { srcA := 0x81, srcB := 1 }
    (∀ s ∈ [atAM, held, wait], s.offers [.a] = true ∧ s.midBody = true) ∧
    (t.free ≠ 0 ∧ (atAM.envOf 0x50 t 0 8).memOk = true ∧ (atAM.envOf 0x50 t 0 8).ordOk [0, 1] = true ∧
      (atAM.envOf 0x50 t 0 8).order = 0 ∧ (atAM.envOf 0x50 t 0 8).scope ≤ 4 ∧ (atAM.envOf 0x50 t 0 8).prm = false) ∧
    (atAM.lanesPass .global 1 4 (atAM.operandLanes t 0) ∧ laneTrans atAM t .read = true ∧ atAM.entryReady 0x50 (rule 0) t 8 ∧
      atAM.entryReady 0x53 (rule 0) t 8) ∧
    ((atAM.envOf 0x50 l 0 8).memOk = true ∧ (atAM.envOf 0x50 l 0 8).ordOk [0] = true ∧ atAM.lanesPass .scratch 2 4 (atAM.operandLanes l 0) ∧
      atAM.entryReady 0x51 (rule 0) l 8 ∧ wait.entryReady 0x51 (rule 0) l 8 ∧ (wait.envOf 0x50 l 0 8).memOk = true ∧
      atAM.scratchWaits (atAM.envOf 0x50 l 0 8).order 4 (atAM.operandLanes l 0) = false ∧
      wait.scratchWaits (wait.envOf 0x50 l 0 8).order 4 (wait.operandLanes l 0) = true) ∧
    (∀ s ∈ [atAM, held], s.entryReady 0x52 (rule 0x4000000) l 8 ∧ s.scratchWaits 0 4 (s.operandLanes l 0) = false ∧ (s.envOf 0x50 l 0 8).memOk = true ∧
      s.lanesPass .scratch 2 4 (s.operandLanes l 0)) ∧ (atAM.heldOnCore 0 < 64 ∧ 64 ≤ held.heldOnCore 0) ∧
    (privOk (atAM.envOf 0x65 pr 0 0) = true ∧ atAM.entryReady 0x65 { fmts := [0, 8], dsts := [1], aux := 0xFFFF } pr 0 ∧
      (∀ l ∈ atAM.privAddrs (atAM.envOf 0x65 pr 0 0) (atAM.active 0), 0 ≤ privWord (atAM.envOf 0x65 pr 0 0) l.lane ∧
        privWord (atAM.envOf 0x65 pr 0 0) l.lane < image0.privateWords) ∧
      atAM.lanesPass .global 0 4 (atAM.privAddrs (atAM.envOf 0x65 pr 0 0) (atAM.active 0)) ∧
      (atAM.repair.transLanes 0 none 0 .read (atAM.privAddrs (atAM.envOf 0x65 pr 0 0) (atAM.active 0))).isRight = true) ∧
    (atAM.entryReady 0x57 { aux := 0x5FBFFFF } pf 0 ∧ (atAM.envOf 0x57 pf 0 0).memOk = true ∧ (atAM.envOf 0x57 pf 0 0).ordOk [0] = true) := by
  simp only [State.entryReady, queuesReady_iff, lanesPass_iff]; decide +kernel

/-- A limit that the lanes pass, addresses at 2^51, misaligned addresses, and a scratchpad address past the footprint. -/
theorem witness_AccessLaneFaults :
    let rule : TRule := { fmts := [0, 1, 2, 8, 9, 10, 11, 26], dsts := [1], aux := 0x1FBFFFF }
    let with_ (lim : Nat) (g1 : W64) : State := atAM [] fun g => { g with g := [0, g1], tr := [{}, { limit := lim }] }
    let at_ (s : State) : List LaneAcc := s.operandLanes (tLd 8 1) 0
    let out (s : State) : List LaneAcc := (at_ s).filter fun l => !s.curGroup.inFrame 1 4 l.va
    let high (s : State) : List LaneAcc := (at_ s).filter fun l => decide (2 ^ 51 ≤ l.va)
    let odd (s : State) : List LaneAcc := (at_ s).filter fun l => l.va % 4 != 0
    (∀ s ∈ [with_ 16 0x30000, with_ 0 (2 ^ 51), with_ 0 0x30001, with_ 0 256], s.offers [.a] = true ∧ s.iw.resumed = false ∧
      (s.envOf 0x50 (tLd 8 1) 0 8).memOk = true ∧ (s.envOf 0x50 (tLd 8 1) 0 8).ordOk [0, 1] = true ∧ s.entryReady 0x50 rule (tLd 8 1) 8 ∧
      s.entryReady 0x51 rule (tLd 8 1) 8 ∧ s.scratchWaits (s.envOf 0x50 (tLd 8 1) 0 8).order 4 (at_ s) = false) ∧
    (out (with_ 16 0x30000) ≠ [] ∧ out (with_ 0 (2 ^ 51)) = [] ∧ high (with_ 0 (2 ^ 51)) ≠ [] ∧ out (with_ 0 0x30001) = [] ∧
      high (with_ 0 0x30001) = [] ∧ odd (with_ 0 0x30001) ≠ []) ∧
    (odd (with_ 0 256) = [] ∧ ((at_ (with_ 0 256)).filter fun l => decide (256 < l.va + 4)) ≠ []) ∧ (tLd 8 1).free ≠ 0 := by
  simp only [State.entryReady, queuesReady_iff]; decide +kernel

/-- Relaxed stores of a queue slot's lanes; an earlier store to the same bytes; a scratchpad store that waits, and one lane's `stf`. -/
theorem witness_StoreWords :
    let rule : TRule := { fmts := [0, 1, 2, 8, 9, 10, 11, 26], aux := 0x1FBFFFF }
    let full (f : Group → Group) : State := atAM [] fun g => f (g.modQueue 8 fun q => { q with slots := [{ mask := 1 }, {}] })
    let s := full id
    let acq : Outst := { seq := 0, kind := .load, instr := .ld (tLd 8 1 0x400000) 0, info := {}, lanes := [{ lane := 0, va := 0 }], order := 1, scope := 2 }
    let wait := full fun g => { g with outst := [acq] }
    let pr : Tpl := { tSt 0 0 with srcA := 0 }
    let rec_ (s : State) (i : Instr) (t : Tpl) (ls : List LaneAcc) : Outst :=
      { s.accRecord .store i t 8 (ls.filter fun l => (s.partLanes t 0).getLsbD l.lane) with data := (s.readSrc t.srcC t.imm).lanes }
    (∀ x ∈ [s, wait], x.offers [.a] = true ∧ x.midBody = true ∧ (x.envOf 0x54 (tSt 8 1) 0 8).memOk = true ∧
      (x.envOf 0x54 (tSt 8 1) 0 8).ordOk [0] = true ∧ x.entryReady 0x54 rule (tSt 8 1) 8 ∧ x.entryReady 0x55 rule (tSt 8 2) 8 ∧
      x.lanesPass .global 1 4 (x.operandLanes (tSt 8 1) 0) ∧ x.lanesPass .scratch 2 4 (x.operandLanes (tSt 8 2) 0) ∧
      laneTrans x (tSt 8 1) .write = true) ∧ storeData (tSt 8 1) = true ∧
    (rightIs (s.repair.transLanes 0 (some (.reg 0 0 1)) 0 .write (s.operandLanes (tSt 8 1) 0)) (fun r =>
      r.2.mayPerform 0 (rec_ s (.st (tSt 8 1) 0) (tSt 8 1) r.1) s.curGroup.outst && (r.1.all fun l => !l.home) &&
      memIs (r.2.perform 0 (rec_ s (.st (tSt 8 1) 0) (tSt 8 1) r.1)) fun _ _ => true) = true) ∧
    (rightIs (wait.repair.transLanes 0 (some (.reg 0 0 1)) 0 .write (wait.operandLanes (tSt 8 1) 0)) (fun r =>
      !r.2.mayPerform 0 (rec_ wait (.st (tSt 8 1) 0) (tSt 8 1) r.1) wait.curGroup.outst) = true) ∧
    (privOk (s.envOf 0x66 pr 0 0) = true ∧ s.entryReady 0x66 { fmts := [0, 8], aux := 0xFFFF } pr 0 ∧
      (∀ l ∈ s.privAddrs (s.envOf 0x66 pr 0 0) (s.active 0), 0 ≤ privWord (s.envOf 0x66 pr 0 0) l.lane ∧
        privWord (s.envOf 0x66 pr 0 0) l.lane < image0.privateWords) ∧
      s.lanesPass .global 0 4 (s.privAddrs (s.envOf 0x66 pr 0 0) (s.active 0)) ∧
      (s.repair.transLanes 0 none 0 .write (s.privAddrs (s.envOf 0x66 pr 0 0) (s.active 0))).isRight = true) ∧
    (s.scratchWaits (s.envOf 0x54 (tSt 8 2) 0 8).order 4 (s.operandLanes (tSt 8 2) 0) = false ∧
      wait.scratchWaits (wait.envOf 0x54 (tSt 8 2) 0 8).order 4 (wait.operandLanes (tSt 8 2) 0) = true) ∧
    (s.entryReady 0x56 rule (tSt 8 2) 8 ∧ ((s.operandLanes (tSt 8 2) 0).filter fun l => (s.partLanes (tSt 8 2) 0).getLsbD l.lane).length = 1 ∧
      s.curGroup.outst = [] ∧ ∀ g ∈ (s.team 0).groups, g.outst = []) := by
  simp only [State.entryReady, queuesReady_iff, lanesPass_iff]; decide +kernel

/-- Each atomic word with a result in queue 1 and without one; global and on the scratchpad, free, held back, and on bad bytes; 16,384
open accumulators of a die for an ordered float add. -/
theorem witness_VectorAtomicWords :
    let ld (q sc : Bool) (w : (Tpl → BitVec 4 → Instr) × Nat × Nat × Nat × (Bool → W32 → W32 → W32 → Option W32)) : Tpl :=
      { tLd (BitVec.ofNat 5 w.2.2.1) (if sc then 2 else 1) ((if q then 0x2000000 else 0) + (if sc then 0x40000 else 0)) with
        srcC := 0xC0, imm := 1 }
    let acq : Outst := { seq := 0, kind := .load, instr := .ld (tLd 8 1 0x400000) 0, info := {}, lanes := [{ lane := 0, va := 0x30000 }], order := 1, scope := 2 }
    let wait := atAM [] fun g => { g with outst := [acq] }
    let bad := { atAM with badStore := [(0, 0, .scratch 16)] }
    (∀ s ∈ [atAM, wait, bad], s.offers [.a] = true ∧ s.midBody = true) ∧
    (∀ w ∈ atomicOps, let t := ld true false w
      atAM.entryReady w.2.1 { fmts := [w.2.2.1], aux := 0x3FFFFFF + w.2.2.2.1 } t w.2.2.1 ∧ atomicOk w.2.1 t (atAM.envOf w.2.1 t 0 w.2.2.1) = true) ∧
    (∀ w ∈ atomicOps.take 1, ∀ q ∈ [true, false], ∀ sc ∈ [true, false], ∀ s ∈ [atAM, wait, bad], let t := ld q sc w
      s.entryReady w.2.1 { fmts := [w.2.2.1], aux := 0x3FFFFFF + w.2.2.2.1 } t w.2.2.1 ∧
      atomicOk w.2.1 t (s.envOf w.2.1 t 0 w.2.2.1) = true ∧ t.aux.getLsbD 18 = sc ∧ t.aux.getLsbD 25 = q) ∧
    (atAM.curGroup.outst = [] ∧
      bad.repair.badLanes 0 [{ lane := 0, va := 64 }] ≠ [] ∧ atAM.repair.badLanes 0 [{ lane := 0, va := 64 }] = []) := by
  simp only [State.entryReady, queuesReady_iff]; decide +kernel

/-- `aadd` without a result, that nothing holds and behind an acquire: of global memory and of the scratchpad. -/
theorem witness_VectorAtomicWords_held :
    let t : Tpl := { tLd 8 2 0x2040000 with srcC := 0xC0, imm := 1 }
    let m : Tpl := { tLd 8 1 0x2000000 with srcC := 0xC0, imm := 1 }
    let bad := { atAM with badStore := [(0, 0, .scratch 16)] }
    let acq : Outst := { seq := 0, kind := .load, instr := .ld (tLd 8 1 0x400000) 0, info := {}, lanes := [{ lane := 0, va := 0x30000 }], order := 1, scope := 2 }
    let wait := atAM [] fun g => { g with outst := [acq] }
    let o (s : State) : Outst := s.accRecord .atomic (.aadd t 0) t 8 ((s.operandLanes t 0).filter fun l => (s.partLanes t 0).getLsbD l.lane)
    let rec_ (ls : List LaneAcc) : Outst := { atAM.accRecord .atomic (.aadd m 0) m 8 ls with data := (atAM.readSrc m.srcC m.imm).lanes, dst := none }
    (atAM.scratchWaits (o atAM).order 4 (o atAM).lanes = false ∧ wait.scratchWaits (o wait).order 4 (o wait).lanes = true) ∧
    (atAM.lanesPass .global 1 4 (atAM.operandLanes m 0) ∧ atAM.lanesPass .scratch 2 4 (atAM.operandLanes t 0) ∧
      bad.lanesPass .scratch 2 4 (bad.operandLanes t 0)) ∧
    rightIs (atAM.repair.transLanes 0 (some (.reg 0 0 1)) 0 .atomic (atAM.operandLanes m 0)) (fun r =>
      r.2.accReady 0 (rec_ r.1) && r.2.mayPerform 0 (rec_ r.1) atAM.curGroup.outst && !r.2.mayPerform 0 (rec_ r.1) wait.curGroup.outst &&
      memIs (r.2.perform 0 (rec_ r.1)) fun _ _ => true) = true := by
  simp only [lanesPass_iff]; decide +kernel

theorem witness_VectorAtomicWords_full :
    let t : Tpl := { tLd 0 1 0x6000000 with srcC := 0xC0 }
    let s := { atAM [] fun g => { g with p := [0, 1] } with accums := List.replicate 16384 { pa := 0x40000, inst := 0, terms := [] } }
    s.offers [.a] = true ∧ s.midBody = true ∧ s.entryReady 0x61 { fmts := [0], aux := 0x3FFFFFF + 0x4000000 } t 0 ∧
    atomicOk 0x61 t (s.envOf 0x61 t 1 0) = true ∧ s.lanesPass .global 1 4 (s.operandLanes t 1) ∧
    rightIs (s.repair.transLanes 0 (some (.reg 0 0 1)) 0 .atomic (s.operandLanes t 1)) (fun r =>
      !r.2.accReady 0 (s.accRecord .atomic (.afadd t 1) t 0 r.1)) = true := by
  simp only [State.entryReady, queuesReady_iff, lanesPass_iff]; decide +kernel

/-! ## Witnesses: the M stream -/

/-- M with two tiles, ring 0 full and ring 1 half full, slots of 64 KiB. -/
def atMR (f : Team → Team := id) : State := atM fun t => f { t with
  tiles := List.replicate 2 [], rings := [some { slotBytes := 65536, count := 2, f := 2 }, some { slotBytes := 65536, count := 2, f := 1 }] }

/-- The room, cost and slots of a word's `mReady` that no barrier and no replay concerns. -/
def mSlots (s : State) (k : Nat) (claims : List Claim) (fill : Option Nat) (cost step : Nat) : Bool :=
  decide ((if isMCluster (clusterOf (s.arrayOf k)) then cost else step) ≤ s.preMcost) &&
  claims.all (fun c => match (s.team k).rings.getD c.ring none with | some r => decide (r.claimed + c.n ≤ r.visible) | none => false) &&
  (match fill with
    | some n => match (s.team k).rings.getD n none with | some r => decide (r.f + r.heldPop + r.resv < r.count) | none => false
    | none => true) &&
  s.mRoom (s.arrayOf k) cost && (match (s.team k).mctx.run with | some r => !r.loopEnds | none => true)

theorem mReady_of (s : State) (k : Nat) (w : MFields) (claims : List Claim) (fill : Option Nat) (cost step : Nat)
    (hw : w.waitEn = false) (hp : w.postEn = false) (h : mSlots s k claims fill cost step = true) :
    s.mReady k w claims fill cost step := by
  simp only [mSlots, Bool.and_eq_true, List.all_eq_true, decide_eq_true_eq] at h
  obtain ⟨⟨⟨⟨h3, h4⟩, h5⟩, h6⟩, h7⟩ := h
  refine ⟨fun h => ?_, fun h => ?_, fun h => ?_, fun h => ?_, ⟨fun c hc => ?_, fun n hn => ?_, h6⟩, fun r hr => ?_⟩
  · simp [State.mGone, hw] at h
  · simp [State.mMissing, hw, hp] at h
  · simp only [State.mOver] at h; omega
  · simp [hw] at h
  · have := h4 c hc
    split at this
    · next r e => exact ⟨r, e, by simpa using this⟩
    · simp at this
  · subst hn
    simp only at h5
    split at h5
    · next r e => exact ⟨r, e, by simpa using h5⟩
    · simp at h5
  · simpa [hr] using h7

def holdsB (tm : Team) (ring n bytes : Nat) : Bool :=
  match tm.rings.getD ring none with
  | some r => decide (n ≤ r.count) && decide (bytes ≤ r.slotBytes)
  | none => false

theorem holds_of (tm : Team) (ring n bytes : Nat) (h : holdsB tm ring n bytes = true) : tm.holds ring n bytes := by
  unfold holdsB at h
  split at h
  · next r e => simp only [Bool.and_eq_true, decide_eq_true_eq] at h; exact ⟨r, e, h.1, h.2⟩
  · simp at h

def wMma : MFields := { ringA := 0, ringB := 1, fmtA := 10, fmtB := 10, op := 1 }
def wReq : MFields := { ringA := 0, ringB := 1, fmtA := 8, fmtB := 10 }

/-- `mma` and `mmas` on int8 with one slot of each ring, and on tile 7; `mreq` from int32 to int8, and in a mode of code 5. -/
theorem witness_MatrixIssueWords :
    (atMR.offers [.m] = true ∧ atMR.midBody = true ∧ atMR.cur = .m 0) ∧
    ((atMR.team 0).mReads wMma false 10 10 ∧ wMma.op.toNat / 2 ^ 9 = 0 ∧ wMma.acc.toNat < (atMR.team 0).tiles.length) ∧
    ((∀ x ∈ [true, false], (atMR.team 0).holds 0 1 (blockBytes x 10)) ∧ (atMR.team 0).holds 1 1 (blockBytes false 10)) ∧
    (∀ d ∈ [1, 2], let block := max (classCycles 10) (classCycles 10) * 1 / d
      atMR.mReady 0 wMma [{ ring := 0, n := 1, keep := false }, { ring := 1, n := 1, keep := false }] none (1 * block) (block / 32)) ∧
    ¬({ wMma with acc := 7 } : MFields).acc.toNat < (atMR.team 0).tiles.length ∧
    ((atMR.team 0).mReads wReq false 8 10 ∧ (atMR.team 0).holds 0 1 (blockBytes false 8) ∧ (atMR.team 0).holds 1 1 (blockBytes false 10) ∧
      atMR.mReady 0 wReq [{ ring := 0, n := 1, keep := false }] (some 1) 64 64) ∧
    (({ wReq with op := 10 } : MFields).op.toNat / 2 % 8 = 5 ∧ (atMR.team 0).mReads { wReq with op := 10 } false 8 10) := by
  refine ⟨by decide +kernel, ⟨Or.inr (Or.inr (by decide +kernel)), by decide +kernel⟩, ⟨fun x hx => holds_of _ _ _ _ ?_, holds_of _ _ _ _ (by decide +kernel)⟩,
    fun d hd => mReady_of _ _ _ _ _ _ _ rfl rfl ?_, by decide +kernel, ⟨Or.inr (Or.inr (by decide +kernel)), holds_of _ _ _ _ (by decide +kernel),
    holds_of _ _ _ _ (by decide +kernel), mReady_of _ _ _ _ _ _ _ rfl rfl (by decide +kernel)⟩, by decide +kernel, Or.inr (Or.inr (by decide +kernel))⟩
  · revert x; decide +kernel
  · revert d; decide +kernel

/-- A core whose oldest operation is `o`. -/
def atRetire (o : MOp) : State := { (atMR.modCore 0 fun c => { c with mops := [o] }) with ev := { core := 0 } }

/-- Each operation at the head of a working array; a damaged tile; and both for a team that has been stopped. -/
theorem witness_MatrixRetirement :
    let op (i : Instr) : MOp := { team := 0, instr := i }
    let mm : MOp := { op (.mma wMma) with fmtA := 10, fmtB := 10, slotsA := [0], slotsB := [0] }
    let ld : MOp := { op (.mld { ringA := 0 }) with slotsA := [0] }
    let rq : MOp := { op (.mreq wReq) with fmtA := 8, fmtB := 10, slotsA := [0] }
    let bad := { atRetire mm with badStore := [(0, 0, .tile 0)] }
    let dead := (atRetire mm).modTeam 0 fun t => { t with status := .stopped }
    let deadBad := bad.modTeam 0 fun t => { t with status := .stopped }
    (∀ o ∈ [op (.mzero {}), mm, ld, { op (.mst {}) with fmtA := 10 }, rq], (atRetire o).ev.core = 0 ∧ ((atRetire o).core 0).mops = [o] ∧
      (atRetire o).arrayRuns 0 = true ∧ (atRetire o).opCause o = none) ∧
    (bad.arrayRuns 0 = true ∧ bad.opCause mm = some 0x144 ∧ (bad.team 0).status ≠ .stopped) ∧
    (dead.arrayRuns 0 = true ∧ dead.opCause mm = none ∧ (dead.team 0).status = .stopped ∧
      deadBad.arrayRuns 0 = true ∧ deadBad.opCause mm = some 0x144 ∧ (deadBad.team 0).status = .stopped) ∧ (mm.step = 0 ∧ mm.slotsA.length = mm.slotsB.length) ∧
    ((atMR.team 0).rings.getD 0 none = some { slotBytes := 65536, count := 2, f := 2 } ∧ 16384 ≤ 65536 ∧
      (atMR.team 0).rings.getD 1 none = some { slotBytes := 65536, count := 2, f := 1 }) := by decide +kernel

/-- A word that waits for nothing; an unaligned and a far offset; the head of a record; the end of an epilogue. -/
theorem witness_MatrixTileAndControlWords :
    let big := { atMR with insts := [{ st := .running, image := { image0 with scratchBytes := 65536 } }] }
    let st : MFields := { op := 0x50 }
    let fm : MFields := { fmtA := 10, fmtB := 9 }
    let run (r : RecRun) : State := atMR fun t => { t with mctx := { run := some r } }
    let lp : RecRun := { run2 with ker := [0, 0, 0] }
    let ep : RecRun := { run2 with st := .epilogue, epi := [0] }
    (∀ s ∈ [atMR, big, run lp, run ep], s.cur = .m 0 ∧ s.offers [.m] = true ∧ s.iw.resumed = false) ∧
    (atMR.midBody = true ∧ big.midBody = true ∧ (run lp).midBody = true ∧ (atMR.team 0).mctx.run = some run2) ∧
    (¬(7#3).toNat < (atMR.team 0).tiles.length ∧ (0#3).toNat < (atMR.team 0).tiles.length) ∧
    (∀ c ∈ [8, 32, 0], atMR.mReady 0 {} [] none c c) ∧
    ((atMR.team 0).holds 0 1 16384 ∧ atMR.mReady 0 {} [{ ring := 0, n := 1, keep := false }] none 32 32) ∧
    (st.op.toNat / 8 % 32 = 10 ∧ st.op.toNat / 2 ^ 13 = 0 ∧ st.op.toNat / 2 ^ 8 % 8 ≤ 4 ∧ (((atMR.team 0).lcReg 0).toNat) % 64 = 0 ∧
      image0.scratchBytes < 0 + 512 * elemBits 10 ∧ 0 + 512 * elemBits 10 ≤ (big.inst 0).image.scratchBytes ∧ big.mReady 0 st [] none 32 32 ∧
      (((atMR fun t => { t with lc := [4] }).team 0).lcReg 0).toNat % 64 ≠ 0) ∧
    ((atMR.team 0).mReads fm false 10 9 ∧ ({ op := 1 } : MFields).op.toNat = 1 ∧ atMR.mReady 0 fm [] none 0 0) ∧
    (1 ≤ 0x201 % 2 ^ 8 ∧ 1 ≤ 0x201 / 2 ^ 8 ∧ lp.pos + 1 + 1 ≤ lp.body.length ∧ (lp.body.drop 1).take 1 = [0] ∧
      (run lp).mReady 0 {} [] none 0 0) ∧
    (run2.pos = 0 ∧ run2.st = .kernel ∧ run2.pro = [] ∧ ep.st = .epilogue ∧ ep.pos + 1 = ep.epi.length ∧ run2.st ≠ .epilogue) := by
  refine ⟨by decide +kernel, by decide +kernel, by decide +kernel, fun c hc => mReady_of _ _ _ _ _ _ _ rfl rfl ?_,
    ⟨holds_of _ _ _ _ (by decide +kernel), mReady_of _ _ _ _ _ _ _ rfl rfl (by decide +kernel)⟩,
    ⟨by decide +kernel, by decide +kernel, by decide +kernel, by decide +kernel, by decide +kernel, by decide +kernel,
      mReady_of _ _ _ _ _ _ _ rfl rfl (by decide +kernel), by decide +kernel⟩,
    ⟨Or.inr (Or.inr (by decide +kernel)), by decide +kernel, mReady_of _ _ _ _ _ _ _ rfl rfl (by decide +kernel)⟩,
    ⟨by decide +kernel, by decide +kernel, by decide +kernel, by decide +kernel, mReady_of _ _ _ _ _ _ _ rfl rfl (by decide +kernel)⟩, by decide +kernel⟩
  revert c; decide +kernel

/-- Barrier 3 not initialised, in its recorded phase, past it with and without room in the queue, and invalidated. -/
theorem witness_MatrixBarrierWait :
    let w : MFields := { waitEn := true, waitB := 3 }
    let bar (ph : W16) (n : Nat) : State := (atMR.modCore 0 fun c => { c with mops := List.replicate n { team := 0, instr := .nop } }).setBarrier 0 3
      { count := 1, phase := ph, owner := 0 }
    let gone := atMR fun t => { t with barRecs := [{ ctx := .m 0, bar := 3, phase := 0, arrived := false, gone := true }] }
    (∀ s ∈ [atMR, bar 0 0, bar 1 0, bar 1 8, gone], s.cur = .m 0 ∧ s.offers [.m] = true ∧ s.midBody = true) ∧ w.waitEn = true ∧ w.postEn = false ∧
    (gone.barRec (.m 0) 3).map (·.gone) = some true ∧ (∀ s ∈ [atMR, bar 0 0, bar 1 0, bar 1 8], s.barRec (.m 0) 3 = none) ∧
    (atMR.barrier 0 3 = none ∧ (bar 0 0).barrier 0 3 = some { count := 1, phase := 0, owner := 0 } ∧
      (bar 1 0).barrier 0 3 = some { count := 1, phase := 1, owner := 0 } ∧ (bar 1 8).barrier 0 3 = some { count := 1, phase := 1, owner := 0 }) ∧
    ((bar 1 0).mRoom ((bar 1 0).arrayOf 0) 0 = true ∧ (bar 1 8).mRoom ((bar 1 8).arrayOf 0) 0 = false ∧
      ((bar 1 0).team 0).mctx.run = some run2 ∧ run2.loopEnds = false) := by decide +kernel

/-! ## Witnesses: submission, releases, deadlines, time -/

/-- A write to SUBMIT of page 0 in each case: full page, OP 2, unknown job, accepted job, submit, withdraw. -/
def atSubmit (d : W64) (n : Nat) (j : JobSlot := {}) : State :=
  { State.reset with
    ev := { off := 0, data := d }, lodge.bootStep := 5, lodge.jobCount := 4, jobs := [j],
    pages := [{ results := List.replicate n { seq := 0, code := 0, op := 0, job := 0 } }] }

def submitW (d : W64) : RegWrite := { off := 0, data := d, bytes := 4 }

theorem submit_write (d : W64) (n : Nat) (j : JobSlot) : (atSubmit d n j).regWrite = some (submitW d, atSubmit d n j) := rfl

theorem submit_rows :
    (∀ d ∈ ([0, 0x80000000, 5] : List Nat), ∀ n ∈ [0, 15, 16], (atSubmit (BitVec.ofNat 64 d) n).rowOf (submitW (BitVec.ofNat 64 d)) = .submit) ∧
    ((atSubmit 0 0 { accepted := true }).rowOf (submitW 0) = .submit ∧
      ∀ a ∈ [true, false], (atSubmit 0x40000000 0 { accepted := a }).rowOf (submitW 0x40000000) = .withdraw) ∧
    ((submitW 0).bits.toNat % 2 ^ 32 / 2 ^ 30 = 0 ∧ (submitW 0x80000000).bits.toNat % 2 ^ 32 / 2 ^ 30 = 2 ∧
      (submitW 0x40000000).bits.toNat % 2 ^ 32 / 2 ^ 30 = 1 ∧ (submitW 5).bits.toNat % 2 ^ 13 = 5) := by decide +kernel

theorem witness_SubmitWrites :
    (∀ d ∈ ([0, 0x80000000, 5] : List Nat), ∀ n ∈ [0, 15, 16], let s := atSubmit (BitVec.ofNat 64 d) n
      s.regWrite = some (submitW (BitVec.ofNat 64 d), s) ∧ s.rowOf (submitW (BitVec.ofNat 64 d)) = .submit) ∧
    (∀ a ∈ [true, false], let s := atSubmit 0x40000000 0 { accepted := a }
      s.regWrite = some (submitW 0x40000000, s) ∧ s.rowOf (submitW 0x40000000) = .withdraw) :=
  ⟨fun d hd n hn => ⟨submit_write _ n {}, submit_rows.1 d hd n hn⟩, fun a ha => ⟨submit_write _ _ _, submit_rows.2.1.2 a ha⟩⟩

/-- A page whose submit is being checked, with a write that waits, and the same page once the check has ended. -/
theorem witness_SubmitWrites_waiting :
    let q : SubResult := { seq := 0, code := 0, op := 0, job := 0 }
    let s (l : List SubResult) : State := { atSubmit 5 0 with pages := [{ prep := l, queue := [5] }] }
    (s [q]).regWrite = some (submitW 5, s [q]) ∧ (s [q]).rowOf (submitW 5) = .submit ∧
    ((∃ x ∈ ((s [q]).page 0).prep, x.op = 0) ∧ ((s [q]).page 0).queue = [5]) ∧
    (∀ x ∈ ((s []).page 0).prep, x.op ≠ 0) ∧ ((s []).page 0).queue = [5] ∧
    ((atSubmit 5 0).page 0).queue = [] ∧ ∀ x ∈ ((atSubmit 5 0).page 0).prep, x.op ≠ 0 := by
  refine ⟨rfl, by decide +kernel, by decide +kernel, by decide +kernel, by decide +kernel, by decide +kernel, by decide +kernel⟩

theorem witness_WithdrawEnds :
    let s (l : List Inst) : State := { State.reset with jobs := [{ accepted := true, withdrawing := some (0, 1) }], insts := l }
    ((s []).job 0).withdrawing = some (0, 1) ∧ ((s [{}]).job 0).withdrawing = some (0, 1) ∧
    (∃ x ∈ (s [{}]).insts, x.job = 0 ∧ x.st ≠ .done ∧ x.st ≠ .failed) ∧
    ¬∃ x ∈ (s [{ st := .failed }]).insts, x.job = 0 ∧ x.st ≠ .done ∧ x.st ≠ .failed := by decide +kernel

theorem witness_RegisterReads : ({ State.reset with lodge.bootStep := 5 } : State).lodge.bootStep = 5 := rfl

/-- A periodic card and a one-shot card that pass every check; a wrong magic; a card whose read fails; a partition that is not valid;
an accepted job. -/
theorem witness_CardAcceptance :
    let lost := { atCard [] with bad := [{ pa := 0x40000, cause := 0x140 }] }
    (∀ s ∈ [atCard periodic, atCard oneShot, lost, atCard []],
      ((s.page s.ev.page.toNat).prep.find? (fun x => x.seq == s.ev.seq && x.op == 0)).isSome = true ∧
      (s.job 0).accepted = false ∧ (s.part 0).valid = true) ∧
    (∀ bs ∈ [periodic, oneShot], (atCard bs).cardBytes 0 = .inr bs ∧ ((atCard bs).checkCard 0 bs).code = 0) ∧
    ((atCard []).checkCard 0 []).code = 1 ∧ lost.cardBytes 0 = .inl 0x140 ∧
    (({ lost with parts := [] } : State).part 0).valid = false ∧ (({ lost with jobs := [{ accepted := true }] } : State).job 0).accepted = true := by
  decide +kernel

/-- Job 0, periodic, with a release due at 0, and live instances of it. -/
def atRelease (l : List Inst) : State :=
  { State.reset with jobs := [{ accepted := true, card := { flags := 6, periodNs := 10000, deadlineNs := 5000 } }], insts := l }

theorem witness_ReleaseEvent :
    (∀ l ∈ [[], [{}, {}]], (atRelease l).dueRelease (atRelease l).ev.job = some 0 ∧
      ∀ k < (atRelease l).jobs.length, ∀ b ∈ (atRelease l).dueRelease k, k = (atRelease l).ev.job ∨ 0 < b) ∧
    ((atRelease []).liveOf 0).length < 2 ∧ 2 ≤ ((atRelease [{}, {}]).liveOf 0).length ∧ (atRelease []).liveOf 0 = [] := by decide +kernel

theorem witness_InstanceReadyEvent : let s := { State.reset with insts := [{ card := { clusterMask := 1 } }] }
    s.ev.inst < s.insts.length ∧ (s.inst s.ev.inst).live = true ∧ bitsOf (s.inst s.ev.inst).card.clusterMask s.ev.cluster 1 = 1 ∧
    s.ev.cluster ∉ (s.inst s.ev.inst).readyAt := by decide +kernel

/-- An instance 200 ns past its deadline, with and without a report by Bandstand's time unit; a report not due; reports within and above
a budget of 2 ns, which is 3 cycles, at and before the deadline, and of a failed instance with a fallback team. -/
theorem witness_DeadlineAndBudget :
    let ch (n age : Nat) : Charge := { inst := 0, cycles := n, age := age }
    let s (now n : Nat) (f : Inst → Inst := id) (age : Nat := 512) : State :=
      { State.reset with now := now, insts := [f { card := { budgetNs := 2 } }], clusters := [{ charge := [ch n age] }] }
    let lost : State := { s 200 3 with lodge.ltuBad := [.bandstand] }
    let fb := s 200 4 fun x => { x with st := .failed, fallbackTeam := some 0 }
    (∀ x ∈ [s 200 3, lost], x.ev.inst < x.insts.length ∧ (x.inst 0).deadline + 200 ≤ x.now ∧ (x.inst 0).missed = false ∧
      (x.inst 0).live = true ∧ (x.inst 0).stamp = none) ∧
    (UnitId.bandstand ∉ (s 200 3).lodge.ltuBad ∧ UnitId.bandstand ∈ lost.lodge.ltuBad) ∧
    (∀ e ∈ ((s 0 4 id 511).cluster 0).charge, e.inst = 0 → e.left = false ∧ e.age < 512) ∧
    (∀ x ∈ [s 200 3, s 200 4, s 199 4, fb], x.ev.inst < x.insts.length ∧
      ((x.cluster x.ev.cluster).charge.find? fun e => e.inst == x.ev.inst && (e.left || decide (512 ≤ e.age))).isSome = true ∧
      (x.inst 0).card.budgetNs = 2 ∧ (x.inst 0).reported = 0 ∧ (x.inst 0).overBudget = false) ∧ (¬2 * 3 / 2 < 0 + 3 ∧ 2 * 3 / 2 < 0 + 4) ∧
    ((s 200 4).deadlineDue 0 = true ∧ (s 199 4).deadlineDue 0 = false ∧ ((s 199 4).inst 0).st ≠ .failed) ∧
    (fb.deadlineDue 0 = false ∧ (fb.inst 0).st = .failed ∧ (fb.inst 0).fallbackTeam = some 0) := by decide +kernel

/-- An instance HELD, DONE, RETIRING, and running under EVENT, HANDLER, STOP and ESCALATE, with and without a team that holds a slot; causes
below, at and above one that is pending; HANDLER without a team. -/
theorem witness_InstanceCauses :
    let s (d : Nat) (st : InstState) : State := { base with insts := [{ st := st, image := image0, card := { disposition := d * 2 ^ 32 } }] }
    let off (d : Nat) : State := (s d .running).modTeam 0 fun t => { t with status := .suspended, bank := 1 }
    let none_ : State := { s 1 .running with teams := [] }
    let pend (c : Cause) : State := (s 0 .running).modInst 0 fun x => { x with pendingCause := some (instRaise c 0) }
    (((s 0 .held).inst 0).st = .held ∧ ((s 0 .done).inst 0).st = .done ∧ ((s 0 .running).inst 0).live = true) ∧
    (((s 0 .retiring).inst 0).st = .retiring ∧ ((s 0 .retiring).inst 0).card.nibble 0x200 ≠ 4) ∧
    (∀ d ∈ [0, 1, 4, 5], ((s d .running).inst 0).card.nibble 0x200 = d ∧ ((off d).inst 0).live = true) ∧
    ((s 0 .running).instTeams 0 = [0] ∧ (s 0 .running).holdsSlot 0 = true ∧ (off 0).instTeams 0 = [0] ∧ (off 0).holdsSlot 0 = false ∧
      ((s 0 .running).inst 0).pendingCause = none) ∧
    (none_.instTeams 0 = [] ∧ (none_.inst 0).unplaced = false) ∧
    (∀ c ∈ ([0x200, 0x201] : List Cause), ((pend c).inst 0).pendingCause = some (instRaise c 0) ∧ (pend c).holdsSlot 0 = true) := by
  decide +kernel

/-- A held instance; instances to be signalled to the host, masked and not, and to application cores. -/
theorem witness_EscalationAndSignal :
    let h : State := { State.reset with insts := [{ st := .held, heldCause := some { cause := 0x145 } }] }
    let s (host : Bool) (ctl : W32) : State := { State.reset with
      hostMode := host, lodge.msix := [{ ctl := ctl }], insts := [{ card := { flags := 64 }, posted := true }] }
    (h.inst h.ev.inst).heldCause = some { cause := 0x145 } ∧ (h.inst h.ev.inst).live = true ∧
    (∀ x ∈ [s true 0, s false 0, s false 1], (x.inst 0).card.flag 6 = true ∧ (x.inst 0).posted = true ∧ (x.inst 0).signalled = false) ∧
    (s true 0).hostMode = true ∧ (s false 0).msixMasked 0 = false ∧ (s false 1).msixMasked 0 = true ∧ 0 ∉ (s false 1).lodge.msixPend := by
  decide +kernel

theorem witness_TimeEvents :
    let s (c : Int) (n : Nat) : State := { atRelease [] with ev := { offset := n, correction := c } }
    (s 0 8).ev.offset ≤ 8 ∧ 8 < (s 0 9).ev.offset ∧ (s 1000 0).ev.correction ≤ 1000 ∧ 1000 < (s 1001 0).ev.correction ∧
    0 < (s 1001 0).jobs.length ∧ ({ s 1001 0 with now := 1001 } : State).dueRelease 0 ≠ none := by decide +kernel

/-! ## Witnesses: pre-emption, migration, swap -/

/-- Team 0 in a status, with a signal. -/
def atTeam (st : TeamStatus) (sig : SignalKind := .none) (f : Team → Team := id) : State :=
  atC fun t => f { t with status := st, sent := sig, signal := sig }

theorem witness_PreemptionMoves :
    let s := atC fun t => { t with sent := .preempt }
    let paused (s : State) : State := let v := ((s.stashOps 0 s.ev.n).endPull 0).serveTeam 0
      { v with cores := v.cores.map (pauseChans 0) }
    let ok (s : State) : Prop := (s.team s.ev.team).status = .parked ∧ (s.team s.ev.team).drained = true ∧ s.hasOps s.ev.team = false
    let go := atTeam .parked .migrate fun t => { t with target := 1 }
    let full := { go with teams := go.teams ++ List.replicate 4 ({ status := .running, core := 1 } : Team) }
    ((s.team s.ev.team).status = .running ∧ (s.team s.ev.team).sent ≠ .none ∧ (s.team s.ev.team).signal = .none) ∧
    (ok (atTeam .parked .swap) ∧ ((paused (atTeam .parked .swap)).team 0).signal = .swap) ∧
    (ok go ∧ ((paused go).team 0).signal = .migrate ∧ (paused go).canTake 0 1 = true) ∧
    (ok full ∧ ((paused full).team 0).signal = .migrate ∧ (paused full).canTake 0 1 = false) ∧
    (ok (atTeam .parked .preempt) ∧ ((paused (atTeam .parked .preempt)).team 0).signal = .preempt) ∧
    (((atTeam .toBank).team (atTeam .toBank).ev.team).status = .toBank ∧ ((atTeam .toShadow).team 0).status = .toShadow ∧
      ((atTeam .resuming).team 0).status = .resuming) := by decide +kernel

/-- A signalled team whose C stream is at a checkpoint, and the same with an A record under way. -/
theorem witness_ParkingCondition :
    let s (x : CtxState) : State := atTeam .running .preempt fun t => { t with ctrl.atCheckpoint := true, groups := [{ actx := x }] }
    let stopped (c : CtxState) : Bool := c.parked || c.stopped || c.run.all fun r => r.st == .retired || r.st == .aborted || r.st == .parked
    (let g : Group := { actx := { run := some run2, parked := true }, xctx := { run := some run2 } }
     g.actx.parked = true ∧ stopped g.xctx = false) ∧
    (∀ x ∈ [({} : CtxState), { run := some { run2 with st := .parked } }, { run := some run2 }],
      ((s x).team 0).status = .running ∧ ((s x).team 0).signal ≠ .none ∧ ((s x).team 0).ctrl.atCheckpoint = true ∧
      stopped ((s x).team 0).mctx = true ∧ ∀ g ∈ ((s x).team 0).groups, stopped g.xctx = true) ∧
    stopped {} = true ∧ stopped { run := some { run2 with st := .parked } } = true ∧ stopped { run := some run2 } = false := by decide +kernel

/-- A team on its way to core 1, which can take it or is full; forwarding entries that end, stay, and are counted. -/
theorem witness_MigrationEvents :
    let go := atTeam .migrating .migrate fun t => { t with target := 1 }
    let full := { go with teams := go.teams ++ List.replicate 4 ({ status := .running, core := 1 } : Team) }
    let f : Forward := { team := 0, core := 0, dest := 1, resumed := some 0 }
    let o (moved : Bool) : Outst := { seq := 0, kind := .load, instr := .nop, info := {}, lanes := [], moved := moved }
    let held (moved : Bool) : State := atTeam .running .none fun t => { t with groups := [{ outst := [o moved] }] }
    let s (moved ext : Bool) : State := { held moved with now := 8000, lodge.forwards := [({ f with extended := ext } : Forward)] }
    let find (s : State) : Option Forward := s.lodge.forwards.find? fun g =>
      g.team == s.ev.team && (!(s.team s.ev.team).status.live || g.resumed.any fun r => decide (r + 8000 ≤ s.now))
    ((go.team go.ev.team).status = .migrating ∧ go.canTake 0 1 = true ∧ (full.team full.ev.team).status = .migrating ∧
      full.canTake 0 1 = false) ∧
    (find (s false false) = some f ∧ (s false false).movedPending 0 = false) ∧
    (find (s true true) = some ({ f with extended := true } : Forward) ∧ (s true true).movedPending 0 = true) ∧
    (find (s true false) = some f ∧ (s true false).movedPending 0 = true ∧ (s true false).lodge.migFwdExt = BitVec.ofNat 32 0) := by
  decide +kernel

/-- 64 cycles without an issued word, a parked fault in the active bank, and a team without one in the other, or one to place. -/
theorem witness_FaultBankSwitch :
    let par : Team := { status := .running, groups := [{}], ctrl.parked := true }
    let s (sw : Bool) (ts : List Team) : State := { base with teams := ts, cores := [{ switching := sw, idle := 64 }] }
    let two := s false [par, { status := .suspended, bank := 1, groups := [{}] }]
    let kid := { s false [par, { status := .waiting, launchIdx := 3, parent := some 0, groups := [{}] }] with
      insts := [{ st := .running, readyAt := [0], card := { clusterMask := 1, groups := 1 } }] }
    (∀ x ∈ [two, kid], (x.core x.ev.core).switching = false ∧ 64 ≤ (x.core x.ev.core).idle ∧
      (∀ t ∈ x.residents x.ev.core, (x.team t).status ≠ .resuming) ∧
      (∃ t ∈ x.bankTeams x.ev.core (x.core x.ev.core).active, (x.team t).status = .running ∧ x.faultParked t = true)) ∧
    (∃ t ∈ two.bankTeams 0 (1 - (two.core 0).active), two.faultParked t = false) ∧
    (kid.bankTeams 0 (1 - (kid.core 0).active) = [] ∧ kid.agentHasTeam 0 = true) ∧
    (((s true [par]).core (s true [par]).ev.core).switching = true ∧ (s true [par]).bankDrained 0 = true) := by decide +kernel

/-- Writes of PART_SWAP with OP 1 and 2; a partition whose teams are all spilled, and one that swaps in. -/
theorem witness_SwapEvents :
    let s (d : W64) (st : Nat) : State := { State.reset with
      ev := { off := 0x10B48, data := d, wide := true }, lodge.bootStep := 5, parts := [{ swapState := st }] }
    let w (d : W64) : RegWrite := { off := 0x10B48, data := d, bytes := 8 }
    let out : State := { atTeam .spilled with parts := [{ swapState := 1 }] }
    (((s 1 0).regWrite = some (w 1, s 1 0)) ∧ ((s 2 2).regWrite = some (w 2, s 2 2))) ∧ (s 1 0).rowOf (w 1) = .swapOut ∧ (s 2 2).rowOf (w 2) = .swapIn ∧
    ((out.part out.ev.part).swapState = 1 ∧ ∀ t ∈ out.partTeams out.ev.part, (out.team t).status = .spilled) ∧
    ((s 2 3).part (s 2 3).ev.part).swapState = 3 := ⟨⟨rfl, rfl⟩, by decide +kernel⟩

/-! ## Witnesses: copy channels -/

/-- Channel 0 of core 0 owned by team 0, and a second channel. -/
def atChan (h : Chan) (o : Chan := {}) (f : Team → Team := id) : State :=
  { atC f with cores := [{ chans := [{ h with owner := some 0 }, o] }] }

/-- A one-row COPY of 16 bytes from 0x28000 to 0x60000; to the footprint; to ring 0; with TRANS; from 128 MiB; a window over its source. -/
def cpyMem : CopyCmd := { addr := 0x50000, src := 0x28000, dst := 0x60000, shape := 0x10010 }
def cpySp : CopyCmd := { cpyMem with dst := 0, ctl := 0x400 }
def cpyRing : CopyCmd := { cpyMem with dst := 0, ctl := 0x800 }
def cpyTrans : CopyCmd := { cpyMem with src := 0x28000 + 2 ^ 58 }
def cpyBad : CopyCmd := { cpyMem with src := 0x8000000 }
def cpyBadTo : CopyCmd := { cpyMem with dst := 0x8000000 }
def win0 : Chan := { armed := true, wmBase := 0x28000, wmLen := 0x1000 }

/-- A fetch of a zero command (MALFORMED) and one that fails. -/
theorem witness_CopyFetchEvent :
    let s (a : Nat) : State := atChan { st := .running, fetch := a }
    (∀ a ∈ [0x50000, 0x8000000], let h := ((s a).core 0).chan 0
      h.st = .running ∧ h.cmd = none ∧ h.ending = false ∧ h.owner = some 0 ∧ (s a).heldByOther ((s a).pidOf 0) h.fetch 32 0 0 = none) ∧
    (∃ e, (s 0x8000000).engRead 0 0 0x8000000 32 = .inl e) ∧ rightIs ((s 0x50000).engRead 0 0 0x50000 32) (fun bs =>
      (parseCopy 0x50000 bs).bad {} {} 256) = true ∧ cpyMem.bad {} {} 256 = false := by
  refine ⟨by decide +kernel, ⟨_, rfl⟩, by decide +kernel⟩

/-- A fetch that a window of another channel holds, and one whose window was withdrawn. -/
theorem witness_CopyFetchEvent_held :
    let held : State := atChan { st := .running, fetch := 0x28000 } win0
    let lost : State := atChan { st := .running, fetch := 0x50000, withdrawn := true }
    (held.heldByOther (held.pidOf 0) 0x28000 32 0 0 = some (0, 1) ∧ ((held.core 0).chan 0).withdrawn = false) ∧
    (∀ s ∈ [held, lost], let h := (s.core 0).chan 0
      h.st = .running ∧ h.cmd = none ∧ h.ending = false ∧ h.owner = some 0) ∧ ((lost.core 0).chan 0).withdrawn = true := by decide +kernel

/-- Two ready channels after channel 0 was served last, and one of them within a row. -/
theorem witness_CopyRotation :
    let h (p : Nat) : Chan := { st := .running, cmd := some cpyMem, owner := some 0, pos := p }
    let s (p : Nat) : State := { atC with cores := [{ lastChan := 0, chans := [h p, h 0] }] }
    let place (s : State) (c : Nat) : Nat := (c + 8 - ((s.core 0).lastChan + 1) % 8) % 8
    (∀ p ∈ [0, 8], ∀ c ∈ [0, 1], (s p).copyReady 0 c = true ∧ ((s p).core 0).chan c = h (if c = 0 then p else 0)) ∧
    (∀ c < 8, (s 0).copyReady 0 c = true → ((s 0).core 0).chan c = h 0 ∧ place (s 0) 1 ≤ place (s 0) c) ∧
    (∀ c < 8, (s 8).copyReady 0 c = true → (((s 8).core 0).chan c).pos ≠ 0 → 0 ≤ c) ∧ (((s 8).core 0).chan 0).pos ≠ 0 ∧
    ((s 0).copyPick 0 = some 1 ∧ (s 8).copyPick 0 = some 0) := by decide +kernel

theorem witness_CopyEvent :
    let ring (n : Nat) (t : Team) : Team := { t with rings := [some { slotBytes := 128, count := 2, f := n }] }
    let s (c : CopyCmd) (o : Chan := {}) (n : Nat := 0) (w : Bool := false) : State :=
      atChan { st := .running, cmd := some c, withdrawn := w } o (ring n)
    let res (s : State) (c : CopyCmd) : Option State := s.copyReserve 0 0 0 ((s.core 0).chan 0) c
    let start (s : State) (c : CopyCmd) : State := (res s c).getD s
    (∀ c ∈ [cpyMem, cpySp, cpyRing, cpyTrans, cpyBad, cpyBadTo], let h := ((s c).core 0).chan 0
      h.cmd = some c ∧ h.owner = some 0 ∧ h.st = .running ∧ c.op = 0 ∧ h.written = false ∧ h.ending = false ∧ h.withdrawn = false ∧
      (res (s c) c).isSome = true ∧ (start (s c) c).copyHeld 0 0 0 0 0 c = none ∧ ((s c).copyReady 0 0 = true → (s c).copyPick 0 = some 0)) ∧
    (res (s cpyRing {} 2) cpyRing = none) ∧ ((s cpyMem {} 0 true).core 0).chan 0 = { st := .running, cmd := some cpyMem, withdrawn := true, owner := some 0 } ∧
    (s cpyMem win0).copyHeld 0 0 0 0 0 cpyMem = some (0, 1) ∧
    (cpyMem.trans = false ∧ cpyTrans.trans = true) ∧
    (rightIs ((s cpyMem).copySource 0 cpyMem 0 0 16) (fun bs =>
      rightIs ((s cpyMem).copyPut 0 cpyMem 0 0 0 (cpyMem.stages bs)) fun _ => true) = true) ∧
    (rightIs ((s cpyBad).copySource 0 cpyBad 0 0 16) (fun _ => true) = false) ∧
    (rightIs ((s cpyBadTo).copyPut 0 cpyBadTo 0 0 0 []) (fun _ => true) = true) ∧
    (rightIs ((s cpyBadTo).copyPut 0 cpyBadTo 0 0 0 [0]) (fun _ => true) = false) ∧
    (rightIs ((s cpyTrans).copyRows 0 cpyTrans 1 0) (fun r =>
      rightIs ((s cpyTrans).copyPutRows 0 cpyTrans 0 r 4 0) fun _ => true) = true) := by decide +kernel

theorem witness_CopyControlEvents :
    let c (op : Nat) (src dst : Nat := 0x28000) (shape : Nat := 0) : CopyCmd := { addr := 0x50000, ctl := op, src := src, dst := dst, shape := shape }
    let s (c : CopyCmd) (next : Option Nat := none) : State := atChan { st := .running, cmd := some c, next := next }
    (∀ x ∈ [c 1, c 1 0x8000000, c 1 0x60000 0, c 1 0x60000 1, c 2, c 3, c 4 0 0, c 5 0x28000 0 0, c 5 0x28000 0 128], let h := ((s x).core 0).chan 0
      h.cmd = some x ∧ h.owner = some 0 ∧ h.st = .running ∧ h.written = false ∧ h.ending = false ∧ h.withdrawn = false ∧
      (s x).heldByOther ((s x).pidOf 0) x.srcAddr 8 0 0 = none) ∧
    ((c 1).op = 1 ∧ (c 2).op = 2 ∧ (c 3).op = 3 ∧ (c 4 0 0).op = 4 ∧ (c 5 0x28000 0 128).op = 5 ∧ (c 5 0x28000 0 128).shape ≠ 0) ∧
    (rightIs ((s (c 1 0x60000 0)).engRead 0 0 0x60000 8) (fun bs => decide (0 ≤ natOfBytes bs ∧ natOfBytes bs < 1)) = true ∧
      rightIs ((s (c 1 0x8000000)).engRead 0 0 0x8000000 8) (fun _ => true) = false) ∧
    (rightIs ((s (c 2)).engTranslate 0 0x28000 .atomic) (fun pa => (s (c 2)).homeFail pa = none) = true ∧
      rightIs ((s (c 2)).counterAdd 0 0 0x28000 1) (fun _ => true) = true) ∧
    ((((s (c 4 0 0)).core 0).chan 0).next = none ∧ (((s (c 4 0 0) (some 0x50000)).core 0).chan 0).next = some 0x50000) := by decide +kernel

/-- A WAIT, a POST and a STOP that a window of another channel holds or whose window was withdrawn; a STOP whose STATUS is not mapped. -/
theorem witness_CopyControlEvents_held :
    let c (op : Nat) (addr : Nat := 0x50000) : CopyCmd := { addr := addr, ctl := op, src := 0x28000 }
    let s (c : CopyCmd) (w : Bool) (o : Chan := {}) : State := atChan { st := .running, cmd := some c, withdrawn := w } o
    let win : Chan := { win0 with wmBase := 0x50000 }
    (∀ op ∈ [1, 2, 4], (c op).op = op ∧ ((s (c op) true).core 0).chan 0 = { st := .running, cmd := some (c op), withdrawn := true, owner := some 0 }) ∧
    (∀ op ∈ [1, 2], (s (c op) false win0).heldByOther 0 (c op).srcAddr 8 0 0 = some (0, 1)) ∧
    ((s (c 4) false win).statusHeld 0 0 0 0x50000 = some (0, 1)) ∧
    ((s (c 4) false).statusHeld 0 0 0 0x50000 = none ∧ (s (c 4) false).statusErr 0 0x50000 = none) ∧
    ((s (c 4 0x8000000) false).statusHeld 0 0 0 0x8000000 = none ∧ ((s (c 4 0x8000000) false).statusErr 0 0x8000000).isSome = true) ∧
    (∀ op ∈ [1, 2, 4], (((s (c op) false win0).core 0).chan 0).withdrawn = false) := by decide +kernel

/-- Commands that wait for STATUS, ending or complete; one whose STATUS is not mapped. -/
theorem witness_CopyCompletion_held :
    let s (a : Nat) (e : Bool) (o : Chan := {}) (w : Bool := false) : State :=
      atChan { st := .running, cmd := some { cpyMem with addr := a }, ending := e, written := true, withdrawn := w } o
    let win : Chan := { win0 with wmBase := 0x50000 }
    (∀ e ∈ [true, false], (s 0x50000 e win).statusHeld 0 0 0 0x50000 = some (0, 1) ∧ (s 0x50000 e).statusHeld 0 0 0 0x50000 = none ∧
      (s 0x50000 e).statusErr 0 0x50000 = none) ∧
    ((s 0x8000000 false).statusHeld 0 0 0 0x8000000 = none ∧ ((s 0x8000000 false).statusErr 0 0x8000000).isSome = true) ∧
    (((s 0x50000 false {} true).core 0).chan 0).withdrawn = true := by decide +kernel

theorem witness_CopyCompletion :
    let ch (c : CopyCmd) (e w : Bool) : Chan := { st := .running, cmd := some c, owner := some 0, ending := e, written := w, ringSlot := if c.ring then some 0 else none }
    let s (c : CopyCmd) (e w : Bool) (bs : List (Option Barrier) := []) : State := { atC with cores := [{ barriers := bs, chans := [ch c e w] }] }
    let arr : CopyCmd := { cpyMem with dst := 0x60000 + 2 ^ 56 }
    let post : CopyCmd := { addr := 0x50000, ctl := 2 }
    (∀ x ∈ [s cpyMem true false, s cpyMem false true, s cpyRing false true, s arr false true, s arr false true [some { count := 1, owner := 0 }],
        s post false true], ((x.core 0).chan 0).cmd.isSome = true ∧ ((x.core 0).chan 0).owner = some 0 ∧ ((x.core 0).chan 0).st = .running ∧
        (((x.core 0).chan 0).ending = true ∨ ((x.core 0).chan 0).written = true)) ∧
    (post.op ≠ 0 ∧ cpyMem.op = 0 ∧ arr.op = 0 ∧ bitsOf cpyMem.dst 56 1 = 0 ∧ bitsOf arr.dst 56 1 = 1) ∧
    (((s arr false true).copyRelease 0 (((s arr false true).core 0).chan 0) arr).barrier 0 0 = none) ∧
    (((s arr false true [some { count := 1, owner := 0 }]).copyRelease 0 {} arr).barrier 0 0 = some { count := 1, owner := 0 }) := by decide +kernel

/-! ## Witnesses: ingress, memory controllers, page moves, fault service, translations -/

/-- A frame of port 3, data type 1: no channel takes it; the first takes it with a free buffer, with none, and with 64 KiB of requests of
its port held. -/
theorem witness_IngressFrameEvent :
    let ing (n : Nat) : Ingress := { src := 0x80400003, buf := BitVec.ofNat 64 (n * 2 ^ 48), len := 128 }
    let s (l : List Ingress) (f : Nat := 0) : State := { State.reset with
      ev := { frame := { port := 3, dataType := 1 } }, lodge.ingress := l,
      lodge.ctls := [{ held := List.replicate f { reg := 0, pa := 0, port := some 3 } }] }
    let held (s : State) : Nat := (s.lodge.ctls.map fun c => (c.held.filter (·.port == some 3)).length).sum
    (∀ n < 32, ((s []).ing n).takes (s []).ev.frame = false) ∧
    (∀ x ∈ [s [ing 1], s [ing 0], s [ing 1] 2048], (x.ing 0).takes x.ev.frame = true) ∧
    (BitVec.ofNat 32 ((s [ing 1]).ing 0).frames - ((s [ing 1]).ing 0).rel).toNat < bitsOf ((s [ing 1]).ing 0).buf.toNat 48 10 ∧
    ¬(BitVec.ofNat 32 ((s [ing 0]).ing 0).frames - ((s [ing 0]).ing 0).rel).toNat < bitsOf ((s [ing 0]).ing 0).buf.toNat 48 10 ∧
    32 * held (s [ing 1]) < 65536 ∧ ¬32 * held (s [ing 1] 2048) < 65536 := by decide +kernel

/-- A request within the share of regulator 0, one past it, one past it for a parked team, and one behind an older held request; a bank
that is free, that a refresh-management command keeps busy, and whose row is open. -/
theorem witness_ControllerTakes :
    let h : HeldReq := { reg := 0, pa := 0x1000, team := some 0 }
    let s (b : Nat) (st : TeamStatus) (c : MemCtl := {}) : State :=
      { atTeam st with now := 10, lodge.regs := [{ budget := b }], lodge.ctls := List.replicate 24 c }
    let past (s : State) : Bool := s.regEnabled 0 && decide (((s.reg 0).budget + 23) / 24 < (s.ctl h.chan).charge 0 + 32)
    let opened : MemCtl := { open_ := List.replicate (h.bank + 1) (some h.row) }
    (past (s 10000 .running) = false ∧ past (s 0 .running) = true) ∧
    (((s 0 .running).team 0).status ≠ .parked ∧ ((s 0 .parked).team 0).status = .parked) ∧
    ((∃ q ∈ ((s 10000 .running { held := [h] }).ctl h.chan).held, q.reg = h.reg) ∧ ¬∃ q ∈ ((s 10000 .running).ctl h.chan).held, q.reg = h.reg) ∧
    (((s 10000 .running { busy := [(h.bank, 170)] }).ctl h.chan).blocked 10 h.bank = true ∧
      ((s 10000 .running).ctl h.chan).blocked 10 h.bank = false ∧ ((s 10000 .running).ctl h.chan).queue = []) ∧
    ((((s 10000 .running opened).chargeSector h.chan 0).ctl h.chan).open_.getD h.bank none = some h.row ∧
      (((s 10000 .running).chargeSector h.chan 0).ctl h.chan).open_.getD h.bank none ≠ some h.row) ∧
    h.chan < (s 10000 .running).lodge.ctls.length := by decide +kernel

/-- A line that the L2 holds with the sector valid and not, one that it does not hold, a line in quarantine, and partitions with and without
ways of their own. -/
theorem witness_CacheLookup :
    let x (v : BitVec 4) : L2Line := { die := 0, set := l2Set 0x1000, way := 5, line := 0x1000, valid := v, dirty := 2 }
    let s (l : List L2Line) : State := { State.reset with lodge.l2 := l, parts := [{ valid := true, waysP0 := 3, waysP1 := 3 }, { valid := true }] }
    (∀ v ∈ ([0, 1] : List (BitVec 4)), (s [x v]).lodge.l2.find? (·.line == lineOf 0x1000) = some (x v)) ∧
    ((∀ y ∈ (s [x 1]).lodge.l2, y.line ≠ lineOf 0x2000) ∧ lineOf 0x2000 ∉ (s [x 1]).quar ∧ (s [x 1]).allocWays none (homeDie 0x2000) ≠ [] ∧
      lineOf 0x2000 ∈ ({ s [x 1] with quar := [0x2000] } : State).quar) ∧
    ((s []).allocWays (some 0) 0 = [0, 1] ∧ ((some 0).map fun p => (s []).reservedWays p 0).getD 0 = 3 ∧
      ((some 1).map fun p => (s []).reservedWays p 0).getD 0 = 0 ∧ (s []).allocWays (some 1) 0 = (List.range 16).drop 2) := by decide +kernel

/-- A request for memory here, one for a window, and one homed at another package. -/
theorem witness_MemoryRequestEvent :
    let s (a : Nat) : State := { atC with ev := { pa := a, who := .team 0 } }
    let here (s : State) : Prop := s.physTarget s.ev.pa = .mem ∧ s.pageHome (s.ev.pa / 2 ^ 15) = s.pkg.toNat
    here (s 0x1000) ∧ ¬here (s 0x00F000000000) ∧ ¬here (s (2 ^ 38)) ∧
    ({ s 0 with lodge.recon := [some 0] } : State).lodge.recon.getD 0 none = some 0 := by decide +kernel

theorem witness_WindowAndRowEvents :
    let s : State := { State.reset with now := 100000, lodge.ctls := [{ alerts := [(2, 7)] }] }
    s.lodge.windowEnd ≤ s.now ∧ ({ s with now := 0, lodge.regWinLen := 100000 } : State).now < ({ s with now := 0, lodge.regWinLen := 100000 } : State).lodge.windowEnd ∧
    (s.ctl s.ev.chan).alerts.find? (fun a => decide (16 ≤ (s.ctl s.ev.chan).sinceRfm.getD a.1 16)) = some (2, 7) ∧
    s.rfmRows 7 = [5, 6, 8, 9] ∧ s.rfmRows 0 = [1, 2] ∧ s.rfmRows 262143 = [262141, 262142] ∧
    ({ s with lodge.rhThresh := 1 } : State).lodge.rhThresh.toNat ≤
      (((s.ctl 0).acts.find? fun a => a.1 == 2 && a.2.1 == 7).map (·.2.2)).getD 0 + 1 := by decide +kernel

/-- A write of a register of W0. -/
def atW0 (o : Nat) (d : W64) (f : State → State := id) : State :=
  f { State.reset with ev := { off := 0x10000 + o, data := d, wide := true }, lodge.bootStep := 5 }
def w0 (o : Nat) (d : W64) : RegWrite := { off := 0x10000 + o, data := d, bytes := 8 }

/-- Writes of MIG_REQ with GO: accepted, to an absent package, and for a pinned page; a move in progress; a new window. -/
theorem witness_PageMoveEvents :
    let f (l : Byte) (s : State) : State := { s with lodge.migWindow := 1, lodge.migLimit := l }
    (∀ l ∈ ([4, 0] : List Nat), ∀ d ∈ ([1, 3] : List Nat),
      (atW0 0x1310 (BitVec.ofNat 64 d) (f (BitVec.ofNat 8 l))).regWrite = some (w0 0x1310 (BitVec.ofNat 64 d), atW0 0x1310 (BitVec.ofNat 64 d) (f (BitVec.ofNat 8 l)))) ∧
    (∀ l ∈ ([4, 0] : List Nat), ∀ d ∈ ([1, 3] : List Nat), let s := atW0 0x1310 (BitVec.ofNat 64 d) (f (BitVec.ofNat 8 l))
      let w := w0 0x1310 (BitVec.ofNat 64 d)
      let v := s.w0Write 0x1310 w.bits w.mask
      s.rowOf w = .pageMove ∧ (v.lodge.migLimit.toNat ≤ v.pageMoves 0 ↔ l = 0) ∧ v.physTarget 0 = .mem ∧ v.lodge.migWindow ≠ 0 ∧
      bitsOf v.lodge.migReq.toNat 15 33 = 0 ∧ (v.packageUp (bitsOf v.lodge.migReq.toNat 1 2) = true ↔ d = 1)) ∧
    ({ State.reset with lodge.moves := [(0, 0, true)] } : State).lodge.moves = [(0, 0, true)] ∧
    ({ State.reset with now := 2048, lodge.migWindow := 1 } : State).migStart ≠ 0 := by
  refine ⟨fun l _ d _ => rfl, by decide +kernel, rfl, by decide +kernel⟩

/-- A fault not posted; answers of a tag that no fault has, and of a context, a channel, a raster, a sampler and a builder. -/
theorem witness_FaultServiceEvents :
    let p (w : FaultBy) (b : Bool) : Pending := { part := 0, who := w, ctx := .x 0 0, raise := { cause := 0x100 }, posted := b }
    let f (l : List Pending) (s : State) : State :=
      { s with pending := l, cores := [{ chans := [{ cmd := some {} }] }], clusters := [{ rasters := [{ team := 0, addr := 0 }] }],
               lodge.builds := [{ id := 0, fn := 0, team := 0, pid := 0, core := 0, addr := 0 }], parts := [{ fltBase := 0x100 }] }
    let s (d : Nat) (l : List Pending) : State := atW0 0x900 (BitVec.ofNat 64 d) (f l)
    let ws : List FaultBy := [.ctx, .chan 0 0, .raster 0, .smp 0 0 0 0, .builder 0]
    let mine (y : Pending) : Bool := y.posted && y.part == 0 && y.tag == (0 : W32)
    (∀ d ∈ [0, 2 ^ 63], ∀ l ∈ [] :: ws.map (fun w => [p w true]), (s d l).regWrite = some (w0 0x900 (BitVec.ofNat 64 d), s d l)) ∧
    ((∀ l ∈ [] :: ws.map (fun w => [p w true]), (s 0 l).rowOf (w0 0x900 0) = .fltResolved ∧
        (s (2 ^ 63) l).rowOf (w0 0x900 (BitVec.ofNat 64 (2 ^ 63))) = .fltUnresolved) ∧
      ((w0 0x900 (BitVec.ofNat 64 (2 ^ 63))).bits.setWidth 32 : W32) = 0 ∧ (s 0 []).pending.find? mine = none ∧
      (∀ w ∈ ws, (s 0 [p w true]).pending.find? mine = some (p w true)) ∧
      (((s 0 []).core 0).chan 0).cmd = some {} ∧ ((s 0 []).cluster 0).rasters.head? = some { team := 0, addr := 0 } ∧
      (s 0 []).lodge.builds.find? (·.id == 0) = some { id := 0, fn := 0, team := 0, pid := 0, core := 0, addr := 0 }) ∧
    (let u := s 0 [p .ctx false]
     u.pending[u.ev.n]? = some (p .ctx false) ∧ u.fltFree (u.part 0).fltSlot = true) := by
  refine ⟨fun d _ l _ => rfl, by decide +kernel, by decide +kernel⟩

/-- A page being moved; faults of a sampler request, of a trace, and of a merge that a `join` waits for. -/
theorem witness_PageAndFault_more :
    let f (a : AccessKind) (w : FaultBy) : Pending := { part := 0, who := w, ctx := .c 0, raise := { cause := 0x100, kind := a }, posted := true }
    let s : State := { atC (fun t => { t with
      children := [{ handle := 1, team := 1, retired := true }], ctrl := { t.ctrl with waiting := true, joining := some 1 },
      groups := [{ smps := [{ q := 14, slot := 0, desc := {}, mask := 0, u := [], v := [] }],
                   traces := [{ id := 7, q := 13, sweep := false, handle := 0, rounds := 1, lanes := [] }] }] }) with
      lodge.moves := [(0x60000 / 2 ^ 15, 1, true)] }
    (rightIs (s.walk 1000 0 0x60000) (fun e => s.lodge.moves.any fun m => m.1 == (e.1.pa + (0x60000 - e.1.va)) / 2 ^ 15) = true) ∧
    ((s.group 0 0).smps.findIdx? (fun c => c.q == 14 && c.slot == 0) = some 0 ∧ ((s.group 0 0).traces.find? (·.id == 7)).isSome = true) ∧
    ((f .write .ctx).ctx.stream = .c ∧ (s.team 0).ctrl.waiting = true ∧ (f .write .ctx).raise.kind = .write ∧ (s.team 0).nextMerge.isSome = true ∧
      (f .read .ctx).raise.kind ≠ .write) := by decide +kernel

/-- A walk that finds a page and one that does not; writes of TLB_INV of each OP; invalidations in progress. -/
theorem witness_TranslationEvents :
    let s (va : Nat) : State := { atC with ev := { va := va } }
    let i (op : Nat) : State := { State.reset with lodge.tlbInv := [BitVec.ofNat 64 (op * 2 ^ 61)] }
    (∀ a ∈ [0x60000, 0x8000000], let x := s a
      (x.team x.ev.team).status.live = true ∧ x.ev.va < 2 ^ 51 ∧ x.cachedTlb 0 none (x.pidOf 0) x.ev.va = none) ∧
    (rightIs ((s 0x60000).walk 0 0 0x60000) (fun _ => true) = true ∧ rightIs ((s 0x8000000).walk 0 0 0x8000000) (fun _ => true) = false) ∧
    (∀ op ∈ [0, 1, 2], (atW0 0x980 (BitVec.ofNat 64 (op * 2 ^ 61))).lodge.tlbInv = [] ∧
      (atW0 0x980 (BitVec.ofNat 64 (op * 2 ^ 61))).regWrite = some (w0 0x980 (BitVec.ofNat 64 (op * 2 ^ 61)), atW0 0x980 (BitVec.ofNat 64 (op * 2 ^ 61)))) ∧
    (∀ x ∈ [(0, RegRow.tlbPage), (1, .tlbPart), (2, .tlbTable)],
      (atW0 0x980 (BitVec.ofNat 64 (x.1 * 2 ^ 61))).rowOf (w0 0x980 (BitVec.ofNat 64 (x.1 * 2 ^ 61))) = x.2) ∧
    (∀ op ∈ [0, 1, 2], (i op).lodge.tlbInv = [BitVec.ofNat 64 (op * 2 ^ 61)] ∧ (BitVec.ofNat 64 (op * 2 ^ 61)).toNat / 2 ^ 61 = op) := by
  refine ⟨by decide +kernel, by decide +kernel, fun op _ => ⟨rfl, rfl⟩, by decide +kernel, by decide +kernel⟩

/-! ## Witnesses: records and landing data -/

/-- Records of A that leave ISSUED: of one iteration, of none, longer than PREEMPT_LIMIT (EVENT or STOP), of an image not mapped, with a
prologue. -/
theorem witness_RecordFetchEvent :
    let r (trips : List Nat) (bound pro : Nat) : RecRun :=
      { idx := 0, lr := { flags := 0x40, kerLen := 2, bound := bound, proLen := pro, trips := trips }, trips := trips }
    let s (r : RecRun) (card : Card := {}) (b : Nat := 0x20000) : State :=
      { atC (fun t => { t with groups := [{ actx := { run := some r } }] }) with
        ev := { ctx := .a 0 0 }, insts := [{ st := .running, image := { image0 with base := b }, card := card }] }
    let good (x : State) (r : RecRun) : Prop := x.leavesIssued x.ev.ctx = true ∧ (x.ctxState x.ev.ctx).run = some r
    (∀ q ∈ [r [1] 10 0, r [1] 10 1, r [0] 10 0, r [1] 5000 0], good (s q) q) ∧
    (good (s (r [1] 5000 0) { disposition := 4 * 2 ^ 32 }) (r [1] 5000 0) ∧ good (s (r [1] 10 0) {} 0x8000000) (r [1] 10 0)) ∧
    ((s (r [1] 5000 0)).iterOk (r [1] 5000 0) = false ∧ (s (r [1] 10 0)).iterOk (r [1] 10 0) = true ∧ (r [0] 10 0).total = 0 ∧ (r [1] 10 0).total ≠ 0) ∧
    ((({ disposition := 4 * 2 ^ 32 } : Card).nibble 0x204 = 4) ∧ ({} : Card).nibble 0x204 ≠ 4 ∧ (s (r [1] 5000 0)).team 0 =
      { (s (r [1] 5000 0)).team 0 with fallback := false, handler := none }) ∧
    (rightIs ((s (r [1] 10 0)).copyBodies (.a 0 0) (r [1] 10 0)) (fun _ => true) = true ∧
      rightIs ((s (r [1] 10 0) {} 0x8000000).copyBodies (.a 0 0) (r [1] 10 0)) (fun _ => true) = false) := by decide +kernel

/-- The C stream 2,000 cycles into an iteration of bound 1,000; an A and an M record whose word waits. -/
theorem witness_BoundExpiryEvent :
    let r : RecRun := { run2 with lr := { run2.lr with bound := 1000 } }
    let c : State := { atC with cycle := 2000 }
    let a : State := { atC (fun t => { t with groups := [{ actx := { run := some r, waiting := true } }] }) with cycle := 2000, ev := { ctx := .a 0 0 } }
    let m : State := { atC (fun t => { t with mctx := { run := some r, waiting := true } }) with cycle := 2000, ev := { ctx := .m 0 } }
    (c.ev.ctx = .c 0 ∧ c.teamIssues 0 = true ∧ let k := (c.team 0).ctrl
      k.ended = false ∧ k.late = false ∧ k.parked = false ∧ k.bound < c.cycle - k.spanStart) ∧
    (∀ s ∈ [a, m], let x := s.ctxState s.ev.ctx
      s.ev.ctx.stream ≠ .c ∧ s.teamIssues 0 = true ∧ x.run = some r ∧ r.st.issues = true ∧ x.waiting = true ∧ x.parked = false ∧
      x.stopped = false ∧ r.late = false ∧ r.lr.bound < s.cycle - r.spanStart) := by decide +kernel

/-- A record whose waiting word is the oldest of its resume list. -/
theorem witness_BoundExpiryEvent_resume :
    let o : Outst := { seq := 0, kind := .load, instr := .nop, info := {}, lanes := [] }
    let s : State := { atC (fun t => { t with groups := [{ actx := { run := some run2, waiting := true, resume := [o] } }] }) with
      cycle := 2000, ev := { ctx := .a 0 0 } }
    let x := s.ctxState s.ev.ctx
    s.teamIssues 0 = true ∧ x.run = some run2 ∧ run2.st.issues = true ∧ x.waiting = true ∧ x.parked = false ∧ x.stopped = false ∧
    run2.lr.bound < s.cycle - run2.spanStart ∧ x.resume = [o] := by decide +kernel

/-- Core 1 of an M-cluster and a team of core 0 whose record begins with `setdt`. -/
theorem witness_BodyPullEvent :
    let r : RecRun := { run2 with ker := [BitVec.ofNat 64 (10 * 2 ^ 58)] }
    let s : State := { atC (fun t => { t with mctx := { run := some r } }) with
      ev := { core := 1 }, insts := [{ st := .running, image := { image0 with flags := 1 } }], cores := [{}, {}] }
    s.canPull s.ev.core s.ev.team = true ∧ (s.team s.ev.team).mctx.run = some r := by decide +kernel

/-- One outstanding word of each kind of clause, first of its group. -/
theorem witness_LoadLandEvent :
    let o : Outst := { seq := 0, kind := .load, instr := .nop, info := {}, lanes := [{ lane := 0, va := 0x60000, pa := 0x60000 }], dst := some (0, 0) }
    let s (o : Outst) (bad : List (Nat × Nat × Store) := []) : State :=
      { atC (fun t => { t with groups := [{ outst := [o], queues := queues0 }] }) with badStore := bad }
    let fe : Outst := { o with kind := .fullEmpty, lanes := [{ lane := 0, va := 0 }], served := 1 }
    (∀ x ∈ [o, { o with withdrawn := true }, { o with kind := .scratch }, { o with kind := .scratch, bad := 1 }, fe, { o with kind := .ringPut },
        { o with lanes := [{ lane := 0, va := 0, pa := 2 ^ 46 }] }], let z := s x
      z.teamLands z.ev.team = true ∧ (z.group 0 z.ev.group).outst[z.ev.n]? = some x ∧ z.mayPerform 0 x ((z.group 0 0).outst.take z.ev.n) = true ∧
      z.accReady 0 x = true ∧ (z.group 0 0).outst.take z.ev.n = [] ∧ (x.kind = .ringPut → x.osBit 25 = true → z.putsBefore 0 x = false)) ∧
    (fe.unserved = [] ∧ (s fe).badLanes 0 fe.lanes = [] ∧ (s fe [(0, 0xFF, .scratch 0)]).badLanes 0 fe.lanes ≠ []) ∧
    (memIs ((s o).perform 0 o) (fun _ _ => true) = true ∧ memIs ((s o).perform 0 { o with kind := .ringPut }) (fun _ _ => true) = true ∧
      memIs ((s o).perform 0 { o with lanes := [{ lane := 0, va := 0, pa := 2 ^ 46 }] }) (fun _ _ => true) = false) := by decide +kernel

/-- A load whose bytes a watch window holds. -/
theorem witness_LoadLandEvent_held :
    let o : Outst := { seq := 0, kind := .load, instr := .nop, info := {}, lanes := [{ lane := 0, va := 0x28000, pa := 0x28000 }], dst := some (0, 0) }
    let s : State := { atC (fun t => { t with groups := [{ outst := [o], queues := queues0 }] }) with cores := [{ chans := [win0] }] }
    s.teamLands 0 = true ∧ s.mayPerform 0 o [] = true ∧ s.accReady 0 o = true ∧
    (match s.perform 0 o with
      | .wait w => decide (w = (0, 0))
      | _ => false) = true := by decide +kernel

/-! ## Witnesses: vision units, builders, merges, comparison -/

/-- A held request, in place and withdrawn; an access held, serviced, and neither. -/
theorem witness_UnitTurns :
    let s (w : Bool) : State := { State.reset with lodge.holds := [{ who := .unit (.raster 0), chan := (0, 1), withdrawn := w }], parts := [{ fltEnable := w }] }
    ((s true).holdLost (.unit (.raster 0)) = true ∧ (s false).holdLost (.unit (.raster 0)) = false) ∧
    ((heldErr 0x28000 (0, 1)).hold = some (0, 1) ∧ ({ cause := 0x100, serviceable := true } : MErr).hold = none) ∧
    (((s true).part 0).fltEnable = true ∧ ((s false).part 0).fltEnable = false) := by decide +kernel

/-- Cluster 0 with a raster command of team 0 at the head. -/
def atRaster (r : Raster) (f : Group → Group := id) (cmd : List (Nat × Nat) := []) : State :=
  { atC (fun t => { t with groups := [f { queues := [{ depth := 5 }] }] }) with
    clusters := [{ rasters := [r] }], mem := { cells := tableCells ++ cells 0x50000 cmd } }

/-- A command that cannot be read, a bad one, one whose primitives cannot be read, a good one; a group with no tile, with a finished
tile, with a fragment; ends with code 1, without and with a full tile list. -/
theorem witness_RasterEvents :
    let r : Raster := { team := 0, addr := 0x50000 }
    let go (p : RastGroup) : Raster := { r with started := true, groups := [p] }
    let ok (s : State) (r : Raster) : Prop := (s.cluster s.ev.cluster).rasters.head? = some r ∧ (s.team 0).status = .running ∧ s.rasterRuns 0 r = true
    let bytes (s : State) (p : List Byte → Bool) : Bool := rightIs (s.unitRead 0 0 0x50000 64) p
    let good := [(8, 1), (0x10, 1)]
    let lost := [(3, 8), (8, 1), (0x10, 1)]
    let f : Frag := { xy := 0, depth := 0, prim := 0, a := 0, b := 0 }
    let base0 (bs : List Byte) : Nat := natOfBytes (bs.take 8)
    (ok (atRaster r) r ∧ ok (atRaster r id good) r ∧ ok (atRaster r id lost) r ∧ ok (atRaster { r with addr := 0x8000000 }) { r with addr := 0x8000000 }) ∧
    (rightIs ((atRaster r).unitRead 0 0 0x8000000 64) (fun _ => true) = false ∧ bytes (atRaster r) (fun bs => !rastOk bs 1) = true) ∧
    (bytes (atRaster r id good) (fun bs => rastOk bs 1 && rightIs ((atRaster r id good).readRastPrims 0 0 (base0 bs) 1 0) fun _ => true) = true ∧
      bytes (atRaster r id lost) (fun bs => rastOk bs 1 && !rightIs ((atRaster r id lost).readRastPrims 0 0 (base0 bs) 1 0) fun _ => true) = true ∧
      (Team.queue ((atRaster r).group 0 0) 0).rasterOk = true) ∧
    (∀ p ∈ ([{ group := 0 }, { group := 0, cur := some (0, 0) }, { group := 0, cur := some (0, 0), frags := [f] }] : List RastGroup),
      ok (atRaster (go p)) (go p) ∧ (go p).part (atRaster (go p)).ev.group = some p) ∧
    (∀ x ∈ [go { group := 0 }, { go { group := 0 } with code := 1 }, { go { group := 0 } with overs := [(0, 0, 5000)] }],
      ok (atRaster x) x ∧ x.started = true ∧ x.groups.all RastGroup.finished = true) := by decide +kernel

/-- A command that has been read, one whose held request was withdrawn; reports that can and cannot be written; primitives that can and
cannot be read. -/
theorem witness_RasterEvents_more :
    let r : Raster := { team := 0, addr := 0x50000, bound := true, report := 0x60000, primBase := 0x50000, primCount := 1 }
    let far : Raster := { r with started := true, report := 0x8000000, primBase := 0x8000000 }
    let s : State := atRaster r
    let lost : State := { s with lodge.holds := [{ who := .unit (.raster 0), chan := (0, 1), withdrawn := true }] }
    ((s.cluster s.ev.cluster).rasters.head? = some r ∧ s.rasterRuns 0 r = true ∧ s.holdLost (.unit (.raster 0)) = false ∧
      lost.rasterRuns 0 r = true ∧ lost.holdLost (.unit (.raster 0)) = true) ∧
    (s.rasterReportErr r = none ∧ (s.rasterReportErr far).isSome = true) ∧
    (rightIs (s.readRastPrims 0 0 r.primBase 1 0) (fun _ => true) = true ∧ rightIs (s.readRastPrims 0 0 far.primBase 1 0) (fun _ => true) = false) ∧
    (r.overs = [] ∧ ({ r with overs := [(0, 0, 5000)] } : Raster).overs ≠ [] ∧ r.flag 10 = false) := by decide +kernel

/-- A request of no lane, one that cannot be read, and the same with the fault service; a trace of no lane and one of a deep tree, before
and after its rounds. -/
theorem witness_SamplerAndTraversalEvents :
    let r (mask : W32) : SmpReq := { q := 14, slot := 0, desc := { base := 0x8000000, width := 1, height := 1, pitch := 64 }, mask := mask, u := [], v := [] }
    let s (r : SmpReq) (on : Bool := false) : State :=
      { atC (fun t => { t with groups := [{ smps := [r], queues := queues0 }] }) with parts := [{ ptRoot := 1, fltEnable := on }] }
    let sampled (s : State) (r : SmpReq) : Bool := rightIs (s.sampleLanes 0 0 0 r (maskLanes r.mask) []) fun _ => true
    let tr (n : Nat) (walked : Bool) (ls : List TraceLane) : TraceReq :=
      { id := 7, q := 13, sweep := false, handle := 0, rounds := 1, round := n, walked := walked, lanes := ls }
    let z (r : TraceReq) : State := { atC (fun t => { t with groups := [{ traces := [r], queues := queues0 }] }) with ev := { q := 13 } }
    (∀ m ∈ ([0, 1] : List Nat), ∀ on ∈ [true, false], let x := s (r (BitVec.ofNat 32 m)) on
      (x.group 0 x.ev.group).smps[x.ev.n]? = some (r (BitVec.ofNat 32 m)) ∧ (x.team 0).status = .running ∧ x.smpFaulted 0 0 = false) ∧
    (sampled (s (r 0)) (r 0) = true ∧ sampled (s (r 1)) (r 1) = false) ∧
    (∀ n ∈ [0, 1], ∀ ls ∈ ([[], [{ lane := 0, addr := 0x60000, deep := true }]] : List (List TraceLane)),
      (z (tr n true ls)).traceReq 0 0 (z (tr n true ls)).ev.q = some (tr n true ls) ∧
      rightIs ((z (tr n true ls)).traceWalk 0 (tr n true ls)) (fun _ => true) = true) ∧
    (rightIs ((z (tr 1 true [])).writeRecords 0 0 false []) (fun _ => true) = true ∧
      rightIs ((z (tr 1 true [])).writeRecords 0 0 false [{ lane := 0, addr := 0x8000000, valid := true }]) (fun _ => true) = false) := by decide +kernel

/-- A command of zeros (good), one of ones (bad); a started command of each function, with and without its descriptor; an entry. -/
theorem witness_BuilderEvents :
    let c (fn : Nat) (st : Bool) : BuildCmd := { id := 0, fn := fn, team := 0, pid := 0, core := 0, addr := 0x50000, started := st }
    let e : GenEntry := { pid := 0, desc := 0, kind := 0, arena := 0, slotNodes := 1, slots := 2, origin := [], cell := 0 }
    let s (c : BuildCmd) (gens : List (Option GenEntry) := []) (cmd : List (Nat × Nat) := []) : State :=
      { atC with lodge.builds := [c], lodge.gens := gens, mem := { cells := tableCells ++ cells 0x50000 cmd } }
    (∀ cmd ∈ [[], [(0, 1)]], let x := s (c 0 false) [] cmd
      x.lodge.builds.find? (·.id == x.ev.cmd) = some (c 0 false) ∧ x.buildParked 0 = false ∧ earlierOf x.lodge.builds (c 0 false) = false ∧
      x.buildersBusy (dieOf (clusterOf 0)) < 2 ∧ rightIs (x.unitRead 0 0 0x50000 64) (fun bs => buildCmdOk 0 bs == cmd.isEmpty) = true) ∧
    (∀ fn ∈ [0, 1, 2, 3, 4], (s (c fn true)).lodge.builds.find? (·.id == 0) = some (c fn true) ∧ (c fn true).started = true ∧
      (c fn true).finished = false ∧ (s (c fn true)).buildParked 0 = false) ∧
    ((s (c 0 true)).findGen 0 0 = none ∧ (s (c 0 true) [some e]).findGen 0 0 = some (0, e) ∧ (s (c 0 true) [some e]).gen 0 = some e) := by
  decide +kernel

/-- A trace slot of a team that runs and of one that has retired; requests of the units whose windows were withdrawn; reports of builder
commands that can and cannot be written; a descriptor in use. -/
theorem witness_UnitRequests_lost :
    let b (id report : Nat) (st : Bool) : BuildCmd := { id := id, fn := 0, team := 0, pid := 0, core := 0, addr := 0x50000, report := report, ctl := 2, started := st }
    let s (h : FaultBy) : State := { atC with lodge.holds := [{ who := .unit h, chan := (0, 1), withdrawn := true }], lodge.builds := [b 0 0x60000 true] }
    (∀ h ∈ ([.smp 0 0 14 0, .trace 0 0 7, .builder 0] : List FaultBy), (s h).holdLost (.unit h) = true) ∧
    (∃ x ∈ (s (.builder 0)).lodge.builds, x.started = true ∧ x.finished = false ∧ x.pid = 0 ∧ x.desc = 0) ∧
    ((b 0 0x60000 true).reports = true → (s (.builder 1)).reportErr (b 0 0x60000 true) = none) ∧
    ((b 0 0x8000000 true).reports = true → ((s (.builder 1)).reportErr (b 0 0x8000000 true)).isSome = true) ∧ (b 0 0x60000 true).reports = true ∧
    (((s (.builder 0)).team 0).status = .running ∧ (((s (.builder 0)).modTeam 0 fun t => { t with status := .retired }).team 0).status ≠ .running) := by
  decide +kernel

/-- A retired child that a join waits for: with nothing to merge; with a copied line that cannot be translated, the fault service on and off. -/
theorem witness_MergeEvent :
    let c : Child := { handle := 1, team := 1, retired := true }
    let rg : RevRegion := { base := 0x8000000, bytes := 128, type := 2 }
    let old : RevLine := { va := 0x8000000, bytes := List.replicate 128 0 }
    let rv (l : List RevLine) : Revision := { id := 1, parent := 0, pid := 0, inst := 0, regions := [rg], copies := l, ancestors := [old] }
    let s (l : List RevLine) (on : Bool) : State :=
      let z : State := atC fun t => { t with children := [c], ctrl := { t.ctrl with waiting := true, joining := some 1 } }
      { z with teams := z.teams ++ [({ rev := 1, parent := some 0 } : Team)], revs := [rv l], parts := [{ ptRoot := 1, fltEnable := on }] }
    let bad : List RevLine := [{ va := 0x8000000, bytes := List.replicate 128 1 }]
    (∀ x ∈ [s [] false, s bad true, s bad false], x.joinWaits x.ev.team = true ∧ (x.team x.ev.team).nextMerge = some c ∧ c.retired = true ∧
      ∀ k ∈ x.clusters, ∀ r ∈ k.rasters, r.team ≠ c.team) ∧
    (∃ k ∈ ({ s [] false with clusters := [{ rasters := [{ team := 1, addr := 0 }] }] } : State).clusters, ∃ r ∈ k.rasters, r.team = c.team) ∧
    ((s [] false).findRev 1 = some (rv []) ∧ (s bad true).findRev 1 = some (rv bad)) ∧
    ((s bad true).part 0).fltEnable = true ∧ ((s bad true).mergeFault 0 (rv bad)).isSome = true ∧ (s [] false).mergeFault 0 (rv []) = none ∧
    ((s bad false).part 0).fltEnable = false ∧ ((s [] false).applyMerge 0 c).2 = none ∧ ((s bad false).applyMerge 0 c).2.isSome = true := by decide +kernel

/-- Merges of words that changed, of every type, and one that did not. -/
theorem witness_MergeWords : ([0, 1, 2, 4, 5, 7, 8, 10, 11].map fun t => mergeWord t 5 6 9) = [6, 9, 10, 9, 9, 6, 6, 10, 6] ∧
    mergeWord 1 5 6 5 = 6 := by decide +kernel

/-- A retiring coverage instance, a reconstruction whose surface cannot be read and one with nothing to do; redundant copies. -/
theorem witness_ReconstructionAndCompare :
    let inst (f : Nat) (k : Inst → Inst := id) : Inst := k { st := .retiring, card := { flags := f, clusterMask := 7, imageAddr := 0x20000 }, image := image0 }
    let s (x : Inst) : State := { State.reset with insts := [x] }
    let rv (id : Nat) (b : Byte) : Revision := { id := id, parent := 0, pid := 0, inst := 0, copies := [{ va := 0, bytes := [b] }] }
    let d (tie : Bool) (a b c : Byte) : State :=
      { State.reset with insts := [inst 0x80 fun x => { x with revs := [1, 2, 3], tie := tie }], revs := [rv 1 a, rv 2 b, rv 3 c] }
    let rec_ (decl : Option (Nat × Nat)) : State :=
      { State.reset with insts := [inst 8 fun x => { x with decl := decl, rung := 1, card := { x.card with surfaceBase := 0x8000000, pitch := 64 } }], lodge.recon := [some 0] }
    ((rec_ none).lodge.recon.getD 0 none = some 0 ∧ ((rec_ none).inst 0).st = .retiring ∧
      rightIs (({ rec_ none with lodge.recon := [none] } : State).reconstruct 0) (fun _ => true) = true ∧
      rightIs (({ rec_ (some (2, 2)) with lodge.recon := [none] } : State).reconstruct 0) (fun _ => true) = false) ∧
    ((s (inst 8)).reconWaiting 0 = [0] ∧ (s (inst 8)).lodge.recon.getD (s (inst 8)).ev.n none = none) ∧
    (∀ x ∈ [d false 1 1 0, d false 1 2 0, d true 1 2 1, d true 1 2 2, d true 1 2 3], let y := x.inst x.ev.inst
      y.redundant = true ∧ y.st = .retiring ∧ y.compared = false ∧ x.instTeams 0 = [] ∧ y.unplaced = false ∧ y.card.flag 3 = false) ∧
    ((d false 1 1 0).agree 1 2 = true ∧ (d false 1 2 0).agree 1 2 = false ∧ (d true 1 2 1).agree 3 1 = true ∧ (d true 1 2 2).agree 3 1 = false ∧
      (d true 1 2 2).agree 3 2 = true ∧ (d true 1 2 3).agree 3 1 = false ∧ (d true 1 2 3).agree 3 2 = false) := by decide +kernel

/-! ## Witnesses: supervision, ports -/

/-- A boot that passes, one that fails at each check, and one that finds cluster 0 failing. -/
theorem witness_DeviceResetEvent :
    let s (a b : Bool) : State := { State.reset with ev := { boot := { verified0 := a, verified1 := b, failing := 1 } } }
    ((s true true).ev.boot.verified0 = true ∧ (s true true).ev.boot.verified1 = true ∧ (s true true).ev.boot.failing.getLsbD 0 = true) ∧
    (s false true).ev.boot.verified0 = false ∧ (s true false).ev.boot.verified1 = false := by decide +kernel

theorem witness_ReportEvent :
    let s (m : BelvMsg) : State := { State.reset with belv := [m] }
    let u (n : Nat) : State := { State.reset with lodge.detects := List.replicate n (3, 0) }
    let n (s : State) : Nat := (((3, s.now) :: s.lodge.detects.filter fun d => decide (s.now ≤ d.2 + 1000000000)).filter (·.1 == 3)).length
    (s (.quarantineFull 1)).belv.find? (·.isReport) = some (.quarantineFull 1) ∧ n (u 7) ≤ 8 ∧ 8 < n (u 8) := by decide +kernel

/-- A beat with a right and with a wrong signature, one of a busy unit with a new and with its last number; misses before and at 3. -/
theorem witness_HeartbeatEvents :
    let s (ok busy : Bool) (q m : Nat) : State :=
      { State.reset with ev := { ok := ok, busy := busy, seq := q, unit := .memCtl 0 }, lodge.hearts := [{ unit := .memCtl 0, seq := some 4, missed := m }] }
    ((s true true 5 0).ev.ok = true ∧ ((s true true 5 0).heart (.memCtl 0)).seq ≠ some 5) ∧ (s false false 5 0).ev.ok = false ∧
    ((s true true 4 0).ev.busy = true ∧ ((s true true 4 0).heart (.memCtl 0)).seq = some (s true true 4 0).ev.seq) ∧
    ((s true true 4 1).heart (.memCtl 0)).missed + 1 < (s true true 4 1).lodge.hbMiss.toNat ∧
    (s true true 4 2).lodge.hbMiss.toNat ≤ ((s true true 4 2).heart (.memCtl 0)).missed + 1 := by decide +kernel

/-- A failed unit of each kind; a cluster that holds a team and one that is empty. -/
theorem witness_RestartEvents :
    let s (u : UnitId) (ts : List Team) : State :=
      { State.reset with ev := { unit := u, ok := true }, teams := ts, clusters := [{ quarantined := true }], lodge.hearts := [{ unit := u, failed := true }] }
    (∀ u ∈ [UnitId.cluster 0, .ltu 0, .copyUnit 0, .ingress 0, .memCtl 0], (s u []).ev.unit = u ∧ ((s u []).heart (s u []).ev.unit).failed = true) ∧
    (((s (.cluster 0) []).modCluster 0 fun c => { c with quarantined := true, bistPassed := false }).emptied 0 = true) ∧
    (((s (.cluster 0) [{ status := .running }]).modCluster 0 fun c => { c with quarantined := true, bistPassed := false }).emptied 0 = false) ∧
    ((s (.cluster 0) []).cluster (s (.cluster 0) []).ev.cluster).quarantined = true := by decide +kernel

theorem witness_PowerEvents :
    let m (ps : W16) (v : W16) (l : Bool) (ts : List Team) : State :=
      { State.reset with ev := { marginPs := ps }, clusters := [{ voffMv := v, limit := l }], teams := ts }
    let e (s : State) : Bool := ({ s with clusters := s.clusters.map fun c => { c with marginPs := 20, fmaxMhz := 1500, clockMhz := 1500 } } : State).emptied 0
    let p (w o : Nat) (b : Bool) (mhz : Nat) : State :=
      { State.reset with ev := { watts := w }, lodge.overMs := o, lodge.powerOver := b, clusters := List.replicate 28 { clockMhz := mhz } }
    (30 ≤ (m 30 0 false []).ev.marginPs.toNat ∧ ((m 0 0 true []).cluster 0).limit = true) ∧
    ((m 20 145 false []).ev.marginPs.toNat < 30 ∧ ((m 20 145 false []).cluster 0).voffMv.toNat ≤ 145 ∧ ((m 20 145 false []).cluster 0).limit = false) ∧
    (145 < ((m 20 150 false []).cluster 0).voffMv.toNat ∧ e (m 20 150 false []) = true ∧ e (m 20 150 false [{ status := .running }]) = false) ∧
    ((p 120 0 false 1500).ev.watts ≤ (p 120 0 false 1500).lodge.capWatts.toNat ∧ 120 < (p 121 0 false 1500).ev.watts) ∧
    ((p 121 0 false 1800).atFloor = false ∧ (p 121 0 false 1500).atFloor = true) ∧
    ((p 121 0 false 1500).lodge.overMs + 1 < 10 ∧ 10 ≤ (p 121 9 false 1500).lodge.overMs + 1 ∧ (p 121 9 false 1500).lodge.powerOver = false) := by
  decide +kernel

/-- PART_CTL writes that set VALID apart from the others and not, clear it with and without an accepted card, set LOCK; JOBTAB_BASE's LOCK. -/
theorem witness_PartitionEvents :
    let p (v : Bool) (k : BitVec 28) : Part := { valid := v, clusters := k }
    let s (o : Nat) (d : W64) (ps : List Part) (js : List JobSlot) : State := atW0 o d fun s => { s with parts := ps, jobs := js }
    let set1 (k : BitVec 28) : State := s 0x410 1 [p false k] []
    let clr (a : Bool) : State := s 0x410 0 [p true 1] [{ accepted := a }]
    (∀ x ∈ [set1 1, set1 0], x.regWrite = some (w0 0x410 1, x)) ∧ (∀ a ∈ [true, false], (clr a).regWrite = some (w0 0x410 0, clr a)) ∧
    ((s 0x410 2 [p false 1] []).regWrite = some (w0 0x410 2, s 0x410 2 [p false 1] [])) ∧ ((s 0 1 [] []).regWrite = some (w0 0 1, s 0 1 [] [])) ∧
    ((set1 1).rowOf (w0 0x410 1) = .validSet ∧ (set1 0).rowOf (w0 0x410 1) = .validSet ∧ (clr true).rowOf (w0 0x410 0) = .validClear ∧
      (clr false).rowOf (w0 0x410 0) = .validClear ∧ (s 0x410 2 [p false 1] []).rowOf (w0 0x410 2) = .partLock ∧
      (s 0 1 [] []).rowOf (w0 0 1) = .jobtabLock) ∧
    (((w0 0x410 1).w0 - 0x0400) / 32 = 0 ∧ ((set1 1).part 0).clusters ≠ 0 ∧ ((set1 0).part 0).clusters = 0 ∧
      (List.range 16).all (fun k => !((set1 1).part k).valid) = true ∧ 2 ≤ freeWays [((set1 1).part 0).waysP0] ∧ 2 ≤ freeWays [((set1 1).part 0).waysP1]) ∧
    (clr true).jobs = [{ accepted := true }] ∧ (clr false).jobs = [{ accepted := false }] := by
  refine ⟨fun x hx => ?_, fun a _ => rfl, rfl, rfl, by decide +kernel, by decide +kernel, rfl, rfl⟩
  simp only [List.mem_cons, List.not_mem_nil, or_false] at hx
  rcases hx with rfl | rfl <;> rfl

/-- Writes of a page register that has no row, of BVH_SEL, and past both windows. -/
theorem witness_RegisterWriteEvent :
    let s (off : Nat) : State := { State.reset with ev := { off := off, data := 5, wide := true }, lodge.bootStep := 5 }
    let w (off : Nat) : RegWrite := { off := off, data := 5, bytes := 8 }
    (∀ o ∈ [8, 0x10720, 0x20000], (s o).regWrite = some (w o, s o)) ∧ (∀ o ∈ [8, 0x10720, 0x20000], (s o).rowOf (w o) = .plain ∧ (w o).base = o) ∧
    (w 0x10720).w0 ≠ 0x0980 := ⟨fun o _ => rfl, by decide +kernel, by decide +kernel⟩

theorem witness_PortEvents :
    let s (l : List (Nat × Nat)) : State := { State.reset with ev := { peer := 1, pa := 0x60000 }, links := l, pcieUp := true, lodge.bootStep := 5 }
    let h : State := { s [] with ev := { off := 0x60000 } }
    let far : State := { h with ev := { off := 0 }, lodge.w2Base := BitVec.ofNat 64 (2 ^ 46) }
    let pa (s : State) : Nat := bitsOf s.lodge.w2Base.toNat 30 18 * 2 ^ 30 + s.ev.off
    ((s [(0, 1)]).links.find? (·.1 == (s [(0, 1)]).ev.link) = some (0, 1)) ∧
    ((s []).ev.link < 4 ∧ (s []).ev.peer < 4 ∧ (s []).ev.peer ≠ (s []).pkg.toNat ∧ ∀ l ∈ (s []).links, l.1 ≠ (s []).ev.link) ∧
    ((s [(0, 1)]).heldPhys 0x60000 4 = false ∧ ({ s [(0, 1)] with lodge.moves := [(0x60000 / 2 ^ 15, 1, true)] } : State).heldPhys 0x60000 4 = true) ∧
    ((s [(0, 1)]).pageHome ((s [(0, 1)]).ev.pa / 2 ^ 15) = (s []).pkg.toNat ∧ (s [(0, 1)]).physTarget 0x60000 = .mem ∧ (s [(0, 1)]).homeFail 0x60000 = none) ∧
    (h.pcieUp = true ∧ h.hostMode = false ∧ h.lodge.bootStep = 5 ∧ h.physTarget (pa h) = .mem ∧ h.homeFail (pa h) = none) ∧
    far.physTarget (pa far) ≠ .mem ∧ h.ev.status = .success ∧ BusStatus.success ≠ .abort := by decide +kernel

/-! ## Witnesses: exceptions, boundaries, the step, encodings -/

/-- A page fault with the fault service; a first ECC cause in an idempotent region; causes of the C and of another context while a handler
runs, later and in the cycle in which it was entered; a cause in a fallback team; causes of every disposition code. -/
theorem witness_ExceptionTaken :
    let f : Raise := { cause := 0x100, ctx := some (.c 0), serviceable := true }
    let r (c : Cause) (x : Ctx := .c 0) : Raise := { cause := c, ctx := some x }
    let z : State := { atC with parts := [{ ptRoot := 1, fltEnable := true }] }
    let reg : State := atC fun t => { t with ctrl := { t.ctrl with region := some { pc := 0, c := [], lc := [], stack := [], gen := 0 } } }
    let han : State := atC fun t => { t with handler := some {} }
    let fall : State := atC fun t => { t with fallback := true }
    let new (d : Nat) : State := { atC (fun t => { t with handler := some { taken := { cause := 0x200 } }, ctrl := { t.ctrl with fresh := true } }) with
      insts := [{ st := .running, card := { disposition := d * 2 ^ 4 } }] }
    let disp (d : Nat) : State := { atC with insts := [{ st := .running, card := { disposition := d * 2 ^ 4 } }] }
    (f.serviceable = true ∧ (z.part (z.inst 0).card.pid).fltEnable = true) ∧ (reg.canReplay 0 (r 0x141) = true ∧ (r 0x141).serviceable = false) ∧
    (han.canReplay 0 (r 0x041 (.x 0 0)) = false ∧ (han.team 0).handler = some {} ∧ Ctx.x 0 0 ≠ .c 0 ∧ (han.team 0).ctrl.fresh = false) ∧
    ((∀ d ∈ [0, 1], let s := new d
      s.canReplay 0 (r 0x041 (.x 0 0)) = false ∧ ((s.team 0).handler.map (·.entered)) = some s.cycle ∧ (s.team 0).ctrl.fresh = true ∧
      (s.inst 0).card.nibble 0x041 = d) ∧ (0x041#10).toNat < (0x200#10).toNat) ∧
    (fall.canReplay 0 (r 0x041) = false ∧ (fall.team 0).handler = none ∧ (fall.team 0).fallback = true) ∧
    (∀ d ∈ [0, 1, 2, 3, 4, 5, 6, 15], ((disp d).inst 0).card.nibble 0x041 = d ∧ (disp d).canReplay 0 (r 0x041) = false ∧
      ((disp d).team 0).handler = none ∧ ((disp d).team 0).fallback = false) := by decide +kernel

/-- Causes of a C and of an X word and of a boundary; a resume list; the last word of the last replay of an `mloop`. -/
theorem witness_HandlerEntryAndSkip :
    let s := atX
    let r (c : Cause) (x : Ctx) (b : Bool := false) : Raise := { cause := c, ctx := some x, boundary := b }
    let o : Outst := { seq := 0, kind := .load, instr := .nop, info := {}, lanes := [] }
    let res : State := atX fun g => { g with xctx := { g.xctx with resume := [o] } }
    let lp : RecRun := { run2 with pos := 1, loopStart := 1, loopLen := 1, loopOp := some { instr := .nop, info := {}, count := 0, sig := 0, latch := none, wait := none } }
    let m : State := atM fun t => { t with mctx := { run := some lp } }
    ((r 0x041 (.x 0 0)).ctx = some (.x 0 0) ∧ Ctx.stream (.x 0 0) ≠ .c ∧ Ctx.team (.x 0 0) = 0) ∧ (r 0x041 (.c 0)).ctx = some (.c 0) ∧
    ((s.ctxState (.x 0 0)).resume = [] ∧ (s.ctxState (.x 0 0)).run = some run2 ∧ run2.loopEnds = false ∧ (r 0x041 (.x 0 0)).boundary = false) ∧
    ((res.ctxState (.x 0 0)).resume = [o] ∧ (m.ctxState (.m 0)).resume = [] ∧ (m.ctxState (.m 0)).run = some lp ∧ lp.loopEnds = true) ∧
    (r 0x180 (.x 0 0) true).boundary = true := by decide +kernel

theorem witness_ReservedEncodingWord : ∀ s ∈ [atC, atA, atX, atM], s.canIssue s.cur = true := by decide +kernel

/-- A and X records at the end of a kernel iteration: unchecked, with another count, with another signature, late, signalled at a
checkpoint, and at their last one. -/
theorem witness_IterationBoundary :
    let q (flags cnt sig bound trips : Nat) : RecRun :=
      { idx := 0, lr := { flags := flags, kerLen := 1, bound := bound, trips := [trips], expectCount := cnt, expectSig := sig },
        st := .kernel, trips := [trips], ker := [0] }
    let s (c : Ctx) (r : RecRun) : State :=
      { atTeam .running .preempt fun t => { t with groups := [{ actx := { run := some r }, xctx := { run := some r } }] } with cur := c, cycle := 50 }
    let step (r : RecRun) : Bool := decide (r.ker.length ≤ (r.step 1).pos)
    (∀ c ∈ [Ctx.a 0 0, .x 0 0], ∀ r ∈ [q 0x20 1 0 100 2, q 0x20 0 7 100 2, q 0 0 0 10 2, q 4 0 0 100 2, q 0 0 0 100 2, q 0 0 0 100 1],
      c.stream ≠ .c ∧ ((s c r).ctxState c).run = some r ∧ r.st = .kernel ∧ step r = true ∧ (s c r).holdsBoundary c r = false) ∧
    (bitsOf (q 0x20 1 0 100 2).lr.flags 5 1 = 1 ∧ (q 0x20 1 0 100 2).count ≠ (q 0x20 1 0 100 2).lr.expectCount ∧
      (q 0x20 0 7 100 2).count = (q 0x20 0 7 100 2).lr.expectCount ∧ (q 0x20 0 7 100 2).sig.toNat ≠ (q 0x20 0 7 100 2).lr.expectSig) ∧
    ((q 0 0 0 10 2).lr.bound < (s (.a 0 0) (q 0 0 0 10 2)).cycle - 0 ∧ (q 0 0 0 100 2).total = 2 ∧ (q 0 0 0 100 1).total = 1) ∧
    bitsOf (q 4 0 0 100 2).lr.flags 2 1 = 1 ∧ ((s (.a 0 0) (q 4 0 0 100 2)).team 0).signal ≠ .none := by decide +kernel

/-- Boundaries whose mismatch is replayed, whose mismatch is late too, and one that ends a span of the control record that was too long. -/
theorem witness_IterationBoundary_more :
    let q (flags : Nat) : RecRun :=
      { idx := 0, lr := { flags := flags, kerLen := 1, bound := 10, trips := [2], expectCount := 1 }, st := .kernel, trips := [2], ker := [0] }
    let s (r : RecRun) : State :=
      { atTeam .running .none fun t => { t with groups := [{ actx := { run := some r } }], ctrl := { t.ctrl with bound := 20 } } with cur := .a 0 0, cycle := 50 }
    let rz : Raise := { cause := 0x180, ctx := some (.a 0 0), boundary := true }
    (∀ f ∈ [0x20, 0x30, 4], ((s (q f)).ctxState (.a 0 0)).run = some (q f) ∧ (q f).ker.length ≤ ((q f).step 1).pos ∧
      (s (q f)).holdsBoundary (.a 0 0) (q f) = false) ∧
    ((s (q 0x30)).canReplay 0 rz = true ∧ (s (q 0x20)).canReplay 0 rz = false) ∧
    ((q 0x20).late = false ∧ (q 0x20).lr.bound < (s (q 0x20)).cycle - (q 0x20).spanStart ∧ ¬(q 0x20).total ≤ 1) ∧
    (bitsOf (q 4).lr.flags 2 1 = 1 ∧ ({ q 4 with iter := 1 } : RecRun).iter ≠ (q 4).iter ∧ let k := ((s (q 4)).team 0).ctrl
      k.ended = false ∧ k.late = false ∧ k.bound < (s (q 4)).cycle - k.spanStart) := by decide +kernel

/-- An event; a context that cannot issue; a C word; a word of a resume list; words of A, X and M records. -/
theorem witness_TurnRunsInstruction :
    let at1 (c : Ctx) (s : State) : State := { s with agenda := [{ act := .issue c }] }
    let u (c : Ctx) (s : State) : State := ({ at1 c s with agenda := [], tick := (at1 c s).tick + 1 } : State).beginTurn { act := .issue c }
    let res : State := atX fun g => { g with xctx := { g.xctx with resume := [{ seq := 0, kind := .load, instr := .nop, info := {}, lanes := [] }] } }
    eventRow .heartbeat = true ∧ (u (.c 0) State.reset).canIssue (.c 0) = false ∧
    ((u (.c 0) atC).canIssue (.c 0) = true ∧ ((u (.c 0) atC).team 0).craise = [] ∧ ((u (.c 0) atC).team 0).ctrl.due = false ∧
      ((u (.c 0) atC).entryCause 0 = none) ∧ rightIs ((u (.c 0) atC).fetchWord 0 0x21000) (fun x => x.1 == 0) = true) ∧
    ((match (u (.m 0) atM).issueNext (.m 0) with
      | .run _ _ => true
      | .stop _ => false) = true ∧ (u (.m 0) atM).served (.m 0) = .m 0) ∧
    ((u (.x 0 0) res).canIssue (.x 0 0) = true ∧ ((u (.x 0 0) res).ctxState (.x 0 0)).resume ≠ []) ∧
    (∀ x ∈ [(Ctx.a 0 0, atA), (.x 0 0, atX), (.m 0, atM)], (u x.1 x.2).canIssue x.1 = true ∧ ((u x.1 x.2).ctxState x.1).resume = [] ∧
      ((u x.1 x.2).ctxState x.1).run = some run2 ∧ run2.pos < run2.body.length ∧ ((u x.1 x.2).group 0 0).araise = []) := by decide +kernel

theorem witness_FetchedWord :
    let x : State := atC
    let y : State := { atC with cores := [{ icache := [{ rev := 0, pa := 0x21000, word := 7 }] }] }
    (0x20FFF < 0x20000 + 0x1000) ∧ ((x.inst 0).image.sections.getD 0 (0, 0)) = (0x1000, 0x1000) ∧
    rightIs (x.translate 0 none 0 0x21000 .fetch) (fun r => r.1 == 0x21000 && decide (r.2.failAt 0 0x21000 r.1 = none ∧ r.2.physTarget r.1 = .mem ∧
      r.2.physTarget (r.1 + 3) = .mem ∧ r.2.revs = [] ∧ (r.2.core 0).icache = [])) = true ∧ (x.team 0).rev = 0 ∧
    rightIs (y.translate 0 none 0 0x21000 .fetch) (fun r =>
      decide ((r.2.core 0).icache.find? (fun w => w.rev == 0 && w.pa == r.1) = some { rev := 0, pa := 0x21000, word := 7 })) = true := by
  decide +kernel

/-- A well-formed direct word, template entry and matrix word, and words that decode. -/
theorem witness_EncodingsAgree :
    (Instr.add 5 3 9).wellFormed .c 0 = true ∧ (Instr.vadd { tVec 3 with srcC := 0 } 1).wellFormed .x 32 = true ∧ encode 5 (.vadd { tVec 3 with srcC := 0 } 1) ≠ none ∧
    (∀ m ∈ [Instr.mzero {}], m.wellFormed .m 0 = true ∧ encode 0 m ≠ none) ∧
    decodeDirect .c 0x01143240 = .add 5 3 9 ∧ (∀ c n, Instr.add 5 3 9 ≠ .reservedEncoding c n) := by
  refine ⟨by decide +kernel, by decide +kernel, by decide +kernel, by decide +kernel, by decide +kernel, by simp⟩

/-- Reset, whose step answers a state whatever the schedule; a state with a turn that does. -/
theorem witness_StepKeepsMemoryCanonical :
    let s : State := { atC with agenda := [{ act := .issue (.c 0) }] }
    s.memWf ∧ (match step s with | .next _ => true | _ => false) = true := by
  unfold State.memWf
  decide +kernel

/-! ## Results of single steps, with the values the spec's own tables and examples give -/

/-- A part of the next state. -/
def after {α : Type} (o : Outcome) (f : State → α) : Option α :=
  match o with
  | .next s => some (f s)
  | _ => none

/-- c5 after a C word, c1, c2, … holding the values of the list. -/
def c5 (l : List W64) (i : Instr) : Option W64 := after (exec i (atC (Cs l))) fun s => (s.team 0).cReg 5

/-- 09 R195: wrapping sums and products, signed and unsigned high halves, the corners of division, shift amounts modulo 64. -/
theorem test_integer_words :
    let a : W64 := 0x8000000000000000
    c5 [a, a] (.add 5 1 2) = some 0 ∧ c5 [0, 1] (.sub 5 1 2) = some 0xFFFFFFFFFFFFFFFF ∧ c5 [a, 2] (.mul 5 1 2) = some 0 ∧
    c5 [a, 2] (.mulh 5 1 2) = some 0xFFFFFFFFFFFFFFFF ∧ c5 [a, 2] (.mulhu 5 1 2) = some 1 ∧ c5 [-7, 2] (.div 5 1 2) = some (-3) ∧
    c5 [7, 0] (.div 5 1 2) = some (-1) ∧ c5 [a, -1] (.div 5 1 2) = some a ∧ c5 [7, 0] (.divu 5 1 2) = some 0xFFFFFFFFFFFFFFFF ∧
    c5 [-7, 2] (.rem 5 1 2) = some (-1) ∧ c5 [a, -1] (.rem 5 1 2) = some 0 ∧ c5 [-7, 0] (.remu 5 1 2) = some (-7) := by decide +kernel

theorem test_logic_words :
    c5 [12, 10] (.and 5 1 2) = some 8 ∧ c5 [12, 10] (.or 5 1 2) = some 14 ∧ c5 [12, 10] (.xor 5 1 2) = some 6 ∧
    c5 [3, 65] (.shl 5 1 2) = some 6 ∧ c5 [-8, 1] (.shr 5 1 2) = some 0x7FFFFFFFFFFFFFFC ∧ c5 [-8, 65] (.sar 5 1 2) = some (-4) ∧
    c5 [-1, 1] (.min 5 1 2) = some (-1) ∧ c5 [-1, 1] (.max 5 1 2) = some 1 ∧ c5 [-1, 1] (.minu 5 1 2) = some 1 ∧
    c5 [-1, 1] (.maxu 5 1 2) = some (-1) ∧ c5 [-1, 1] (.slt 5 1 2) = some 1 ∧ c5 [-1, 1] (.sltu 5 1 2) = some 0 ∧
    c5 [4, 4] (.seq 5 1 2) = some 1 ∧ c5 [4, 4] (.sne 5 1 2) = some 0 := by decide +kernel

/-- 09 R196, R197: sign-extended immediates; the four pieces of a constant keep the others. -/
theorem test_immediate_words :
    c5 [3] (.addi 5 1 (-4)) = some (-1) ∧ c5 [0xFF0] (.andi 5 1 (-16)) = some 0xFF0 ∧ c5 [1] (.ori 5 1 0xF00) = some 0xFFFFFFFFFFFFFF01 ∧
    c5 [0] (.xori 5 1 (-1)) = some (-1) ∧ c5 [1] (.shli 5 1 63) = some 0x8000000000000000 ∧ c5 [-1] (.shri 5 1 63) = some 1 ∧
    c5 [-4] (.sari 5 1 1) = some (-2) ∧ c5 [-1] (.slti 5 1 0) = some 1 ∧ c5 [] (.limm 5 (-2)) = some (-2) ∧
    c5 [0, 0, 0, 0, -1] (.limmh 5 0) = some 0xFFFFFFF00003FFFF ∧ c5 [0, 0, 0, 0, -1] (.limmx 5 0) = some 0xFFC0000FFFFFFFFF ∧
    c5 [0, 0, 0, 0, -1] (.limmt 5 0) = some 0x003FFFFFFFFFFFFF := by decide +kernel

/-- 08 R175, R183, 09 R198 to R200: binary32 words on 1.0, 2.0, 0.5, −0, NaN; conversions. -/
theorem test_scalar_float_words :
    c5 [0x3F800000, 0x40000000] (.fadd 5 1 2 false 0) = some 0x40400000 ∧ c5 [0xFFFFFFFF3F800000, 0x3F800000] (.fsub 5 1 2 false 0) = some 0 ∧
    c5 [0x3F000000, 0x40000000] (.fmul 5 1 2 false 0) = some 0x3F800000 ∧
    c5 [0x40000000, 0x40000000, 0, 0, 0x3F800000] (.ffma 5 1 2 false 0) = some 0x40A00000 ∧
    c5 [0x7FA00001, 0x40000000] (.fadd 5 1 2 false 0) = some 0x7FC00000 ∧ c5 [0x80000000, 0] (.fcmp 5 1 2 0) = some 1 ∧
    c5 [0x7FC00000, 0] (.fcmp 5 1 2 3) = some 1 ∧ c5 [0x7FC00000, 0] (.fcmp 5 1 2 1) = some 0 ∧ c5 [0x7FC00000, 0] (.fcmp 5 1 2 4) = some 1 ∧
    c5 [0xC0200000] (.fcvt 5 1 0 3 false 0) = some (-2) ∧ c5 [0x7F800000] (.fcvt 5 1 0 3 true 0) = some 0x7FFFFFFF ∧
    c5 [-1] (.fcvt 5 1 6 0 false 0) = some 0x5F800000 ∧ c5 [0x3F800000] (.fcvt 5 1 0 1 false 0) = some 0x3C00 := by decide +kernel

/-- The C stream's next word and c62 after a C word at 0x21000. -/
def flow (l : List W64) (i : Instr) (st : List W64 := []) : Option (Nat × W64) :=
  after (exec i (atC fun t => { Cs l t with ctrl.stack := st })) fun s => ((s.team 0).ctrl.pc, (s.team 0).cReg 62)

/-- 09 R201, R202: branches, `brx` clamped to its table, `loop` at 0, 1 and 2, calls and returns. -/
theorem test_control_flow_words :
    flow [3, 3] (.beq 1 2 4) = some (0x21010, 0) ∧ flow [3, 3] (.bne 1 2 4) = some (0x21004, 0) ∧ flow [-1, 1] (.blt 1 2 4) = some (0x21010, 0) ∧
    flow [-1, 1] (.bltu 1 2 4) = some (0x21004, 0) ∧ flow [9] (.brx 1 3) = some (0x2100C, 0) ∧ flow [0x21020] (.jr 1) = some (0x21020, 0) ∧
    flow [0] (.loop 1 4) = some (0x21004, 0) ∧ flow [1] (.loop 1 4) = some (0x21004, 0) ∧ flow [2] (.loop 1 4) = some (0x21010, 0) ∧
    flow [] (.call 4) = some (0x21010, 0x21004) ∧ flow [] .ret [0x21008, 0x21040] = some (0x21008, 0x21040) ∧
    after (exec .ret (atC id)) (fun s => (s.team 0).frame.cause) = some 0x049 ∧
    after (exec (.b 0x1000) (atC id)) (fun s => (s.team 0).frame.cause) = some 0x041 := by decide +kernel

/-- 09 R203, R218, R219: loop registers and barriers. -/
theorem test_control_words :
    after (exec (.lset 3 0 16) (atC id)) (fun s => (s.team 0).lcReg 3) = some 16 ∧
    after (exec (.barInit 1 2) (atC (Cs [9, 2]))) (fun s => (s.barrier 0 9).map fun b => (b.count, b.arrived)) = some (some (2, 0)) ∧
    after (exec (.lset 8 0 16) (atC id)) (fun s => (s.team 0).frame.cause) = some 0x041 := by decide +kernel

/-- c5 and the word at 0x60000 after a memory word, c1 = 0x60000 and the word there 7. -/
def memory (i : Instr) (l : List W64) : Option (W64 × List Byte) :=
  after (exec i { atC (Cs (0x60000 :: l)) with mem := mem0.writeN 0x60000 8 7 }) fun s =>
    ((s.team 0).cReg 5, rightIs (s.translate 0 none 0 0x60000 .read) (fun _ => true) |> fun ok =>
      if ok then (memBytes s 0x60000) else [])
where
  memBytes (s : State) (a : Nat) : List Byte :=
    match s.coreRead 0 a a 8 with
    | .ok bs _ => bs
    | _ => []

/-- 09 R215, R216: a load, a store of 8 bytes in little-endian order, a fetch-and-add; an address of 51 bits or unaligned traps. -/
theorem test_memory_words :
    memory (.cld 5 1 0) [] = some (7, [7, 0, 0, 0, 0, 0, 0, 0]) ∧
    memory (.cst 2 1 0) [0x0102030405060708] = some (0, [8, 7, 6, 5, 4, 3, 2, 1]) ∧
    after (exec (.cld 5 1 4) (atC (Cs [0x60000]))) (fun s => (s.team 0).frame.cause) = some 0x0C1 ∧
    after (exec (.cld 5 1 0) (atC (Cs [0x8000000000000]))) (fun s => (s.team 0).frame.cause) = some 0x101 := by decide +kernel

/-- The body of 10's worked example: p2 = 0xF, q0's head holding 1.5, −3.25, 200.0 and NaN. -/
def worked (f : Group → Group := id) : State := atX fun g => f { g with
  p := [0, 0, 0xF],
  queues := [{ depth := 4, f := 1, tail := 1, slots := { lanes := [0x3FC00000, 0xC0500000, 0x43480000, 0x7FA00001], valid := 0xF } :: List.replicate 3 {} },
    {}, {}, {}, {}, {}, {}, {}, { depth := 4, slots := List.replicate 4 {} }] }

/-- An X word of an entry of 128 bits under predicate p2, and what it leaves in the group. -/
def runX {α : Type} (e : W128) (s : State) (f : Group → α) : Option α :=
  after (exec (decodeWords .x 32 (fun _ => some e) [0x80020000]).1 s) fun s => f (s.group 0 0)

/-- 10's worked example: `vfmul` by 2.0, `vcvt` to INT8 with saturation, `qpush` and `vred`. -/
theorem test_worked_execute_body :
    runX 0x220440C0000004044000000000000000 worked (fun g => ((List.range 4).map (lane (g.vReg 1)), (Team.queue g 0).f, (Team.queue g 0).head)) =
      some ([0x40400000, 0xC0D00000, 0x43C80000, 0x7FC00000], 0, 1) ∧
    runX 0x310801000000400000000000000A0000 (worked fun g => { g with v := [[], [0x40400000, 0xC0D00000, 0x43C80000, 0x7FC00000, 9]] })
      (fun g => (List.range 5).map (lane (g.vReg 2))) = some [3, 0xFFFFFFFA, 0x7F, 0, 0] ∧
    runX 0x46210200000000400000000000000000 (worked fun g => { g with v := [[], [], [3, 0xFFFFFFFA, 0x7F, 0]] })
      (fun g => ((Team.queue g 8).f, ((Team.queue g 8).slots.headD {}).lanes.take 4, ((Team.queue g 8).slots.headD {}).mask)) =
      some (1, [3, 0xFFFFFFFA, 0x7F, 0], 0xF) ∧
    runX 0x420E0200004000000000000000000000 (worked fun g => { g with v := [[], [], [3, 0xFFFFFFFA, 0x7F, 0]] }) (fun g => g.sReg 3) = some 0x7C := by
  decide +kernel

/-- 08 R183, R185: the examples of `vcvt` without saturation and of `vred` over 1.0, 2^24, 1.0, −2^24. -/
theorem test_conversion_and_tree :
    runX 0x310801000000000000000000000A0000 (worked fun g => { g with v := [[], [0x43964000, 0xC3010000, 0x7F800000, 0x7FC00000]] })
      (fun g => (List.range 4).map (lane (g.vReg 2))) = some [44, 127, 0, 0] ∧
    runX 0x31080100000000000000000000030000 (worked fun g => { g with v := [[], [0x43964000, 0xC3010000, 0x7F800000, 0x7FC00000]] })
      (fun g => (List.range 4).map (lane (g.vReg 2))) = some [0x79, 0xF0, 0x7F, 0x7F] ∧
    runX 0x31080100000040000000000000030000 (worked fun g => { g with v := [[], [0x43964000, 0xC3010000, 0x7F800000, 0x7FC00000]] })
      (fun g => (List.range 4).map (lane (g.vReg 2))) = some [0x79, 0xF0, 0x7E, 0x7F] ∧
    runX 0x420E0200000000000000000000000000 (worked fun g => { g with v := [[], [], [0x3F800000, 0x4B800000, 0x3F800000, 0xCB800000]] })
      (fun g => g.sReg 3) = some 0x3F800000 := by decide +kernel

/-- 08 R182: saturating and wrapping integer lanes; an inactive lane keeps its bits. -/
theorem test_integer_lanes :
    let v : List Lanes := [[], [0x7FFFFFFF, 5, 1], [1, 0xFFFFFFFE, 1]]
    runX 0x000C0102004000000000000000000000 (atX fun g => { g with p := [0, 0, 3], v := v }) (fun g => (List.range 3).map (lane (g.vReg 3))) =
      some [0x80000000, 3, 0] ∧
    runX 0x000C0102004040000000000000000000 (atX fun g => { g with p := [0, 0, 3], v := v }) (fun g => (List.range 3).map (lane (g.vReg 3))) =
      some [0x7FFFFFFF, 3, 0] := by decide +kernel

/-- 07 R162: the example's signature. -/
theorem test_signature : sigWords false 0 [0x80000000, 0x80030000] = 0x80030010 := by decide +kernel

/-- 20 R448, R455: a trap under HANDLER enters the handler with the frame of its cause. -/
theorem test_trap_enters_handler :
    let s : State := { atC id with insts := [{ st := .running, image := image0, card := { disposition := 0x10000000000000, handlerRecord := 3 },
                                               handlerRec := { proOff := 16 } }] }
    after (exec (.trap 2) s) (fun s => ((s.team 0).ctrl.pc, (s.team 0).frame.pc, (s.team 0).handler.map (·.savedPc))) =
      some (0x21040, 0x21000, some 0x21000) := by decide +kernel

/-- 10 R248: the example of `vpack.e2m1.f32`: bytes 0xA2 and 0x07. -/
theorem test_pack :
    after (exec (decodeWords .x 32 (fun _ => some 0x32180500000000000000000000070000) [0x80000000]).1
      (atX fun g => { g with v := [[], [], [], [], [], [0x3F800000, 0xBF400000, 0x41100000, 0x7FC00000]] }))
      (fun s => lane ((s.group 0 0).vReg 6) 0) = some 0x07A2 := by decide +kernel

/-- 11's example: `st` of 7 and 9 to one word leaves 9, the lanes stored in ascending order. -/
theorem test_store_order :
    let s : State := atA fun g => { g with
      g := [0, 0, 0, 0, 0, 0x60000], tr := List.replicate 32 { limit := 2 ^ 51 },
      queues := List.replicate 8 {} ++ [{ depth := 4, f := 1, tail := 1, slots := { lanes := [7, 9], mask := 3 } :: List.replicate 3 {} }] }
    after (exec (decodeWords .a 32 (fun _ => some 0x54008580484004100000000000000000) [0x80000000]).1 s)
      (fun s => match s.coreRead 0 0x60000 0x60000 4 with | .ok bs _ => bs | _ => []) = some [9, 0, 0, 0] := by decide +kernel

/-- 02 R43, R44: a submit of a job that the table does not hold, a reserved OP, and a withdraw of a card not accepted. -/
theorem test_submission_codes :
    let code (s : State) : List (Nat × Nat) := ((s.page 0).results ++ (s.page 0).prep).map fun r => (r.seq, r.code)
    after (exec .submit (atSubmit 5 0)) code = some [(0, 17)] ∧ after (exec .submit (atSubmit 0x80000000 0)) code = some [(0, 16)] ∧
    after (exec .withdraw (atSubmit 0x40000000 0)) code = some [(0, 19)] ∧
    after (exec .submit (atSubmit 0 16)) (fun s => ((s.page 0).overflow, (s.page 0).seq)) = some (true, 0) := by decide +kernel

/-- 21 R480: the third miss in a row of a memory controller declares it failed, which is fatal. -/
theorem test_heartbeat_miss :
    let s (m : Nat) : State := { State.reset with ev := { unit := .memCtl 0 }, lodge.hearts := [{ unit := .memCtl 0, seq := some 4, missed := m }] }
    after (exec .heartbeatMiss (s 1)) (fun s => ((s.heart (.memCtl 0)).missed, s.lodge.fatal)) = some (2, false) ∧
    after (exec .heartbeatMiss (s 2)) (fun s => ((s.heart (.memCtl 0)).failed, s.lodge.fatal)) = some (true, true) := by decide +kernel

end Sys2Proof.Tests
end

section
/-!
PROOFS. Copy channels: the fetch, the rotation, each command and its completion (14 R339 to R355, 03 R82, 21 R476).
-/
namespace Sys2Proof.Placement
open Sys2Proof Sys2Proof.Machine

/-! ## Releases keep the revision a team works in

The exhaustion of the redundancy store adds a cause to a team (20 R465), so a write at home may change a team, but not its revision. -/

theorem exhaust_rev (s : State) (rv : Revision) (t : Nat) : ((s.exhaust rv).team t).rev = (s.team t).rev := by
  unfold State.exhaust
  split
  · rfl
  · simp only [State.team_modTeam]
    split <;> simp [*]

theorem keepLine_rev (s : State) (rv : Revision) (f : Revision → Revision) (t : Nat) :
    ((s.keepLine rv f).team t).rev = (s.team t).rev := by
  unfold State.keepLine
  dsimp only
  split <;> rfl

theorem retain_rev (s : State) (pid rev va pa t : Nat) : ((s.retain pid rev va pa).team t).rev = (s.team t).rev := by
  unfold State.retain
  refine List.foldlRecOn (motive := fun u : State => (u.team t).rev = (s.team t).rev) _ _ rfl fun u hu rv _ => ?_
  split
  · rw [keepLine_rev, hu]
  · rw [exhaust_rev, hu]

theorem baseWrite_rev (s : State) (pa : Nat) (v : Byte) (t : Nat) : ((s.baseWrite pa v).team t).rev = (s.team t).rev := by
  unfold State.baseWrite
  split
  case h_3 => rfl
  all_goals split <;> rfl

theorem revWrite_rev (s : State) (pid n r va pa : Nat) (v : Byte) (t : Nat) :
    ((s.revWrite pid n r va pa v).team t).rev = (s.team t).rev := by
  induction n generalizing s r with
  | zero => exact baseWrite_rev ..
  | succ n ih =>
    have keep : ((s.retain pid r va pa).team t).rev = (s.team t).rev := retain_rev ..
    unfold State.revWrite
    dsimp only
    split
    · rw [baseWrite_rev, keep]
    · split
      · split
        · exact keep
        · split
          · rw [keepLine_rev, keep]
          · rw [exhaust_rev, keep]
      · rw [ih, keep]

theorem touchAcc_rev (s : State) (rev va pa n t : Nat) : ((s.touchAcc rev va pa n).team t).rev = (s.team t).rev := by
  unfold State.touchAcc
  split <;> rfl

theorem homeWrite_rev (s : State) (pid rev va pa : Nat) (v : Byte) (t : Nat) :
    ((s.homeWrite pid rev va pa v).team t).rev = (s.team t).rev := by
  rw [State.homeWrite, revWrite_rev, touchAcc_rev]

theorem writeBackAll_rev (s : State) (bs : List L1Byte) (t : Nat) : ((s.writeBackAll bs).team t).rev = (s.team t).rev := by
  induction bs generalizing s with
  | nil => rfl
  | cons b bs ih =>
    unfold State.writeBackAll
    split
    · rw [ih]
      simp only [State.team, State.quarantine_teams]
    · rw [ih, homeWrite_rev]

theorem releaseAt_rev (s : State) (k scope t : Nat) : ((s.releaseAt k scope).team t).rev = (s.team t).rev := by
  unfold State.releaseAt
  split
  · exact writeBackAll_rev ..
  · rfl

/-! ## Reading a command (14 R341, R345) -/

/-- Closing accumulators leaves the tables that the checks of a command read. -/
@[simp] theorem engTouch_teams (s : State) (pid rev va n : Nat) : (s.engTouch pid rev va n).teams = s.teams := by
  unfold State.engTouch
  split <;> rfl

@[simp] theorem engTouch_insts (s : State) (pid rev va n : Nat) : (s.engTouch pid rev va n).insts = s.insts := by
  unfold State.engTouch
  split <;> rfl

section Fetch
variable {s : State} {k ch t : Nat} (hst : ((s.core k).chan ch).st = .running) (hcmd : ((s.core k).chan ch).cmd = none)
  (hend : ((s.core k).chan ch).ending = false) (hown : ((s.core k).chan ch).owner = some t)
include hst hcmd hend hown

theorem chanFetch_withdrawn (hw : ((s.core k).chan ch).withdrawn = true) :
    s.chanFetch k ch = s.chanError k ch t ((s.core k).chan ch).fetch { cause := 0x148 } := by
  simp [State.chanFetch, hst, hcmd, hend, hown, hw]

variable (hw : ((s.core k).chan ch).withdrawn = false)
include hw

theorem chanFetch_held {w : Nat × Nat} (hh : s.heldByOther (s.pidOf t) ((s.core k).chan ch).fetch 32 k ch = some w) :
    s.chanFetch k ch = s.modChan k ch fun x => { x with heldOn := some w } := by
  simp [State.chanFetch, hst, hcmd, hend, hown, hw, hh]

variable (hh : s.heldByOther (s.pidOf t) ((s.core k).chan ch).fetch 32 k ch = none)
include hh

theorem chanFetch_failed {e : MErr} (hr : s.engRead (s.pidOf t) (s.team t).rev ((s.core k).chan ch).fetch 32 = .inl e) :
    s.chanFetch k ch = s.chanFail k ch t ((s.core k).chan ch).fetch e := by
  simp [State.chanFetch, hst, hcmd, hend, hown, hw, hh, hr]

theorem chanFetch_read {bs : List Byte} (hr : s.engRead (s.pidOf t) (s.team t).rev ((s.core k).chan ch).fetch 32 = .inr bs) :
    let c := parseCopy ((s.core k).chan ch).fetch bs
    let u := (s.engTouch (s.pidOf t) (s.team t).rev ((s.core k).chan ch).fetch 32).modChan k ch fun h => { h with
      heldOn := none, cmd := some c, fetch := h.fetch + 32, row := 0, pos := 0, acquired := false, lines := [], ringSlot := none,
      written := false, st := if c.op = 1 then .waiting else .running }
    s.chanFetch k ch = if c.bad ((s.core k).chan ch) (s.team t) (s.inst (s.team t).inst).image.scratchBytes then
      u.chanError k ch t c.addr { cause := 0x04C, vaddr := c.addr } else u := by
  intro c u
  have team : u.team t = s.team t := by simp [u, State.team, State.modChan, State.modCore]
  have inst : u.inst (s.team t).inst = s.inst (s.team t).inst := by simp [u, State.inst, State.modChan, State.modCore]
  simp only [State.chanFetch, hst, hcmd, hend, hown, hw, hh, hr, Option.isNone_none, Bool.not_false, beq_self_eq_true, Bool.and_self,
    Bool.false_eq_true, if_false]
  change (if c.bad _ (u.team t) (u.inst (u.team t).inst).image.scratchBytes then _ else _) = _
  rw [team, inst]
end Fetch

/-- A fetch by its outcomes: the window withdrawn, the read held, failed, or made. -/
theorem copyFetchEvent : Claims.CopyFetchEvent := by
  intro s t k ch h pid rev held hst hcmd hend hown
  exact ⟨fun hw => congrArg Host.Outcome.next (chanFetch_withdrawn hst hcmd hend hown hw),
    fun w hw hh => congrArg Host.Outcome.next (chanFetch_held hst hcmd hend hown hw hh),
    fun e hw hh hr => congrArg Host.Outcome.next (chanFetch_failed hst hcmd hend hown hw hh hr),
    fun bs hw hh hr => congrArg Host.Outcome.next (chanFetch_read hst hcmd hend hown hw hh hr)⟩

/-! ## The rotation (14 R339) -/

theorem copyPick_inRow {s : State} {k ch : Nat} (hch : ch < 8) (hready : s.copyReady k ch = true)
    (hrow : ((s.core k).chan ch).pos ≠ 0)
    (hfirst : ∀ c < 8, s.copyReady k c = true → ((s.core k).chan c).pos ≠ 0 → ch ≤ c) : s.copyPick k = some ch := by
  have found : ((List.range 8).filter fun c => s.copyReady k c).find? (fun c => ((s.core k).chan c).pos != 0) = some ch := by
    rw [List.find?_filter, List.find?_range_eq_some]
    refine ⟨by simp [hready, hrow], List.mem_range.mpr hch, fun j hj => ?_⟩
    have := hfirst j (by omega)
    simp only [bne_iff_ne, Bool.not_eq_true', decide_eq_false_iff_not]
    rintro ⟨hr, hp⟩
    exact absurd (this hr hp) (by omega)
  simp only [State.copyPick, found]

/-- The place of a channel in the rotation after the channel served last. -/
def place (s : State) (k c : Nat) : Nat := (c + 8 - ((s.core k).lastChan + 1) % 8) % 8

theorem rotation_place (s : State) (k : Nat) {c : Nat} (hc : c < 8) : ((s.core k).lastChan + 1 + place s k c) % 8 = c := by
  unfold place; omega

theorem place_rotation (s : State) (k : Nat) {j : Nat} (hj : j < 8) : place s k (((s.core k).lastChan + 1 + j) % 8) = j := by
  unfold place; omega

theorem copyPick_next {s : State} {k ch : Nat} (hch : ch < 8) (hready : s.copyReady k ch = true)
    (hrow : ∀ c < 8, s.copyReady k c = true → ¬((s.core k).chan c).pos ≠ 0)
    (hfirst : ∀ c < 8, s.copyReady k c = true → place s k ch ≤ place s k c) : s.copyPick k = some ch := by
  have noneInRow : ((List.range 8).filter fun c => s.copyReady k c).find? (fun c => ((s.core k).chan c).pos != 0) = none := by
    rw [List.find?_eq_none]
    intro c hc
    obtain ⟨hlt, hr⟩ := List.mem_filter.mp hc
    simpa using hrow c (List.mem_range.mp hlt) hr
  have hplace : place s k ch < 8 := Nat.mod_lt _ (by decide)
  have found : (List.range 8).find? ((fun c => ((List.range 8).filter fun c => s.copyReady k c).contains c) ∘
      fun j => ((s.core k).lastChan + 1 + j) % 8) = some (place s k ch) := by
    rw [List.find?_range_eq_some]
    refine ⟨by simp [rotation_place s k hch, hch, hready], List.mem_range.mpr hplace, fun j hj => ?_⟩
    have later := hfirst (((s.core k).lastChan + 1 + j) % 8) (Nat.mod_lt _ (by decide))
    rw [place_rotation s k (by omega)] at later
    simp only [Function.comp_apply, List.contains_eq_mem, List.mem_filter, Bool.not_eq_true', decide_eq_false_iff_not]
    exact fun hr => absurd (later hr.2) (by omega)
  simp only [State.copyPick, noneInRow, List.find?_map, found, Option.map_some, rotation_place s k hch]

/-- The pick by its two searches: among the channels within a row, then in rotation. -/
theorem copyRotation : Claims.CopyRotation := fun _ _ _ hch hready =>
  ⟨fun hrow hfirst => copyPick_inRow hch hready hrow hfirst, fun hrow hfirst => copyPick_next hch hready hrow hfirst⟩

/-! ## The command in progress of the event's channel -/

/-- The channel of the event has the command `c` of team `t` in progress, and its writes are not all made. -/
structure InProgress (s : State) (t : Nat) (c : CopyCmd) (h : Chan) : Prop where
  chan : (s.core s.ev.core).chan s.ev.ch = h
  cmd : h.cmd = some c
  owner : h.owner = some t
  st : h.st = .running ∨ h.st = .waiting
  written : h.written = false
  ending : h.ending = false

/-- The event of the command's own opcode takes its step. -/
theorem InProgress.chanStep {s : State} {t : Nat} {c : CopyCmd} {h : Chan} (hp : InProgress s t c h) {op : Nat} (hop : c.op = op)
    (f : State → Nat → Nat → Nat → Chan → CopyCmd → State) : s.chanStep op f = f s s.ev.core s.ev.ch t h c := by
  obtain ⟨rfl, hcmd, hown, hst, hwritten, hend⟩ := hp
  rcases hst with hst | hst <;> simp [State.chanStep, hcmd, hown, hst, hop, hwritten, hend]

/-! ## COPY (14 R339, R343, R346, R347, R349 to R353) -/

/-- A channel that cannot reserve its ring slot is not ready. -/
theorem copyReady_of_reserve_none {s : State} {k ch t : Nat} {h : Chan} {c : CopyCmd} (hchan : (s.core k).chan ch = h)
    (hcmd : h.cmd = some c) (hown : h.owner = some t) (hres : s.copyReserve k ch t h c = none) : s.copyReady k ch = false := by
  simp [State.copyReady, hchan, hcmd, hown, hres]

/-- The writes of one turn of a COPY: one segment of a row, or every row of a TRANS command. -/
def copyWrites (v : State) (k ch t : Nat) (h : Chan) (c : CopyCmd) : Sum MErr State :=
  let slot := (((v.core k).chan ch).ringSlot).getD 0
  if c.trans then
    match v.copyRows t c c.rows 0 with
    | .inl e => .inl e
    | .inr rows => v.copyPutRows t c slot rows c.dstRows 0
  else
    match v.copySource t c h.row (h.pos / c.outW * c.inW) ((c.segEnd h.pos - h.pos) / c.outW * c.inW) with
    | .inl e => .inl e
    | .inr bs => v.copyPut t c slot h.row h.pos (c.stages bs)

section CopyWrites
variable {v : State} {k ch t : Nat} {h : Chan} {c : CopyCmd}

theorem copyWrites_segment_unread {e : MErr} (htr : c.trans = false)
    (hsrc : v.copySource t c h.row (h.pos / c.outW * c.inW) ((c.segEnd h.pos - h.pos) / c.outW * c.inW) = .inl e) :
    copyWrites v k ch t h c = .inl e := by simp [copyWrites, htr, hsrc]

theorem copyWrites_segment {bs : List Byte} (htr : c.trans = false)
    (hsrc : v.copySource t c h.row (h.pos / c.outW * c.inW) ((c.segEnd h.pos - h.pos) / c.outW * c.inW) = .inr bs) :
    copyWrites v k ch t h c = v.copyPut t c ((((v.core k).chan ch).ringSlot).getD 0) h.row h.pos (c.stages bs) := by
  simp [copyWrites, htr, hsrc]

theorem copyWrites_trans_unread {e : MErr} (htr : c.trans = true) (hrows : v.copyRows t c c.rows 0 = .inl e) :
    copyWrites v k ch t h c = .inl e := by simp [copyWrites, htr, hrows]

theorem copyWrites_trans {rows : List (List Byte)} (htr : c.trans = true) (hrows : v.copyRows t c c.rows 0 = .inr rows) :
    copyWrites v k ch t h c = v.copyPutRows t c ((((v.core k).chan ch).ringSlot).getD 0) rows c.dstRows 0 := by
  simp [copyWrites, htr, hrows]
end CopyWrites

/-- The state in which a COPY that has its ring slot makes its accesses: after its acquire. -/
def copyStart (u : State) (k ch : Nat) (h : Chan) (c : CopyCmd) : State := if h.acquired then u else u.copyAcquire k ch c

section CopyStep
variable {s : State} {k ch t : Nat} {h : Chan} {c : CopyCmd}

theorem copyStep_unpicked (hready : s.copyReady k ch = true) (hpick : s.copyPick k ≠ some ch) : s.copyStep k ch t h c = s := by
  simp [State.copyStep, hready, hpick]

theorem copyStep_unreserved (hready : s.copyReady k ch = false) (hres : s.copyReserve k ch t h c = none) : s.copyStep k ch t h c = s := by
  simp [State.copyStep, hready, hres]

variable {u : State} (hturn : s.copyReady k ch = true → s.copyPick k = some ch) (hres : s.copyReserve k ch t h c = some u)
include hturn hres

/-- A served COPY fails under a withdrawn window, waits for a window of another channel, or makes its writes. -/
theorem copyStep_served : s.copyStep k ch t h c =
    let v := copyStart u k ch h c
    if h.withdrawn then v.chanError k ch t c.addr { cause := 0x148 }
    else match v.copyHeld k ch t h.row h.pos c with
    | some w => v.modChan k ch fun x => { x with heldOn := some w }
    | none => match copyWrites v k ch t h c with
      | .inl e => v.chanFail k ch t c.addr e
      | .inr x => ((x.copyTouch t h c).copyAdvance k ch t h c).modCore k fun y => { y with lastChan := ch } := by
  have served : ¬(s.copyReady k ch && s.copyPick k != some ch) = true := by simpa using hturn
  rw [State.copyStep, if_neg served, hres]
  rfl

variable {v : State} (hv : copyStart u k ch h c = v)
include hv

theorem copyStep_withdrawn (hw : h.withdrawn = true) : s.copyStep k ch t h c = v.chanError k ch t c.addr { cause := 0x148 } := by
  simp only [copyStep_served hturn hres, hv, hw, if_true]

variable (hw : h.withdrawn = false)
include hw

theorem copyStep_held {w : Nat × Nat} (hh : v.copyHeld k ch t h.row h.pos c = some w) :
    s.copyStep k ch t h c = v.modChan k ch fun x => { x with heldOn := some w } := by
  simp only [copyStep_served hturn hres, hv, hw, Bool.false_eq_true, if_false, hh]

variable (hh : v.copyHeld k ch t h.row h.pos c = none)
include hh

theorem copyStep_failed {e : MErr} (hx : copyWrites v k ch t h c = .inl e) : s.copyStep k ch t h c = v.chanFail k ch t c.addr e := by
  simp only [copyStep_served hturn hres, hv, hw, Bool.false_eq_true, if_false, hh, hx]

theorem copyStep_moved {x : State} (hx : copyWrites v k ch t h c = .inr x) :
    s.copyStep k ch t h c = ((x.copyTouch t h c).copyAdvance k ch t h c).modCore k fun y => { y with lastChan := ch } := by
  simp only [copyStep_served hturn hres, hv, hw, Bool.false_eq_true, if_false, hh, hx]
end CopyStep

/-- A COPY that is not picked or has no slot keeps the state; a served one is decided by its window and its writes. -/
theorem copyEvent : Claims.CopyEvent := by
  intro s t c k ch h hcmd hown hst hop hwritten hend
  have prog : InProgress s t c h := ⟨rfl, hcmd, hown, .inl hst, hwritten, hend⟩
  have step : exec .copy s = .next (s.copyStep k ch t h c) := congrArg Host.Outcome.next (prog.chanStep hop _)
  refine ⟨fun hready hpick => step.trans (congrArg _ (copyStep_unpicked hready hpick)), fun hres => ?_, fun u hturn hres => ?_⟩
  · exact step.trans (congrArg _ (copyStep_unreserved (copyReady_of_reserve_none rfl hcmd hown hres) hres))
  intro v slot q fails moved
  have failed {e : MErr} (hw hh) (hx : copyWrites v k ch t h c = .inl e) : fails e :=
    step.trans (congrArg _ (copyStep_failed hturn hres rfl hw hh hx))
  have done {x : State} (hw hh) (hx : copyWrites v k ch t h c = .inr x) : moved x :=
    step.trans (congrArg _ (copyStep_moved hturn hres rfl hw hh hx))
  exact ⟨fun hw => step.trans (congrArg _ (copyStep_withdrawn hturn hres rfl hw)),
    fun w hw hh => step.trans (congrArg _ (copyStep_held hturn hres rfl hw hh)),
    fun hw hh htr => ⟨fun e hsrc => failed hw hh (copyWrites_segment_unread htr hsrc), fun bs hsrc =>
      ⟨fun e hput => failed hw hh ((copyWrites_segment htr hsrc).trans hput),
        fun x hput => done hw hh ((copyWrites_segment htr hsrc).trans hput)⟩⟩,
    fun hw hh htr => ⟨fun e hrows => failed hw hh (copyWrites_trans_unread htr hrows), fun rows hrows =>
      ⟨fun e hput => failed hw hh ((copyWrites_trans htr hrows).trans hput),
        fun x hput => done hw hh ((copyWrites_trans htr hrows).trans hput)⟩⟩⟩

/-! ## WAIT and POST (14 R348, R352) -/

section Wait
variable {s : State} {k ch t : Nat} {h : Chan} {c : CopyCmd}

theorem waitStep_withdrawn (hw : h.withdrawn = true) : s.waitStep k ch t h c = s.chanError k ch t c.addr { cause := 0x148 } := by
  simp [State.waitStep, hw]

theorem postStep_withdrawn (hw : h.withdrawn = true) : s.postStep k ch t h c = s.chanError k ch t c.addr { cause := 0x148 } := by
  simp [State.postStep, hw]

variable (hw : h.withdrawn = false)
include hw

theorem waitStep_held {w : Nat × Nat} (hh : s.heldByOther (s.pidOf t) c.srcAddr 8 k ch = some w) :
    s.waitStep k ch t h c = s.modChan k ch fun x => { x with heldOn := some w } := by
  simp [State.waitStep, hw, hh]

theorem postStep_held {w : Nat × Nat} (hh : s.heldByOther (s.pidOf t) c.srcAddr 8 k ch = some w) :
    s.postStep k ch t h c = s.modChan k ch fun x => { x with heldOn := some w } := by
  simp [State.postStep, hw, hh]

variable (hh : s.heldByOther (s.pidOf t) c.srcAddr 8 k ch = none)
include hh

theorem waitStep_failed {e : MErr} (hr : s.engRead (s.pidOf t) (s.team t).rev c.srcAddr 8 = .inl e) :
    s.waitStep k ch t h c = s.chanFail k ch t c.addr e := by
  simp [State.waitStep, hw, hh, hr]

theorem waitStep_read {bs : List Byte} (hr : s.engRead (s.pidOf t) (s.team t).rev c.srcAddr 8 = .inr bs) :
    let u := (s.engTouch (s.pidOf t) (s.team t).rev c.srcAddr 8).modChan k ch fun x => { x with heldOn := none }
    s.waitStep k ch t h c = if natOfBytes bs < c.dst then u
      else (if c.flag 4 then u.acquireAt k c.scope else u).modChan k ch fun h => { h with written := true, st := .running } := by
  simp [State.waitStep, hw, hh, hr]

theorem postStep_untranslated {e : MErr} (ht : s.engTranslate (s.pidOf t) c.srcAddr .atomic = .inl e) :
    s.postStep k ch t h c = s.chanFail k ch t c.addr e := by
  simp [State.postStep, hw, hh, ht]

variable {pa : Nat} (ht : s.engTranslate (s.pidOf t) c.srcAddr .atomic = .inr pa)
include ht

theorem postStep_failed {x : Cause} (hf : s.engTargetFail (s.team t).rev c.srcAddr pa = some x) :
    s.postStep k ch t h c = s.chanFail k ch t c.addr (engFail x c.srcAddr pa .atomic) := by
  simp [State.postStep, hw, hh, ht, hf]

/-- The add is made in the revision of the team, which the release before it keeps. -/
theorem postStep_added (hf : s.engTargetFail (s.team t).rev c.srcAddr pa = none) {u : State}
    (hu : (if c.flag 5 then s.releaseAt k c.scope else s).counterAdd (s.pidOf t) (s.team t).rev c.srcAddr (BitVec.ofNat 64 c.dst) =
      .inr u) :
    s.postStep k ch t h c = u.modChan k ch fun h => { h with written := true, heldOn := none } := by
  have rev : ((if c.flag 5 then s.releaseAt k c.scope else s).team t).rev = (s.team t).rev := by
    split
    · exact releaseAt_rev ..
    · rfl
  simp [State.postStep, hw, hh, ht, hf, rev, hu]
end Wait

/-! ## STATUS, STOP and ARM (14 R340, R341, R349, R351, R352, R354) -/

section Status
variable {s : State} {k ch t : Nat} {h : Chan} {c : CopyCmd} {go : State → State}

theorem withStatus_withdrawn (hw : h.withdrawn = true) :
    s.withStatus k ch t h c go = s.chanError k ch t c.addr { cause := 0x148 } := by
  simp [State.withStatus, hw]

variable (hw : h.withdrawn = false)
include hw

theorem withStatus_held {w : Nat × Nat} (hh : s.statusHeld k ch t c.addr = some w) :
    s.withStatus k ch t h c go = s.modChan k ch fun x => { x with heldOn := some w } := by
  simp [State.withStatus, hw, hh]

variable (hh : s.statusHeld k ch t c.addr = none)
include hh

theorem withStatus_failed {e : MErr} (he : s.statusErr t c.addr = some e) :
    s.withStatus k ch t h c go = s.chanFail k ch t c.addr e := by
  simp [State.withStatus, hw, hh, he]

theorem withStatus_free (he : s.statusErr t c.addr = none) :
    s.withStatus k ch t h c go = go (s.modChan k ch fun x => { x with heldOn := none }) := by
  simp [State.withStatus, hw, hh, he]
end Status

theorem chainEnd_idle {s : State} {k ch : Nat} {h : Chan} (hn : h.next = none) :
    s.chainEnd k ch h = s.modChan k ch fun h => { h with cmd := none, st := .idle, owner := none } := by
  simp [State.chainEnd, hn]

theorem chainEnd_next {s : State} {k ch a : Nat} {h : Chan} (hn : h.next = some a) :
    s.chainEnd k ch h = (s.releaseCore k).modChan k ch fun h => { h with cmd := none, fetch := a, next := none } := by
  simp [State.chainEnd, hn]

theorem armStep_disarms {s : State} {k ch t : Nat} {c : CopyCmd} (hl : c.shape = 0) :
    s.armStep k ch t c = (s.disarm k ch).modChan k ch fun h => { h with written := true } := by
  simp [State.armStep, hl]

theorem armStep_arms {s : State} {k ch t : Nat} {c : CopyCmd} (hl : c.shape ≠ 0) :
    s.armStep k ch t c = (s.flushWindow (s.pidOf t) c.srcAddr c.shape).modChan k ch fun h => { h with
      wmBase := c.srcAddr, wmLen := c.shape, wmDone := 0, armed := true, wmTeam := t, written := true } := by
  simp [State.armStep, hl]

/-- Each control command is the step of its own opcode. -/
theorem copyControlEvents : Claims.CopyControlEvents := by
  intro s t c k ch h pid rev hcmd hown hst hwritten hend fails waits free
  have prog : InProgress s t c h := ⟨rfl, hcmd, hown, hst, hwritten, hend⟩
  have wait (hop : c.op = 1) {u} (hu : s.waitStep k ch t h c = u) : exec .wait s = .next u :=
    congrArg Host.Outcome.next ((prog.chanStep hop _).trans hu)
  have post (hop : c.op = 2) {u} (hu : s.postStep k ch t h c = u) : exec .copyPost s = .next u :=
    congrArg Host.Outcome.next ((prog.chanStep hop _).trans hu)
  have stop (hop : c.op = 4) {u} (hu : s.withStatus k ch t h c (fun s => (s.copyStatus t c.addr 0 0).chainEnd k ch h) = u) :
      exec .stop s = .next u := congrArg Host.Outcome.next ((prog.chanStep hop _).trans hu)
  have arm (hop : c.op = 5) {u} (hu : s.armStep k ch t c = u) : exec .arm s = .next u :=
    congrArg Host.Outcome.next ((prog.chanStep hop _).trans hu)
  refine ⟨fun i op hmem hop hw => ?_, fun i op w hmem hop hw hh => ?_, fun hop hfree => ?_, fun hop hfree => ?_, fun hop => ?_,
    fun hop hw => ?_, fun hop => ?_⟩
  · simp only [List.mem_cons, Prod.mk.injEq, List.not_mem_nil, or_false] at hmem
    rcases hmem with ⟨rfl, rfl⟩ | ⟨rfl, rfl⟩ | ⟨rfl, rfl⟩
    · exact wait hop (waitStep_withdrawn hw)
    · exact post hop (postStep_withdrawn hw)
    · exact stop hop (withStatus_withdrawn hw)
  · simp only [List.mem_cons, Prod.mk.injEq, List.not_mem_nil, or_false] at hmem
    rcases hmem with ⟨rfl, rfl⟩ | ⟨rfl, rfl⟩
    · exact wait hop (waitStep_held hw hh)
    · exact post hop (postStep_held hw hh)
  · obtain ⟨hw, hh⟩ := hfree
    refine ⟨fun e hr => wait hop (waitStep_failed hw hh hr), fun bs hr => ?_⟩
    exact ⟨fun hlt => wait hop ((waitStep_read hw hh hr).trans (if_pos hlt)),
      fun hle => wait hop ((waitStep_read hw hh hr).trans (if_neg (Nat.not_lt.mpr hle)))⟩
  · obtain ⟨hw, hh⟩ := hfree
    exact ⟨fun e ht => post hop (postStep_untranslated hw hh ht), fun pa ht =>
      ⟨fun x hf => post hop (postStep_failed hw hh ht hf), fun hf u hu => post hop (postStep_added hw hh ht hf hu)⟩⟩
  · exact congrArg Host.Outcome.next (prog.chanStep hop _)
  · exact ⟨fun w hh => stop hop (withStatus_held hw hh), fun e hh he => stop hop (withStatus_failed hw hh he), fun hh he =>
      ⟨fun hn => stop hop ((withStatus_free hw hh he).trans (chainEnd_idle hn)),
        fun a hn => stop hop ((withStatus_free hw hh he).trans (chainEnd_next hn))⟩⟩
  · exact ⟨fun hl => arm hop (armStep_disarms hl), fun hl => arm hop (armStep_arms hl)⟩

/-! ## Completion (14 R342, R347, R349 to R352, 21 R476) -/

section Completion
variable {s : State} {k ch t : Nat} {h : Chan} {c : CopyCmd}

theorem chanWithdraw_held (hcmd : h.cmd = some c) (hown : h.owner = some t) (hh : s.statusHeld k ch t c.addr ≠ none) :
    s.chanWithdraw k ch h = s := by
  simp [State.chanWithdraw, hcmd, hown, Option.isSome_iff_ne_none, hh]

theorem chanWithdraw_free (hcmd : h.cmd = some c) (hown : h.owner = some t) (hh : s.statusHeld k ch t c.addr = none) :
    let u := s.copyStatus t c.addr 5 h.row
    s.chanWithdraw k ch h =
      (({ u with pending := u.pending.filter fun p => p.who != FaultBy.chan k ch } : State).disarm k ch).modChan k ch fun _ => {} := by
  simp [State.chanWithdraw, hcmd, hown, hh]

theorem chanComplete_ending (hend : ((s.core k).chan ch).ending = true) :
    s.chanComplete k ch = s.chanWithdraw k ch ((s.core k).chan ch) := by
  simp [State.chanComplete, hend]

theorem chanComplete_written (hchan : (s.core k).chan ch = h) (hcmd : h.cmd = some c) (hown : h.owner = some t) (hend : h.ending = false)
    (hst : h.st = .running) (hwritten : h.written = true) :
    s.chanComplete k ch = s.withStatus k ch t h c fun s =>
      let r := if c.op = 0 then s.copyFinish k ch t h c else (s, 0)
      (r.1.copyStatus t c.addr r.2 h.row).modChan k ch fun h => { h with cmd := none } := by
  simp [State.chanComplete, hchan, hcmd, hown, hend, hst, hwritten]

theorem copyArrive_none (hb : bitsOf c.dst 56 1 = 0) : s.copyArrive k c = (s, 0) := by
  simp [State.copyArrive, hb]

theorem copyArrive_uninitialised (hb : bitsOf c.dst 56 1 = 1)
    (hbar : s.barrier (s.postCore k (bitsOf c.dst 57 7)) (bitsOf c.dst 57 7) = none) : s.copyArrive k c = (s, 1) := by
  simp [State.copyArrive, hb, hbar]

theorem copyArrive_arrives {b : Barrier} (hb : bitsOf c.dst 56 1 = 1)
    (hbar : s.barrier (s.postCore k (bitsOf c.dst 57 7)) (bitsOf c.dst 57 7) = some b) :
    s.copyArrive k c = (s.setBarrier (s.postCore k (bitsOf c.dst 57 7)) (bitsOf c.dst 57 7) b.arrive, 0) := by
  simp [State.copyArrive, hb, hbar]
end Completion

/-- A channel whose team has ended is withdrawn; any other writes STATUS with the code that its barrier arrival gives. -/
theorem copyCompletion : Claims.CopyCompletion := by
  intro s t c k ch h held hcmd hown
  refine ⟨fun hend => ?_, fun hend hst hwritten => ?_⟩
  · have ends : exec .copyCommandCompletion s = .next (s.chanWithdraw k ch h) := congrArg Host.Outcome.next (chanComplete_ending hend)
    exact ⟨fun hh => ends.trans (congrArg _ (chanWithdraw_held hcmd hown hh)),
      fun hh => ends.trans (congrArg _ (chanWithdraw_free hcmd hown hh))⟩
  · have ends {u} (hu) : exec .copyCommandCompletion s = .next u :=
      congrArg Host.Outcome.next ((chanComplete_written rfl hcmd hown hend hst hwritten).trans hu)
    refine ⟨fun hw => ends (withStatus_withdrawn hw), fun w hw hh => ends (withStatus_held hw hh),
      fun e hw hh he => ends (withStatus_failed hw hh he), fun hw hh he => ?_⟩
    intro z done
    have finished (u code) (hr : (if c.op = 0 then z.copyFinish k ch t h c else (z, 0)) = (u, code)) : done u code :=
      ends ((withStatus_free hw hh he).trans (by dsimp only; rw [hr]))
    refine ⟨fun hop => finished z 0 (if_neg hop), fun hop => ?_⟩
    intro u m v n at_ mark
    have finish : z.copyFinish k ch t h c = (mark (v.copyArrive k c).1, (v.copyArrive k c).2) := rfl
    have arrived (x code) (hx : v.copyArrive k c = (x, code)) : done (mark x) code :=
      finished _ _ ((if_pos hop).trans (by rw [finish, hx]))
    exact ⟨fun hb => arrived v 0 (copyArrive_none hb), fun hb hbar => arrived v 1 (copyArrive_uninitialised hb hbar),
      fun b hb hbar => arrived _ 0 (copyArrive_arrives hb hbar)⟩

/-- Settles O39: the fetch, the rotation, COPY, the control commands and completion. -/
theorem copyEvents : Obligations.CopyEvents :=
  ⟨copyFetchEvent, copyRotation, copyEvent, copyControlEvents, copyCompletion⟩

end Sys2Proof.Placement
end

section
/-!
PROOFS. Requests at the home L2 and at the memory controllers, regulator windows, row counters and refresh management (03 R77, 13 R319,
R320, R335, 15 R360 to R366, 21 R469).
-/
namespace Sys2Proof.Placement
open Sys2Proof Sys2Proof.Machine

/-! ## Controllers and regulators as arrays -/

@[simp] theorem ctl_modCtl (s : State) (k n : Nat) (f : MemCtl → MemCtl) :
    (s.modCtl k f).ctl n = if n = k then f (s.ctl k) else s.ctl n := by
  simp [State.ctl, State.modCtl, getD_setAt]

@[simp] theorem ctl_modReg (s : State) (k n : Nat) (f : Regulator → Regulator) : (s.modReg k f).ctl n = s.ctl n := rfl

/-- A sector charged to a regulator adds 32 to its charge at the controller (15 R361). -/
theorem charge_chargeSector (s : State) (chan n : Nat) :
    ((s.chargeSector chan n).ctl chan).charge n = (s.ctl chan).charge n + 32 := by
  simp [State.chargeSector, MemCtl.charge]

/-! ## A request reaches its controller (15 R362, 21 R469) -/

theorem overShare_iff (s : State) (chan n : Nat) :
    s.overShare chan n = true ↔ s.regEnabled n = true ∧ ((s.reg n).budget + 23) / 24 < (s.ctl chan).charge n + 32 := by
  rw [State.overShare, Bool.and_eq_true, decide_eq_true_iff, Regulator.share]

/-- The request is made for a team that drains. -/
def Drains (s : State) (h : HeldReq) : Prop := ∃ t, h.team = some t ∧ (s.team t).status = .parked

section Controller
variable {s : State} {h : HeldReq}

theorem atController_drained (hpast : s.overShare h.chan h.reg = true) (hd : Drains s h) :
    s.atController h = s.toBank { h with later := true } := by
  obtain ⟨t, ht, hp⟩ := hd
  simp [State.atController, hpast, ht, hp]

theorem atController_past (hpast : s.overShare h.chan h.reg = true) (hd : ¬Drains s h) :
    s.atController h = (s.modCtl h.chan fun c => { c with held := c.held ++ [h] }).firstHold h.reg := by
  cases ht : h.team with
  | none => simp [State.atController, hpast, ht]
  | some t =>
    have : (s.team t).status ≠ .parked := fun hp => hd ⟨t, ht, hp⟩
    simp [State.atController, hpast, ht, this]

theorem atController_behind (hpast : s.overShare h.chan h.reg = false) (hold : ∃ q ∈ (s.ctl h.chan).held, q.reg = h.reg)
    (hd : ¬Drains s h) : s.atController h = s.modCtl h.chan fun c => { c with held := c.held ++ [h] } := by
  cases ht : h.team with
  | none => simp [State.atController, hpast, ht, hold]
  | some t =>
    have : (s.team t).status ≠ .parked := fun hp => hd ⟨t, ht, hp⟩
    simp [State.atController, hpast, ht, this, hold]

theorem atController_toBank (hpast : s.overShare h.chan h.reg = false)
    (hold : (∃ q ∈ (s.ctl h.chan).held, q.reg = h.reg) → Drains s h) : s.atController h = s.toBank h := by
  by_cases hd : Drains s h
  · obtain ⟨t, ht, hp⟩ := hd
    simp [State.atController, hpast, ht, hp]
  · have first : (s.ctl h.chan).held.any (·.reg == h.reg) = false := by
      simpa using fun q hq hreg => hd (hold ⟨q, hq, hreg⟩)
    simp [State.atController, hpast, first]

/-! ## At its bank (15 R364, R365) -/

theorem toBank_waits (hb : (s.ctl h.chan).blocked s.now h.bank = true ∨ ∃ q ∈ (s.ctl h.chan).queue, q.bank = h.bank) :
    s.toBank h = s.modCtl h.chan fun c => { c with queue := c.queue ++ [h] } := by
  rw [State.toBank, if_pos (by simpa using hb)]

theorem toBank_served (hb : ¬((s.ctl h.chan).blocked s.now h.bank = true ∨ ∃ q ∈ (s.ctl h.chan).queue, q.bank = h.bank)) :
    s.toBank h = s.serve h := by
  rw [State.toBank, if_neg (by simpa using hb)]
end Controller

/-- A request is held or passed on by its charge, its team and the older held requests; its bank then queues or serves it. -/
theorem controllerTakes : Claims.ControllerTakes := by
  intro s h c past drains older keep busy u
  have past_iff : past ↔ s.overShare h.chan h.reg = true := (overShare_iff s h.chan h.reg).symm
  have within (hp : ¬past) : s.overShare h.chan h.reg = false := by rwa [past_iff, Bool.not_eq_true] at hp
  refine ⟨fun hp hd => atController_drained (past_iff.mp hp) hd, fun hp hd => atController_past (past_iff.mp hp) hd,
    fun hp ho hd => atController_behind (within hp) ho hd, fun hp ho => atController_toBank (within hp) ho,
    toBank_waits, fun hb hopen hrow => ?_, fun hb hrow => ?_, fun _ => charge_chargeSector s h.chan h.reg⟩
  · exact (toBank_served hb).trans (if_pos (Bool.and_eq_true_iff.mpr ⟨hopen, beq_iff_eq.mpr hrow⟩))
  · refine (toBank_served hb).trans (if_neg fun hsame => ?_)
    obtain ⟨hopen, heq⟩ := Bool.and_eq_true_iff.mp hsame
    exact hrow hopen (beq_iff_eq.mp heq)

/-! ## The home L2 (03 R77, 13 R319, R320) -/

/-- Whether a union of masks holds a bit. -/
theorem getLsbD_foldl_or {α : Type} (f : α → W16) (xs : List α) (m : W16) (w : Nat) :
    (xs.foldl (fun m x => m ||| f x) m).getLsbD w = true ↔ m.getLsbD w = true ∨ ∃ x ∈ xs, (f x).getLsbD w = true := by
  induction xs generalizing m with
  | nil => simp
  | cons x xs ih => simp [ih, or_assoc]

/-- The ways of a request: those its partition reserves on the die when it has any, else those that no partition reserves. -/
theorem mem_allocWays (s : State) (part : Option Nat) (die w : Nat) :
    w ∈ s.allocWays part die ↔ w < 16 ∧
      if (part.map fun p => s.reservedWays p die).getD 0 = 0 then ∀ p < 16, (s.reservedWays p die).getLsbD w = false
      else ((part.map fun p => s.reservedWays p die).getD 0).getLsbD w = true := by
  have free : ((List.range 16).foldl (fun m p => m ||| s.reservedWays p die) 0).getLsbD w = false ↔
      ∀ p < 16, (s.reservedWays p die).getLsbD w = false := by
    rw [← Bool.not_eq_true, getLsbD_foldl_or]
    simp
  have ways : s.allocWays part die = (List.range 16).filter fun w =>
      if (part.map fun p => s.reservedWays p die).getD 0 = 0 then
        !((List.range 16).foldl (fun m p => m ||| s.reservedWays p die) 0).getLsbD w
      else ((part.map fun p => s.reservedWays p die).getD 0).getLsbD w := by cases part <;> rfl
  rw [ways, List.mem_filter, List.mem_range]
  refine and_congr_right fun _ => ?_
  split
  · rw [Bool.not_eq_true', free]
  · rfl

theorem mem_sectorsOf (line : Nat) (b : BitVec 4) (a : Nat) :
    a ∈ sectorsOf line b ↔ ∃ k < 4, b.getLsbD k = true ∧ a = line + 32 * k := by
  simp only [sectorsOf, List.mem_filterMap, List.mem_range, Option.ite_none_right_eq_some, Option.some.injEq, @eq_comm _ a]

/-- The sector of an address within its line, as a bit of the line's masks. -/
def sectorBit (pa : Nat) : BitVec 4 := BitVec.ofNat 4 (2 ^ (pa % 128 / 32))

/-- What DRAM must give for a sector that is not valid. -/
def sectorNeed (pa : Nat) (write whole : Bool) : List Nat := if write = true ∧ whole = true then [] else [sectorOf pa]

theorem sectorNeed_eq (pa : Nat) (write whole : Bool) :
    (if write && whole then [] else [sectorOf pa]) = sectorNeed pa write whole := by
  cases write <;> cases whole <;> rfl

/-- The way a miss takes: the policy's choice where it is allowed, else the first way allowed. -/
def takenWay (s : State) (part : Option Nat) (pa way : Nat) : Nat :=
  if (s.allocWays part (homeDie pa)).contains way then way else (s.allocWays part (homeDie pa)).headD 0

/-- The line a miss allocates. -/
def newLine (s : State) (part : Option Nat) (pa way : Nat) (write : Bool) : L2Line :=
  { die := homeDie pa, set := l2Set pa, way := takenWay s part pa way, line := lineOf pa, valid := sectorBit pa,
    dirty := if write then sectorBit pa else 0 }

/-- The lines at the place a miss takes. -/
def outLines (s : State) (part : Option Nat) (pa way : Nat) : List L2Line :=
  s.lodge.l2.filter fun y => y.die == homeDie pa && y.set == l2Set pa && y.way == takenWay s part pa way

section Lookup
variable {s : State} {part : Option Nat} {pa way : Nat} {write whole : Bool}

theorem l2Lookup_hit {x : L2Line} (hx : s.lodge.l2.find? (·.line == lineOf pa) = some x) :
    s.l2Lookup part pa write whole way =
      (if x.valid &&& sectorBit pa = 0 then sectorNeed pa write whole else [],
        s.lodge.l2.map fun y => if y.line = lineOf pa then
          { y with valid := y.valid ||| sectorBit pa, dirty := y.dirty ||| (if write then sectorBit pa else 0) } else y) := by
  rw [State.l2Lookup, hx, sectorNeed_eq]
  rfl

variable (hmiss : ∀ x ∈ s.lodge.l2, x.line ≠ lineOf pa)
include hmiss

theorem find_miss : s.lodge.l2.find? (·.line == lineOf pa) = none := by simpa using hmiss

theorem l2Lookup_unallocated (hno : lineOf pa ∈ s.quar ∨ s.allocWays part (homeDie pa) = []) :
    s.l2Lookup part pa write whole way = ([sectorOf pa], s.lodge.l2) := by
  have barred : (s.quar.contains (lineOf pa) || (s.allocWays part (homeDie pa)).isEmpty) = true := by simpa using hno
  rw [State.l2Lookup, find_miss hmiss]
  exact if_pos barred

variable (hquar : lineOf pa ∉ s.quar) (hways : s.allocWays part (homeDie pa) ≠ [])
include hquar hways

theorem l2Lookup_allocates : s.l2Lookup part pa write whole way =
    (sectorNeed pa write whole ++ (outLines s part pa way).flatMap (fun y => sectorsOf y.line y.dirty),
      newLine s part pa way write :: s.lodge.l2.filter fun y => !(outLines s part pa way).contains y) := by
  have free : ¬(s.quar.contains (lineOf pa) || (s.allocWays part (homeDie pa)).isEmpty) = true := by simp [hquar, hways]
  rw [State.l2Lookup, find_miss hmiss, sectorNeed_eq]
  exact if_neg free
end Lookup

theorem takenWay_of_mem {s : State} {part : Option Nat} {pa way : Nat} (h : way ∈ s.allocWays part (homeDie pa)) :
    takenWay s part pa way = way := by simp [takenWay, h]

theorem takenWay_mem {s : State} {part : Option Nat} {pa : Nat} (way : Nat) (h : s.allocWays part (homeDie pa) ≠ []) :
    takenWay s part pa way ∈ s.allocWays part (homeDie pa) := by
  by_cases hw : way ∈ s.allocWays part (homeDie pa)
  · rwa [takenWay_of_mem hw]
  · obtain ⟨w, ws, hws⟩ := List.exists_cons_of_ne_nil h
    rw [takenWay, if_neg (by simpa using hw), hws]
    exact List.mem_cons_self

theorem mem_outLines {s : State} {part : Option Nat} {pa way : Nat} {y : L2Line} :
    y ∈ outLines s part pa way ↔ y ∈ s.lodge.l2 ∧ y.die = homeDie pa ∧ y.set = l2Set pa ∧ y.way = takenWay s part pa way := by
  simp [outLines, and_assoc]

/-- A lookup by its three outcomes: a hit, a miss that takes no way, a miss that takes one. -/
theorem cacheLookup : Claims.CacheLookup := by
  intro s part pa way write whole line here need r own
  refine ⟨fun x hx => Prod.mk.inj (l2Lookup_hit hx), l2Lookup_unallocated, fun hmiss hquar hways => ?_,
    mem_allocWays s part (homeDie pa)⟩
  have hr : r = _ := l2Lookup_allocates hmiss hquar hways
  refine ⟨takenWay s part pa way, takenWay_mem way hways, takenWay_of_mem, ?_⟩
  intro out
  refine ⟨?_, fun y hy => ?_, fun a => ?_⟩
  · rw [hr]
    exact List.mem_cons_self
  · have other : y ≠ newLine s part pa way write := fun h => hmiss y hy (h ▸ rfl)
    simp only [hr, List.mem_cons, other, false_or, List.mem_filter, hy, true_and, List.contains_eq_mem, Bool.not_eq_true',
      decide_eq_false_iff_not, mem_outLines, out]
  · simp [hr, mem_outLines, mem_sectorsOf, out, need, sectorNeed, and_assoc]

/-! ## Requests for memory (13 R335, 15 R360) -/

theorem memRequest_elsewhere {s : State} {w : Requester} {pa way : Nat} {write whole ok : Bool}
    (h : ¬(s.physTarget pa = .mem ∧ s.pageHome (pa / 2 ^ 15) = s.pkg.toNat)) : s.memRequest w pa write whole way ok = s := by
  have : (s.physTarget pa != .mem || s.pageHome (pa / 2 ^ 15) != s.pkg.toNat) = true := by
    simpa [← Classical.not_and_iff_not_or_not] using h
  rw [State.memRequest, if_pos this]

theorem memRequest_here {s : State} {w : Requester} {pa way : Nat} {write whole ok : Bool}
    (h : s.physTarget pa = .mem ∧ s.pageHome (pa / 2 ^ 15) = s.pkg.toNat) :
    let u := s.countBlock pa (s.packageOf w)
    let r := u.l2Lookup (u.partitionOf w) pa write whole way
    s.memRequest w pa write whole way ok =
      r.1.foldl (fun z a => z.atController (z.requestOf w a ok)) { u with lodge.l2 := r.2 } := by
  have here : ¬(s.physTarget pa != .mem || s.pageHome (pa / 2 ^ 15) != s.pkg.toNat) = true := by simpa using h
  rw [State.memRequest, if_neg here]

/-- A request is this package's or passes it by; the regulators are read off the requester. -/
theorem memoryRequestEvent : Claims.MemoryRequestEvent :=
  ⟨fun _ => ⟨fun h => congrArg Host.Outcome.next (memRequest_elsewhere h), fun h => congrArg Host.Outcome.next (memRequest_here h)⟩,
    fun s => ⟨fun _ => rfl, fun _ => by simp [State.regulatorOf, bitsOf, Nat.shiftRight_eq_div_pow],
      fun d i h => by simp only [State.regulatorOf, h], rfl, rfl, rfl⟩⟩

/-! ## Windows, refresh management and rows (15 R361 to R366) -/

theorem windowStart_before {s : State} (h : s.now < s.lodge.windowEnd) : s.windowStart = s := by
  rw [State.windowStart, if_pos h]

theorem windowStart_after {s : State} (h : s.lodge.windowEnd ≤ s.now) :
    s.windowStart = s.openWindow (max s.lodge.windowEnd (s.now / s.lodge.windowLen * s.lodge.windowLen)) := by
  rw [State.windowStart, if_neg (Nat.not_lt.mpr h)]

theorem rfmCommand_alert {s : State} {chan bank row : Nat} (h : (s.ctl chan).nextAlert = some (bank, row)) :
    let u := s.modCtl chan fun c => { c with
      alerts := c.alerts.filter (· != (bank, row)), acts := c.acts.filter (fun a => !(a.1 == bank && a.2.1 == row)),
      sinceRfm := setAt 16 c.sinceRfm bank 0, open_ := setAt none c.open_ bank none,
      busy := (bank, s.now + 160) :: c.busy.filter (·.1 != bank), refreshed := some (bank, s.rfmRows row) }
    s.rfmCommand chan = { u with lodge.rhStat := u.lodge.rhStat + 1 } := by
  simp [State.rfmCommand, h]

/-- The rows of a command are the neighbours of its aggressor in the bank's 2^18 rows. -/
theorem mem_rfmRows (s : State) (row r : Nat) : r ∈ s.rfmRows row ↔
    r < 262144 ∧ r ≠ row ∧ row ≤ r + s.lodge.rhNeigh.toNat ∧ r ≤ row + s.lodge.rhNeigh.toNat := by
  simp only [State.rfmRows, List.mem_filterMap, List.mem_range, Option.ite_none_left_eq_some, Option.some.injEq]
  constructor
  · rintro ⟨k, hk, hout, rfl⟩
    omega
  · intro h
    exact ⟨r + s.lodge.rhNeigh.toNat - row, by omega, by omega, by omega⟩

/-- The activations of a row that its counter has kept. -/
def rowCount (c : MemCtl) (bank row : Nat) : Nat := ((c.acts.find? fun a => a.1 == bank && a.2.1 == row).map (·.2.2)).getD 0

section Activate
variable (s : State) (chan bank row : Nat)

theorem acts_activate : ((s.activate chan bank row).ctl chan).acts =
    (bank, row, rowCount (s.ctl chan) bank row + 1) :: (s.ctl chan).acts.filter fun a => !(a.1 == bank && a.2.1 == row) := by
  simp [State.activate, rowCount]

theorem mem_alerts_activate (h : s.lodge.rhThresh.toNat ≤ rowCount (s.ctl chan) bank row + 1) :
    (bank, row) ∈ ((s.activate chan bank row).ctl chan).alerts := by
  rw [rowCount] at h
  by_cases ha : (bank, row) ∈ (s.ctl chan).alerts <;> simp [State.activate, h, ha]

theorem open_activate : ((s.activate chan bank row).ctl chan).open_.getD bank none = some row := by
  simp [State.activate]

theorem mem_acts_activate_other {b r m : Nat} (h : (b, r) ≠ (bank, row)) :
    (b, r, m) ∈ ((s.activate chan bank row).ctl chan).acts ↔ (b, r, m) ∈ (s.ctl chan).acts := by
  have counted : (b, r, m) ≠ (bank, row, rowCount (s.ctl chan) bank row + 1) := fun e => h (congrArg (fun a => (a.1, a.2.1)) e)
  have kept : (!(b == bank && r == row)) = true := by
    rw [Bool.not_eq_true', ← Bool.not_eq_true, Bool.and_eq_true, beq_iff_eq, beq_iff_eq]
    exact fun ⟨hbank, hrow⟩ => h (Prod.ext hbank hrow)
  rw [acts_activate, List.mem_cons, or_iff_right counted, List.mem_filter, and_iff_left kept]
end Activate

/-- Windows by whether the one in progress has ended; rows by the counter, the alert and the open row of an activation. -/
theorem windowAndRowEvents : Claims.WindowAndRowEvents :=
  ⟨fun _ h => congrArg Host.Outcome.next (windowStart_before h), fun _ h => congrArg Host.Outcome.next (windowStart_after h),
    fun _ _ _ h => congrArg Host.Outcome.next (rfmCommand_alert h), mem_rfmRows, fun _ => rfl,
    fun s chan bank row => ⟨acts_activate s chan bank row ▸ List.mem_cons_self, mem_alerts_activate s chan bank row,
      open_activate s chan bank row, fun _ _ _ h => mem_acts_activate_other s chan bank row h⟩⟩

/-- Settles O41: a request at its controller, the lookup in the home L2, the request event, and windows and rows. -/
theorem controllerEvents : Obligations.ControllerEvents :=
  ⟨controllerTakes, cacheLookup, memoryRequestEvent, windowAndRowEvents⟩

end Sys2Proof.Placement
end
section
/-!
PROOFS. Coverage words of the C stream: `itemq` and `covrd` (04 R90 to R95, 09 R213), `defdrain` (07 R168, 09 R214).
-/
namespace Sys2Proof.CoverageLaunches
open Sys2Proof Sys2Proof.Machine

/-! ## A word of the C stream (00 R12, 09 R193) -/

section ControlWord
variable {s u : State} {k : Nat} {i : Instr} (hc : s.inC k)
include hc

/-- A control word with a legal field runs its effect. -/
theorem cWord_effect {bad : Bool} (hb : bad = false) (f : State → Nat → Eff) :
    cWord s f bad = .next ((f s k).commit s.cur s.iw) := by
  obtain ⟨hcur, ho, -⟩ := hc
  rw [cWord, State.word_offers_if ho _ rfl (by simp [badField, hb]), hcur]
  rfl

/-- A control word with an illegal field raises 0x041. -/
theorem cWord_badField {bad : Bool} (hb : bad = true) (f : State → Nat → Eff) :
    cWord s f bad = .next ((s.trapWith 0x041).commit s.cur s.iw) := by
  obtain ⟨hcur, ho, -⟩ := hc
  have hissue : s.canIssue (.c k) = true := by
    simp only [State.offers, Bool.and_eq_true, hcur] at ho
    exact ho.1.1.1
  simp [cWord, State.word, State.wordCause, State.issuing, badField, hb, hissue, hcur, Ctx.stream, State.trapWith]

/-- A control word that completes passes: its context is past it. -/
theorem passes_of_completes (hd : Completes i s u) (hcur : u.cur = s.cur) (hiw : u.iw = s.iw) : Passes i s k u := by
  rw [Completes, hc.1, Eff.commit_done_c (hcur.trans hc.1) hiw hc.2.2] at hd
  exact hd

omit hc in
/-- A control word that passes after an update of its team alone. -/
theorem teamDone_of_passes {f : Team → Team} (hp : Passes i s k (s.modTeam k f)) :
    ∃ t, exec i s = .next t ∧ TeamDone s t k (f (s.team k)) := by
  refine ⟨_, hp, ?_, ?_⟩
  · rw [State.repair_modTeam, State.modTeam_modTeam]
    exact onlyTeam_modTeam k _
  · simp
end ControlWord

/-! ## itemq (04 R90, 09 R213) -/

/-- Sizes of a tile that a team may declare: from 1 to 65,535, by a team that has declared none. -/
def TileOk (tm : Team) (w h : Nat) : Prop := 1 ≤ w ∧ w ≤ 65535 ∧ 1 ≤ h ∧ h ≤ 65535 ∧ tm.tile = none

theorem not_tileOk_iff {tm : Team} {w h : Nat} :
    ¬TileOk tm w h ↔ w = 0 ∨ 65535 < w ∨ h = 0 ∨ 65535 < h ∨ tm.tile.isSome = true := by
  rw [TileOk, ← Option.not_isSome_iff_eq_none]
  cases tm.tile <;> simp
  omega

/-- The surface of a tile is within the limits of its card: 2³² points, and rows of at most the pitch. -/
def SurfaceFits (c : Card) (w h : Nat) : Prop :=
  c.gridX * w * (c.gridY * h) ≤ 2 ^ 32 ∧ c.gridX * w * surfaceBytes c.elemFmt ≤ c.pitch

theorem not_surfaceFits_iff {c : Card} {w h : Nat} :
    ¬SurfaceFits c w h ↔ 4294967296 < c.gridX * w * (c.gridY * h) ∨ c.pitch < c.gridX * w * surfaceBytes c.elemFmt := by
  simp only [SurfaceFits, Decidable.not_and_iff_or_not, Nat.not_le, Nat.reducePow]

/-- A tile declared outside coverage changes its team alone. -/
theorem declareTile_of_not_covers {s : State} {k : Nat} (hcov : s.covers k = false) (w h : Nat) :
    s.declareTile k w h = s.modTeam k fun x => { x with tile := some (w, h) } := by
  simp_all [State.declareTile, State.covers]

@[simp] theorem declareTile_cur (s : State) (k w h : Nat) : (s.declareTile k w h).cur = s.cur := by
  unfold State.declareTile; dsimp only; split <;> rfl

@[simp] theorem declareTile_iw (s : State) (k w h : Nat) : (s.declareTile k w h).iw = s.iw := by
  unfold State.declareTile; dsimp only; split <;> rfl

theorem declareTile_tile (s : State) (k w h : Nat) : ((s.declareTile k w h).team k).tile = some (w, h) := by
  unfold State.declareTile; dsimp only; split <;> simp

/-- The first tile declared in a coverage launch is the launch's. -/
theorem declareTile_decl {s : State} {k : Nat} (hcov : s.covers k = true) (hd : (s.inst (s.team k).inst).decl = none) (w h : Nat) :
    ((s.declareTile k w h).inst (s.team k).inst).decl = some (w, h) := by
  simp_all [State.declareTile, State.covers]

section Itemq
variable {s : State} {k w h : Nat} {a b : BitVec 6} (hc : s.inC k) (hw : ((s.team k).cReg a).toNat = w)
  (hh : ((s.team k).cReg b).toNat = h)
include hc hw hh

theorem itemq_malformed (hbad : ¬TileOk (s.team k) w h) : Traps (.itemq a b) s 0x041 := by
  change execItemq a b s = _
  simp only [execItemq, cWord_effect hc, hw, hh, ← not_tileOk_iff, hbad, not_false_eq_true, if_true]

variable (hok : TileOk (s.team k) w h)
include hok

theorem itemq_outside (hcov : s.covers k = false) : Completes (.itemq a b) s (s.declareTile k w h) := by
  change execItemq a b s = _
  simp [execItemq, cWord_effect hc, hw, hh, ← not_tileOk_iff, hok, hcov]

variable (hcov : s.covers k = true)
include hcov

theorem itemq_again (hd : (s.inst (s.team k).inst).decl = some (w, h)) : Completes (.itemq a b) s (s.declareTile k w h) := by
  change execItemq a b s = _
  simp [execItemq, cWord_effect hc, hw, hh, ← not_tileOk_iff, hok, hcov, hd]

theorem itemq_differs {e : Nat × Nat} (hd : (s.inst (s.team k).inst).decl = some e) (hne : e ≠ (w, h)) :
    Traps (.itemq a b) s 0x308 := by
  change execItemq a b s = _
  simp [execItemq, cWord_effect hc, hw, hh, ← not_tileOk_iff, hok, hcov, hd, hne]

variable (hd : (s.inst (s.team k).inst).decl = none)
include hd

theorem itemq_waits (hl : (s.team k).linear ≠ 0) : Waits (.itemq a b) s s := by
  change execItemq a b s = _
  simp [execItemq, cWord_effect hc, hw, hh, ← not_tileOk_iff, hok, hcov, hd, hl]

variable (hl : (s.team k).linear = 0)
include hl

theorem itemq_beyond (hf : ¬SurfaceFits (s.inst (s.team k).inst).card w h) : Traps (.itemq a b) s 0x308 := by
  change execItemq a b s = _
  simp only [execItemq, cWord_effect hc]
  simp [hw, hh, ← not_tileOk_iff, ← not_surfaceFits_iff, hok, hcov, hd, hl, hf]

theorem itemq_declares (hf : SurfaceFits (s.inst (s.team k).inst).card w h) :
    Completes (.itemq a b) s (s.declareTile k w h) := by
  change execItemq a b s = _
  simp only [execItemq, cWord_effect hc]
  simp [hw, hh, ← not_tileOk_iff, ← not_surfaceFits_iff, hok, hcov, hd, hl, hf]
end Itemq

/-! ## covrd (09 R213) -/

/-- A `covrd` that reads `v` writes it to its register. -/
def Reads (s : State) (k : Nat) (d sel : BitVec 6) (v : Nat) : Prop :=
  Completes (.covrd d sel) s (s.modTeam k (·.setC d (BitVec.ofNat 64 v)))

/-- The team runs in a coverage launch of which probes are taken (R103). -/
def Sampled (s : State) (k : Nat) : Prop := s.covers k = true ∧ (s.inst (s.team k).inst).sampled ≠ none

section Covrd
variable {s : State} {k : Nat} {d : BitVec 6} (hc : s.inC k)
include hc

theorem Reads.teamDone {sel : BitVec 6} {v : Nat} (hr : Reads s k d sel v) :
    ∃ t, exec (.covrd d sel) s = .next t ∧ TeamDone s t k ((s.team k).setC d (BitVec.ofNat 64 v)) :=
  teamDone_of_passes (passes_of_completes hc hr rfl rfl)

theorem covrd_rung : Reads s k d 0 (s.rungOf k) := by
  change execCovrd d 0 s = _
  simp [execCovrd, cWord_effect hc]

theorem covrd_width : Reads s k d 3 (s.surface k).1 := by
  change execCovrd d 3 s = _
  simp [execCovrd, cWord_effect hc]

theorem covrd_height : Reads s k d 4 (s.surface k).2 := by
  change execCovrd d 4 s = _
  simp [execCovrd, cWord_effect hc]

theorem covrd_probes (hp : Sampled s k) :
    Reads s k d 1 1 ∧ Reads s k d 2 (probeStep (s.inst (s.team k).inst).rung) := by
  obtain ⟨hcov, hs⟩ := hp
  have hs : (s.inst (s.team k).inst).sampled.isSome = true := Option.isSome_iff_ne_none.mpr hs
  constructor
  · change execCovrd d 1 s = _
    simp [execCovrd, cWord_effect hc, hcov, hs]
  · change execCovrd d 2 s = _
    simp [execCovrd, cWord_effect hc, hcov, hs]

theorem covrd_noProbes (hp : ¬Sampled s k) : Reads s k d 1 0 ∧ Reads s k d 2 0 := by
  have hs : ¬(s.covers k = true ∧ (s.inst (s.team k).inst).sampled.isSome = true) := by rwa [Option.isSome_iff_ne_none]
  constructor
  · change execCovrd d 1 s = _
    simp [execCovrd, cWord_effect hc, hs]
  · change execCovrd d 2 s = _
    simp [execCovrd, cWord_effect hc, hs]

theorem covrd_undefined {sel : BitVec 6} (hsel : 5 ≤ sel.toNat) : Traps (.covrd d sel) s 0x041 := by
  change execCovrd d sel s = _
  exact cWord_badField hc (decide_eq_true (Nat.lt_of_succ_le hsel)) _
end Covrd

/-- `itemq` by the declarations of its team and of its launch; `covrd` by its selector. -/
theorem itemWords : Claims.ItemWords := by
  intro s k d a b hc tm x w h ok fits sampled reads
  have declared (hq : Completes (.itemq a b) s (s.declareTile k w h)) : ∃ t, exec (.itemq a b) s = .next t ∧
      (t.team k).tile = some (w, h) ∧ t.inst tm.inst = (s.declareTile k w h).inst tm.inst :=
    ⟨_, passes_of_completes hc hq (by simp) (by simp), by simp [declareTile_tile], by simp⟩
  refine ⟨itemq_malformed hc rfl rfl, fun hok hcov => ?outside, fun hok hcov hd => ?again,
    fun hok hcov ⟨e, hd, hne⟩ => itemq_differs hc rfl rfl hok hcov hd hne,
    fun hok hcov hd hl => itemq_waits hc rfl rfl hok hcov hd hl,
    fun hok hcov hd hl hf => itemq_beyond hc rfl rfl hok hcov hd hl hf, fun hok hcov hd hl hf => ?first,
    (covrd_rung hc).teamDone hc, fun hp => (covrd_probes hc hp).imp (·.teamDone hc) (·.teamDone hc),
    fun hp => (covrd_noProbes hc hp).imp (·.teamDone hc) (·.teamDone hc),
    (covrd_width hc).teamDone hc, (covrd_height hc).teamDone hc, fun sel hsel => covrd_undefined hc hsel⟩
  case outside =>
    have hq := itemq_outside hc rfl rfl hok hcov
    rw [declareTile_of_not_covers hcov] at hq
    exact teamDone_of_passes (passes_of_completes hc hq rfl rfl)
  case again =>
    obtain ⟨t, ht, htile, -⟩ := declared (itemq_again hc rfl rfl hok hcov hd)
    exact ⟨t, ht, htile⟩
  case first =>
    obtain ⟨t, ht, htile, hinst⟩ := declared (itemq_declares hc rfl rfl hok hcov hd hl hf)
    exact ⟨t, ht, htile, hinst ▸ declareTile_decl hcov hd w h⟩

/-! ## defdrain (07 R168, 09 R214) -/

/-- Placing batches changes groups alone, and so keeps the word being issued. -/
theorem placeBatches_issue {t : Nat} {snap : List W64} {bs rest : List DefBatch} {s u : State}
    (hp : s.placeBatches t snap bs = .inr (rest, u)) : u.cur = s.cur ∧ u.iw = s.iw := by
  induction bs generalizing s with
  | nil =>
    cases hp
    exact ⟨rfl, rfl⟩
  | cons b bs ih =>
    unfold State.placeBatches at hp
    dsimp only at hp
    split at hp
    · cases hp
      exact ⟨rfl, rfl⟩
    · split at hp
      · cases hp
      · simpa using ih hp

/-- The operands of a `defdrain`: a deferral queue, and scalars within the c registers. -/
def DrainOk (q a n : BitVec 6) : Prop := q.toNat < 4 ∧ n.toNat < 32 ∧ (n = 0 ∨ a.toNat + n.toNat ≤ 64)

theorem drainOk_iff {q a n : BitVec 6} : DrainOk q a n ↔
    (decide (4 ≤ q.toNat) || decide (32 ≤ n.toNat) || (n != 0 && decide (63 < a.toNat + n.toNat - 1))) = false := by
  simp only [DrainOk, Bool.or_eq_false_iff, decide_eq_false_iff_not, Bool.and_eq_false_iff, bne_eq_false_iff_eq,
    ← BitVec.toNat_inj (x := n)]
  omega

/-- The scalars a `defdrain` hands to its batches. -/
def drainScalars (tm : Team) (a n : BitVec 6) : List W64 :=
  (List.range n.toNat).map fun j => tm.cReg (BitVec.ofNat 6 (a.toNat + j))

/-- The state in which a `defdrain` that has cut its queue places the batches. -/
def drainCut (s : State) (k : Nat) (q a n : BitVec 6) : State :=
  (s.modTeam k fun x => { x with
    drain := batchesOf (x.dq.getD q.toNat []), dq := setAt [] x.dq q.toNat [],
    dqScalars := setAt [] x.dqScalars q.toNat (drainScalars x a n) }).modCtrl k fun c => { c with ticket := some 1 }

theorem drainCut_drain (s : State) (k : Nat) (q a n : BitVec 6) :
    ((drainCut s k q a n).team k).drain = batchesOf ((s.team k).dq.getD q.toNat []) := by simp [drainCut]

theorem drainCut_dqScalars (s : State) (k : Nat) (q a n : BitVec 6) :
    ((drainCut s k q a n).team k).dqScalars.getD q.toNat [] = drainScalars (s.team k) a n := by simp [drainCut]

section Drain
variable {s v : State} {k : Nat} {q a n : BitVec 6} (hc : s.inC k)
include hc

theorem defdrain_malformed (hbad : ¬DrainOk q a n) : Traps (.defdrain q a n) s 0x041 := by
  rw [drainOk_iff, Bool.not_eq_false] at hbad
  change execDefdrain q a n s = _
  exact cWord_badField hc hbad _

variable (hok : DrainOk q a n) (ht : (s.team k).ctrl.ticket = none)
include hok ht

theorem defdrain_busy (hx : (s.team k).xBusy = true) : Waits (.defdrain q a n) s s := by
  change execDefdrain q a n s = _
  rw [execDefdrain, cWord_effect hc (drainOk_iff.mp hok)]
  dsimp only
  rw [ht, hx, if_pos ⟨rfl, rfl⟩]

variable (hx : (s.team k).xBusy = false) {rest : List DefBatch}
  (hp : (drainCut s k q a n).placeBatches k (drainScalars (s.team k) a n) (batchesOf ((s.team k).dq.getD q.toNat [])) =
    .inr (rest, v))
include hx hp

/-- A first `defdrain` places the batches it cut, and completes when none is left. -/
theorem defdrain_places : exec (.defdrain q a n) s = .next (Eff.commit
    (if rest.isEmpty then .done (v.modTeam k fun x => { x with drain := rest })
      else .wait (v.modTeam k fun x => { x with drain := rest })) s.cur s.iw) := by
  rw [← drainCut_drain s k q a n, ← drainCut_dqScalars s k q a n] at hp
  change execDefdrain q a n s = _
  rw [execDefdrain, cWord_effect hc (drainOk_iff.mp hok)]
  dsimp only
  rw [ht, hx, if_neg (by simp), if_neg (by simp)]
  unfold drainCut drainScalars at hp
  rw [hp]
end Drain

/-- A first `defdrain` by the batches that found no group. -/
theorem deferralDrainWord : Claims.DeferralDrainWord := by
  intro s k q a n hc tm ok snap u batches
  refine ⟨defdrain_malformed hc, fun hok ht hx => defdrain_busy hc hok ht hx, fun hok ht hx v hp => ?_,
    fun hok ht hx b bs v hp => defdrain_places hc hok ht hx hp⟩
  obtain ⟨hcur, hiw⟩ := placeBatches_issue hp
  exact passes_of_completes hc (defdrain_places hc hok ht hx hp) hcur hiw

/-- Settles O18: the words of the tile and the surface, and the deferral drain. -/
theorem itemAndDrainWords : Obligations.ItemAndDrainWords :=
  ⟨itemWords, deferralDrainWord⟩

end Sys2Proof.CoverageLaunches
end

section
/-!
PROOFS. Merges of children (19 R440 to R445), reconstruction units (04 R103 to R109) and the comparison of redundant copies (20 R464
to R466, 22 R485).
-/
namespace Sys2Proof.CoverageLaunches
open Sys2Proof Sys2Proof.Machine

/-! ## The event MERGE (19 R441, R443, R445) -/

/-- A child may be merged once it has retired and no raster holds a command of its team. -/
theorem mergeReady_iff (s : State) (c : Child) :
    s.mergeReady c = true ↔ c.retired = true ∧ ∀ k ∈ s.clusters, ∀ r ∈ k.rasters, r.team ≠ c.team := by
  simp [State.mergeReady]

section MergeStep
variable {s : State} {t : Nat} {c : Child} {rv : Revision} (hrv : s.findRev (s.team c.team).rev = some rv)
include hrv

theorem mergeStep_parks {e : MErr} (hon : (s.part rv.pid).fltEnable = true) (hf : s.mergeFault t rv = some e) :
    s.mergeStep t c = s.parkFault t (.c t) (s.joinRaise t e) := by
  simp [State.mergeStep, hrv, hon, hf]

variable (hgo : (s.part rv.pid).fltEnable = false ∨ s.mergeFault t rv = none)
include hgo

theorem mergeStep_applies (hm : (s.applyMerge t c).2 = none) : s.mergeStep t c = (s.applyMerge t c).1 := by
  rcases hgo with hgo | hgo <;> simp [State.mergeStep, hrv, hgo, hm]

theorem mergeStep_raises {e : MErr} (hm : (s.applyMerge t c).2 = some e) :
    s.mergeStep t c = (s.applyMerge t c).1.raise t { (s.applyMerge t c).1.joinRaise t e with serviceable := false } 1
      (((s.applyMerge t c).1.team t).ctrl.pc + 4) := by
  rcases hgo with hgo | hgo <;> simp [State.mergeStep, hrv, hgo, hm]
end MergeStep

section MergeEvent
variable {s : State} {c : Child} (hj : s.joinWaits s.ev.team = true) (hn : (s.team s.ev.team).nextMerge = some c)
include hj hn

theorem merge_unready (hr : ¬s.mergeReady c = true) : exec .merge s = .next s := by
  change execMerge s = _
  simp [execMerge, hj, hn, hr]

theorem merge_ready (hr : s.mergeReady c = true) : exec .merge s = .next (s.mergeStep s.ev.team c) := by
  change execMerge s = _
  simp [execMerge, hj, hn, hr]
end MergeEvent

/-! ## The merged word of a type (19 R440) -/

theorem mergeWord_unchanged (type : Nat) (a p : W32) : mergeWord type a p a = p := if_pos rfl

section MergeWord
variable {a p x : W32} (hx : x ≠ a)
include hx

theorem mergeWord_max : (mergeWord 4 a p x).toInt = max p.toInt x.toInt := by
  simp only [mergeWord, if_neg hx, BitVec.slt_eq_decide, decide_eq_true_eq]
  split <;> omega

theorem mergeWord_maxu : (mergeWord 5 a p x).toNat = max p.toNat x.toNat := by
  simp only [mergeWord, if_neg hx, BitVec.ult_eq_decide, decide_eq_true_eq]
  split <;> omega

theorem mergeWord_min : (mergeWord 7 a p x).toInt = min p.toInt x.toInt := by
  simp only [mergeWord, if_neg hx, BitVec.slt_eq_decide, decide_eq_true_eq]
  split <;> omega

theorem mergeWord_minu : (mergeWord 8 a p x).toNat = min p.toNat x.toNat := by
  simp only [mergeWord, if_neg hx, BitVec.ult_eq_decide, decide_eq_true_eq]
  split <;> omega

/-- A merge of bits takes from the child the bits it changed. -/
theorem mergeWord_bits (b : Nat) (hb : b < 32) :
    (mergeWord 10 a p x).getLsbD b = if x.getLsbD b = a.getLsbD b then p.getLsbD b else x.getLsbD b := by
  simp only [mergeWord, if_neg hx, BitVec.getLsbD_or, BitVec.getLsbD_and, BitVec.getLsbD_xor, BitVec.getLsbD_not, hb, decide_true,
    Bool.true_and]
  by_cases h : x.getLsbD b = a.getLsbD b
  · simp [h]
  · rw [if_neg h, Bool.eq_not_of_ne h]
    simp
end MergeWord

/-- A merge by its child's readiness, the fault service, and what applying it raises; the merged word by its type. -/
theorem mergeEvent : Claims.MergeEvent := by
  constructor
  · intro s c t hj hn hret
    constructor
    · rintro ⟨k, hk, r, hr, he⟩
      exact merge_unready hj hn fun hready => ((mergeReady_iff s c).mp hready).2 k hk r hr he
    · intro hdone rv hrv
      rw [merge_ready hj hn ((mergeReady_iff s c).mpr ⟨hret, hdone⟩)]
      exact ⟨fun e hon hf => congrArg _ (mergeStep_parks hrv hon hf), fun hgo =>
        ⟨fun hm => congrArg _ (mergeStep_applies hrv hgo hm), fun e hm => congrArg _ (mergeStep_raises hrv hgo hm)⟩⟩
  · intro type a p x
    refine ⟨?_, fun hx => ⟨?_, ?_, ?_, ?_, ?_, ?_, ?_, ?_, ?_⟩⟩ <;> rintro rfl
    · exact mergeWord_unchanged ..
    · exact if_neg hx
    · exact if_neg hx
    · exact if_neg hx
    · exact mergeWord_max hx
    · exact mergeWord_maxu hx
    · exact mergeWord_min hx
    · exact mergeWord_minu hx
    · exact mergeWord_bits hx
    · exact if_neg hx

/-! ## Reconstruction units (04 R106, R107, R109) -/

theorem reconstructionStart_takes {s : State} {i : Nat} {rest : List Nat} (hfree : s.lodge.recon.getD s.ev.n none = none)
    (hw : s.reconWaiting s.ev.n = i :: rest) :
    exec .reconstructionStart s = .next { s with lodge.recon := setAt none s.lodge.recon s.ev.n (some i) } := by
  change execReconstructionStart s = _
  simp only [execReconstructionStart, hfree, hw]

/-- The reconstruction unit of the event has let its work go. -/
def unitFreed (s : State) : State := { s with lodge.recon := setAt none s.lodge.recon s.ev.n none }

section Reconstruction
variable {s : State} {i : Nat} (hunit : s.lodge.recon.getD s.ev.n none = some i) (hst : (s.inst i).st = .retiring)
include hunit hst

theorem reconstructionComplete_fails {c : Cause} {v : State} (hr : (unitFreed s).reconstruct i = .inl (c, v)) :
    exec .reconstructionComplete s = .next (v.reconFail i c) := by
  have hst : ((unitFreed s).inst i).st = .retiring := hst
  change execReconstructionComplete s = _
  unfold unitFreed at hr hst
  simp only [execReconstructionComplete, hunit, hst, bne_self_eq_false, Bool.false_eq_true, if_false, hr]

theorem reconstructionComplete_done {v : State} (hr : (unitFreed s).reconstruct i = .inr v) :
    exec .reconstructionComplete s = .next ((v.modInst i fun y => { y with reconDone := true }).finishInstance i) := by
  have hst : ((unitFreed s).inst i).st = .retiring := hst
  change execReconstructionComplete s = _
  unfold unitFreed at hr hst
  simp only [execReconstructionComplete, hunit, hst, bne_self_eq_false, Bool.false_eq_true, if_false, hr]
end Reconstruction

/-! ## The comparison of redundant copies (20 R465, R466, 22 R485) -/

/-- Redundant copies are to be compared: their launch retires with no team left, its surface, if it has one, reconstructed. -/
structure CompareDue (s : State) (i : Nat) : Prop where
  redundant : (s.inst i).redundant = true
  retiring : (s.inst i).st = .retiring
  uncompared : (s.inst i).compared = false
  teams : s.instTeams i = []
  placed : (s.inst i).unplaced = false
  surface : (s.inst i).card.flag 3 = false ∨ (s.inst i).reconDone = true

/-- The revision of copy `n`. -/
def copyRev (s : State) (i n : Nat) : Nat := (s.inst i).revs.getD n 0

section Compare
variable {s : State} {i : Nat} (hdue : CompareDue s i)
include hdue

/-- The first two copies against each other. -/
theorem compareCopies_pair (ht : (s.inst i).tie = false) : s.compareCopies i =
    if s.agree (copyRev s i 0) (copyRev s i 1) then s.acceptCopy i (copyRev s i 0) else s.tieBreak i := by
  obtain ⟨hred, hst, hcmp, hteams, hplaced, hsurf⟩ := hdue
  rcases hsurf with hsurf | hsurf <;>
    simp [State.compareCopies, copyRev, hred, hst, hcmp, hteams, hplaced, hsurf, ht]

/-- The third copy against the first two. -/
theorem compareCopies_tie (ht : (s.inst i).tie = true) : s.compareCopies i =
    if s.agree (copyRev s i 2) (copyRev s i 0) then (s.outvote i ((s.inst i).copyCluster 1)).acceptCopy i (copyRev s i 0)
    else if s.agree (copyRev s i 2) (copyRev s i 1) then (s.outvote i ((s.inst i).copyCluster 0)).acceptCopy i (copyRev s i 1)
    else ({ s with belv := s.belv ++ [BelvMsg.voted (maskClusters (s.inst i).card.clusterMask)] } : State).endAtOnce i
      ((s.inst i).card.nibble 0x183) (instRaise 0x183 s.now) := by
  obtain ⟨hred, hst, hcmp, hteams, hplaced, hsurf⟩ := hdue
  rcases hsurf with hsurf | hsurf <;>
    simp [State.compareCopies, copyRev, hred, hst, hcmp, hteams, hplaced, hsurf, ht]
end Compare

/-- Reconstruction by its unit and its passes; the comparison by the copies that agree. -/
theorem reconstructionAndCompare : Claims.ReconstructionAndCompare := by
  refine ⟨fun s i rest hfree hw => reconstructionStart_takes hfree hw,
    fun s i hunit hst => ⟨fun c v hr => reconstructionComplete_fails hunit hst hr,
      fun v hr => reconstructionComplete_done hunit hst hr⟩,
    ?_⟩
  intro s i x rev hred hst hcmp hteams hplaced hsurf
  have hdue : CompareDue s i := ⟨hred, hst, hcmp, hteams, hplaced, hsurf⟩
  have compare {u : State} (h : s.compareCopies i = u) : exec .redundantCompare s = .next u := congrArg Host.Outcome.next h
  have differ {b : Bool} : b = false → ¬b = true := Bool.eq_false_iff.mp
  refine ⟨fun ht h01 => ?_, fun ht h01 => ?_, fun ht h20 => ?_, fun ht h20 h21 => ?_, fun ht h20 h21 => ?_⟩
  · exact compare ((compareCopies_pair hdue ht).trans (if_pos h01))
  · exact compare ((compareCopies_pair hdue ht).trans (if_neg (differ h01)))
  · exact compare ((compareCopies_tie hdue ht).trans (if_pos h20))
  · exact compare ((compareCopies_tie hdue ht).trans ((if_neg (differ h20)).trans (if_pos h21)))
  · exact compare ((compareCopies_tie hdue ht).trans ((if_neg (differ h20)).trans (if_neg (differ h21))))

/-- Settles O47: merges, and reconstruction with the comparison of copies. -/
theorem mergeAndCompareEvents : Obligations.MergeAndCompareEvents :=
  ⟨mergeEvent, reconstructionAndCompare⟩

end Sys2Proof.CoverageLaunches
end

section
/-!
PROOFS. The issue of a matrix word (12 R289, R293, R307): what holds it back, the state it leaves when it joins the operation queue, and
its wait on a barrier.
-/
namespace Sys2Proof.MatrixControl
open Sys2Proof Sys2Proof.Machine

/-! ## Conditions of the issue -/

section Conditions
variable {s : State} {k : Nat} {w : MFields}

theorem mWaitGone_iff : s.mWaitGone k w = true ↔ s.mGone k w := by
  unfold State.mWaitGone State.mGone
  cases s.barRec (.m k) w.waitB.toNat <;> simp

theorem mBarMissing_iff : s.mBarMissing k w = true ↔ s.mMissing k w := by
  simp [State.mBarMissing, State.mMissing]

/-- A wait on a barrier that was not invalidated meanwhile is met as its recorded phase says. -/
theorem mWaitMet_iff (hg : ¬s.mGone k w) : s.mWaitMet k w = true ↔ s.mMet k w := by
  cases hw : w.waitEn with
  | false => simp [State.mWaitMet, State.mMet, hw]
  | true =>
    have hphase : s.mPhase k w.waitB.toNat = s.mSeen k w.waitB.toNat := by
      unfold State.mPhase State.mSeen
      cases hb : s.barRec (.m k) w.waitB.toNat with
      | none => rfl
      | some q => exact if_neg fun hq => hg ⟨hw, q, hb, hq⟩
    unfold State.mWaitMet State.mMet
    rw [hphase]
    cases s.barrier (s.team k).core w.waitB.toNat <;> simp [hw]

theorem claimReady_iff {tm : Team} {c : Claim} :
    tm.claimReady c = true ↔ ∃ r, tm.rings.getD c.ring none = some r ∧ r.claimed + c.n ≤ r.visible := by
  unfold Team.claimReady Team.ring
  cases tm.rings.getD c.ring none <;> simp

theorem fillReady_iff {tm : Team} {n : Nat} :
    tm.fillReady n = true ↔ ∃ r, tm.rings.getD n none = some r ∧ r.f + r.heldPop + r.resv < r.count := by
  unfold Team.fillReady Team.ring
  cases tm.rings.getD n none <;> simp

theorem mFree_iff {claims : List Claim} {fill : Option Nat} {cost : Nat} :
    s.mFree k claims fill cost ↔ claims.all (s.team k).claimReady = true ∧
      fill.all (s.team k).fillReady = true ∧ s.mRoom (s.arrayOf k) cost = true := by
  cases fill <;> simp [State.mFree, List.all_eq_true, claimReady_iff, fillReady_iff]
end Conditions

/-! ## The state of an issued word -/

theorem modRing_mctx (tm : Team) (n : Nat) (f : Ring → Ring) : (tm.modRing n f).mctx = tm.mctx := by
  unfold Team.modRing
  split <;> rfl

theorem foldl_claim_mctx (claims : List Claim) (tm : Team) : (claims.foldl Team.claim tm).mctx = tm.mctx := by
  induction claims generalizing tm with
  | nil => rfl
  | cons c cs ih =>
    rw [List.foldl_cons, ih, Team.claim]
    split
    · rfl
    · exact modRing_mctx ..

@[simp] theorem pushOp_cur (s : State) (o : MOp) : (s.pushOp o).cur = s.cur := rfl
@[simp] theorem pushOp_iw (s : State) (o : MOp) : (s.pushOp o).iw = s.iw := rfl
@[simp] theorem pushOp_team (s : State) (o : MOp) (n : Nat) : (s.pushOp o).team n = s.team n := rfl

/-- Taking the phase of a barrier changes its team's records of barriers alone. -/
theorem mTakeWait_cases (s : State) (k : Nat) (w : MFields) :
    s.mTakeWait k w = s ∨ ∃ l : Team → List BarRec, s.mTakeWait k w = s.modTeam k fun tm => { tm with barRecs := l tm } := by
  unfold State.mTakeWait
  split
  · split
    · exact .inr ⟨_, rfl⟩
    · exact .inl rfl
  · exact .inl rfl

theorem mTakeWait_mctx (s : State) (k : Nat) (w : MFields) : ((s.mTakeWait k w).team k).mctx = (s.team k).mctx := by
  rcases mTakeWait_cases s k w with h | ⟨l, h⟩ <;> simp [h]

theorem mTakeWait_issue (s : State) (k : Nat) (w : MFields) : (s.mTakeWait k w).cur = s.cur ∧ (s.mTakeWait k w).iw = s.iw := by
  rcases mTakeWait_cases s k w with h | ⟨l, h⟩ <;> simp [h]

section Issued
variable {s : State} {k : Nat} {w : MFields} {o : MOp} {claims : List Claim} {fill : Option Nat}

/-- An issued word by the functions of the model. -/
theorem mIssued_eq : s.mIssued k w o claims fill =
    (((s.mTakeWait k w).modTeam k fun tm => claims.foldl Team.claim tm).modTeam k fun tm =>
      fill.elim tm fun n => tm.modRing n fun r => { r with resv := r.resv + 1 }).pushOp { o with
        info := s.iw, runBefore := (s.team k).mctx.run, latchBefore := (s.team k).latch, issued := s.cycle
        waitBefore := s.mWaitBefore k w } := by
  unfold State.mIssued State.mTakeWait State.mWaitBefore
  dsimp only
  cases w.waitEn <;> cases s.barrier (s.team k).core w.waitB.toNat <;> cases fill <;> simp

theorem mIssued_issue : (s.mIssued k w o claims fill).cur = s.cur ∧ (s.mIssued k w o claims fill).iw = s.iw := by
  simp [mIssued_eq, mTakeWait_issue]

/-- Issue changes no record. -/
theorem mIssued_mctx : ((s.mIssued k w o claims fill).team k).mctx = (s.team k).mctx := by
  cases fill <;> simp [mIssued_eq, modRing_mctx, foldl_claim_mctx, mTakeWait_mctx]

theorem loopPost_of_not_ends {u : State} (h : ∀ r, (u.team k).mctx.run = some r → r.loopEnds = false) : u.loopPost k = u := by
  unfold State.loopPost
  cases hr : (u.team k).mctx.run with
  | none => rfl
  | some r => simp [h r hr]
end Issued

/-! ## Outcomes of the issue -/

section Send
variable {s : State} {k : Nat} {w : MFields} {o : MOp} {claims : List Claim} {fill : Option Nat} {step : Nat} {f : State → State}

theorem mSend_gone (hg : s.mGone k w) :
    s.mSend k w o claims fill step f = (s.clearBarRec (.m k) w.waitB.toNat).trapWith 0x1C0 := by
  simp only [State.mSend, mWaitGone_iff.mpr hg, if_true]

variable (hg : ¬s.mGone k w)
include hg

theorem mSend_missing (hm : s.mMissing k w) : s.mSend k w o claims fill step f = s.trapWith 0x1C8 := by
  simp only [State.mSend, mWaitGone_iff, mBarMissing_iff, hg, hm, if_true, if_false]

variable (hm : ¬s.mMissing k w)
include hm

theorem mSend_over (ho : s.mOver k o.cost step) : s.mSend k w o claims fill step f = s.trapWith 0x204 := by
  unfold State.mOver at ho
  simp only [State.mSend, mWaitGone_iff, mBarMissing_iff, hg, hm, ho, if_true, if_false]

variable (ho : ¬s.mOver k o.cost step)
include ho

/-- A word that nothing refuses waits until its barrier, its slots and the queue let it issue. -/
theorem mSend_waits (h : ¬(s.mMet k w ∧ s.mFree k claims fill o.cost)) :
    s.mSend k w o claims fill step f = .wait (s.mNoteWait k w) := by
  unfold State.mOver at ho
  rw [← mWaitMet_iff hg, mFree_iff] at h
  simp only [State.mSend, mWaitGone_iff, mBarMissing_iff, hg, hm, ho, if_false]
  rw [if_pos]
  refine Decidable.byContradiction fun hfree => h ?_
  cases fill <;> simpa [and_assoc] using hfree

theorem mSend_unmet (hmet : ¬s.mMet k w) : s.mSend k w o claims fill step f = .wait (s.setBarRec
    { (s.barRec (.m k) w.waitB.toNat).getD { ctx := .m k, bar := w.waitB.toNat, phase := 0, arrived := false } with waiting := true }) := by
  have hw : w.waitEn = true := Decidable.byContradiction fun hw => hmet fun h => absurd h hw
  have hnote : ¬s.mWaitMet k w = true := fun h => hmet ((mWaitMet_iff hg).mp h)
  rw [mSend_waits hg hm ho fun h => hmet h.1]
  simp [State.mNoteWait, hw, hnote]

variable (hmet : s.mMet k w)
include hmet

theorem mSend_unfree (hfree : ¬s.mFree k claims fill o.cost) : s.mSend k w o claims fill step f = .wait s := by
  rw [mSend_waits hg hm ho fun h => hfree h.2]
  simp [State.mNoteWait, (mWaitMet_iff hg).mpr hmet]

theorem mSend_free (hteam : o.team = k) (hfree : s.mFree k claims fill o.cost) :
    s.mSend k w o claims fill step f = .done (f ((s.mIssued k w o claims fill).loopPost k)) := by
  unfold State.mOver at ho
  subst hteam
  have hgo := And.intro ((mWaitMet_iff hg).mpr hmet) (mFree_iff.mp hfree)
  simp only [State.mSend, mWaitGone_iff, mBarMissing_iff, hg, hm, ho, if_false]
  rw [if_neg]
  · cases fill <;> simp [mIssued_eq]
  · cases fill <;> simpa [and_assoc] using hgo
end Send

/-! ## Outcomes of a matrix word -/

/-- A matrix word with legal fields runs its effect. -/
theorem mWord_legal {s : State} {k : Nat} (hcur : s.cur = .m k) (hoff : s.offers [.m] = true)
    {bad : State → Nat → Bool} (hb : bad s k = false) (f : State → Nat → Eff) :
    mWord s bad f = .next ((f s k).commit s.cur s.iw) := by
  rw [mWord, State.word_offers_if hoff _ rfl (by simp [badField, hcur, Ctx.team, hb]), hcur]
  rfl

section Stops
variable {s : State} {k : Nat} {i : Instr} {w : MFields} {o : MOp} {claims : List Claim} {fill : Option Nat} {step : Nat}
  {f : State → State} (he : exec i s = .next ((s.mSend k w o claims fill step f).commit s.cur s.iw))
include he

theorem mStops_of_mSend : s.mStops i k w claims fill o.cost step :=
  ⟨fun hg => by rw [he, mSend_gone hg],
    fun hg hm => by rw [Traps, he, mSend_missing hg hm],
    fun hg hm ho => by rw [Traps, he, mSend_over hg hm ho],
    fun hg hm ho hmet => by rw [Waits, he, mSend_unmet hg hm ho hmet],
    fun hg hm ho hmet hfree => by rw [Waits, he, mSend_unfree hg hm ho hmet hfree]⟩

variable (hteam : o.team = k) (hr : s.mReady k w claims fill o.cost step)
include hteam hr

theorem completes_of_mReady : Completes i s (f (s.mIssued k w o claims fill)) := by
  obtain ⟨hg, hm, ho, hmet, hfree, hend⟩ := hr
  rw [Completes, he, mSend_free hg hm ho hmet hteam hfree, loopPost_of_not_ends]
  rwa [mIssued_mctx]

end Stops

/-- An issued word of a record with a word after it passes on. -/
theorem passesOn_of_mReady {s : State} {k : Nat} {i : Instr} {w : MFields} {o : MOp} {claims : List Claim} {fill : Option Nat} {step : Nat}
    (he : exec i s = .next ((s.mSend k w o claims fill step id).commit s.cur s.iw)) (hteam : o.team = k)
    (hr : s.mReady k w claims fill o.cost step) (hcur : s.cur = .m k) (hmid : s.midBody = true) :
    PassesOn i s (s.mIssued k w o claims fill) := by
  have hdone : Completes i s (s.mIssued k w o claims fill) :=
    completes_of_mReady (f := id) he hteam hr
  obtain ⟨hc, hi⟩ := mIssued_issue (s := s) (k := k) (w := w) (o := o) (claims := claims) (fill := fill)
  have hrun : ((s.mIssued k w o claims fill).ctxState s.cur).run = (s.ctxState s.cur).run := by
    simp only [hcur, State.ctxState, mIssued_mctx]
  rwa [Completes, Eff.commit_done_run (by simp [hcur, Ctx.stream]) hc hi ((State.midBody_congr hc hi hrun).trans hmid)] at hdone

/-! ## The wait of a matrix word (12 R307) -/

section Wait
variable {s : State} {k : Nat} {w : MFields}

/-- `mbar` asks for nothing but its barriers and a place in the operation queue. -/
theorem mbar_sends (hcur : s.cur = .m k) (hoff : s.offers [.m] = true) :
    exec (.mbar w) s = .next ((s.mSend k w { team := k, instr := .mbar w } [] none 0 id).commit s.cur s.iw) :=
  mWord_legal hcur hoff (bad := fun _ _ => false) rfl fun s t => s.mSend t w { team := t, instr := .mbar w } [] none 0 id

theorem mFree_nothing : s.mFree k [] none 0 ↔ s.mRoom (s.arrayOf k) 0 = true := by simp [State.mFree]

theorem not_mOver_free : ¬s.mOver k 0 0 := by simp [State.mOver]

variable (hw : w.waitEn = true)
include hw

theorem mGone_of_wait : s.mGone k w ↔ ∃ q, s.barRec (.m k) w.waitB.toNat = some q ∧ q.gone = true := by simp [State.mGone, hw]

theorem mMissing_of_wait (hp : w.postEn = false) : s.mMissing k w ↔ s.barrier (s.team k).core w.waitB.toNat = none := by
  simp [State.mMissing, hw, hp]

variable {x : Barrier} (hx : s.barrier (s.team k).core w.waitB.toNat = some x)
include hx

theorem mMet_of_wait : s.mMet k w ↔ x.phase ≠ s.mSeen k w.waitB.toNat := by simp [State.mMet, hw, hx]

/-- The state in which a word that claims nothing has taken the phase it waited for. -/
theorem mIssued_of_wait {o : MOp} : s.mIssued k w o [] none =
    (s.setBarRec { ctx := .m k, bar := w.waitB.toNat, phase := x.phase, arrived := false }).pushOp { o with
      info := s.iw, runBefore := (s.team k).mctx.run, latchBefore := (s.team k).latch, issued := s.cycle
      waitBefore := some (w.waitB.toNat, (s.barRec (.m k) w.waitB.toNat).map fun q => { q with waiting := false }) } := by
  simp [mIssued_eq, State.mTakeWait, State.mWaitBefore, State.setBarRec, Ctx.team, hw, hx]
end Wait

/-- A wait by what holds it back: an invalidated or missing barrier, the phase recorded, the queue. -/
theorem matrixBarrierWait : Claims.MatrixBarrierWait := by
  intro s k w hcur hoff hw hp tm n was gone seen
  have hsend := mbar_sends (w := w) hcur hoff
  obtain ⟨hinvalid, hmissing, -, hunmet, hunfree⟩ := mStops_of_mSend hsend
  refine ⟨fun h => hinvalid ((mGone_of_wait hw).mpr h),
    fun h hx => hmissing (mt (mGone_of_wait hw).mp h) ((mMissing_of_wait hw hp).mpr hx), fun x h hx => ?_⟩
  have hg : ¬s.mGone k w := mt (mGone_of_wait hw).mp h
  have hm : ¬s.mMissing k w := fun hm => absurd (hx.symm.trans ((mMissing_of_wait hw hp).mp hm)) (by simp)
  have hmet : s.mMet k w ↔ x.phase ≠ seen := mMet_of_wait hw hx
  refine ⟨fun heq => hunmet hg hm not_mOver_free fun h => hmet.mp h heq,
    fun hne hroom => hunfree hg hm not_mOver_free (hmet.mpr hne) fun h => absurd (hroom.symm.trans (mFree_nothing.mp h)) (by decide),
    fun hne hroom hmid hend => ?_⟩
  have hready : s.mReady k w [] none 0 0 := ⟨hg, hm, not_mOver_free, hmet.mpr hne, mFree_nothing.mpr hroom, hend⟩
  have hpass := passesOn_of_mReady hsend rfl hready hcur hmid
  rwa [mIssued_of_wait hw hx] at hpass

end Sys2Proof.MatrixControl
end

section
/-!
PROOFS. The matrix words other than `mma`, `mmas` and `mreq`: the claim fails for an `mloop` issued together with the words of its loop
(12 R309).
-/
namespace Sys2Proof.MatrixControl
open Sys2Proof Sys2Proof.Machine

/-! ## An `mloop` issued with the words of its loop

A record that has issued `n` words goes back to the start of its loop when they end at the end of the loop and replays are left
(`RecRun.step`). The claim lets an `mloop` be issued with any number of words (`IssueInfo.words`) and has the record move past all of
them: with `1 + len` words it goes back instead. `State.issueRun` issues matrix words one at a time, so the state below is one that no
run of the device reaches; the claim does not leave it out. -/

/-- `mloop` of two replays of the one word after it. -/
def loopWord : MFields := { op := 0x0201 }

/-- A record at the `mloop` (0x2000000000000201), with the word of its loop and another word behind it. -/
def loopRun : RecRun := { idx := 0, lr := {}, st := .kernel, ker := [0x2000000000000201, 0, 0] }

/-- The `mloop` about to issue, with the word of its loop as a second word of it. -/
def atLoop : State :=
  { cur := .m 0, iw := { words := loopRun.ker.take 2 }, teams := [{ status := .running, mctx := { run := some loopRun } }] }

/-- The state in which the `mloop` has joined the operation queue and one replay is left. -/
def atLoopIssued : State :=
  (atLoop.mIssued 0 loopWord { team := 0, instr := .mloop loopWord } [] none).modRun (.m 0) fun x => { x with
    loopStart := 1, loopLen := 1, loopLeft := 1, loopOp := none }

/-- The position of the matrix record of team 0 in the next state. -/
def nextPos : Outcome → Option Nat
  | .next t => (t.team 0).mctx.run.map (·.pos)
  | _ => none

theorem atLoop_offers : atLoop.offers [.m] = true := by decide
theorem atLoop_midBody : atLoop.midBody = true := by decide

/-- Nothing holds the `mloop` back: it waits for no barrier, costs nothing, and its queue is empty. -/
theorem atLoop_ready : atLoop.mReady 0 loopWord [] none 0 0 := by
  refine ⟨by simp [State.mGone, loopWord], by simp [State.mMissing, loopWord], by simp [State.mOver], by simp [State.mMet, loopWord],
    ⟨by simp, by simp, by decide⟩, ?_⟩
  rintro r h
  cases h
  decide

/-- The model takes the record back to the word after the `mloop`. -/
theorem nextPos_mloop : nextPos (exec (.mloop loopWord) atLoop) = some 1 := by decide

/-- The claim moves the record past both words. -/
theorem mloop_passes (h : Claims.MatrixTileAndControlWords) : PassesOn (.mloop loopWord) atLoop atLoopIssued := by
  have := h atLoop 0 loopWord loopRun rfl atLoop_offers rfl
  obtain ⟨-, -, -, -, -, -, -, -, -, -, -, -, -, -, -, -, -, hmid, -⟩ := this
  obtain ⟨-, -, -, -, -, -, hloop, -⟩ := hmid atLoop_midBody
  exact hloop ⟨by decide, by decide, by decide, by decide, by simp [loopRun, RecRun.body, loopWord]⟩ atLoop_ready

/-- Refutes O31: an `mloop` issued with `1 + len` words takes its record back to the start of the loop, not past them. -/
theorem not_matrixControlWords : ¬ Obligations.MatrixControlWords := by
  rintro ⟨h, -⟩
  have hpos : nextPos (exec (.mloop loopWord) atLoop) = some 2 := (congrArg nextPos (mloop_passes h)).trans (by decide)
  exact absurd (nextPos_mloop.symm.trans hpos) (by decide)

end Sys2Proof.MatrixControl
end
